-- ==== Sys2Proof/Word.lean ====
section
/-! DEFINITION. The word types of the machine and their plainest arithmetic: bytes, words and double words (R3, R60). -/
namespace Sys2Proof

/-- One byte of memory. -/
abbrev Byte := BitVec 8
/-- One 32-bit word: a lane element, or the unit of the directory (R182). -/
abbrev Word := BitVec 32
/-- One 64-bit word: a scalar register, an address, an instruction word. -/
abbrev DWord := BitVec 64

/-- The two's-complement value clamped to the signed range of width `w` (R99, "Sat"). -/
def clampS (w : Nat) (x : Int) : Int :=
  let hi : Int := (2 ^ (w - 1) : Nat) - 1
  let lo : Int := - ((2 ^ (w - 1) : Nat) : Int)
  if x < lo then lo else if hi < x then hi else x

/-- The value clamped to the unsigned range of width `w`. -/
def clampU (w : Nat) (x : Int) : Int :=
  let hi : Int := (2 ^ w : Nat) - 1
  if x < 0 then 0 else if hi < x then hi else x

/-- One bit of a natural number. -/
def bitOf (n i : Nat) : Bool := n.testBit i

/-- Bits `hi:lo` of a natural number, in the notation of R3. -/
def bitsOf (n hi lo : Nat) : Nat := (n >>> lo) % 2 ^ (hi + 1 - lo)

/-- The number with the low `n` bits read as two's complement (`sx` of the manual's pseudocode). -/
def sxNat (x n : Nat) : Int :=
  let y := x % 2 ^ n
  if y < 2 ^ (n - 1) then (y : Int) else (y : Int) - ((2 ^ n : Nat) : Int)

/-- The number 1 or 0 that a comparison writes (R102). -/
def boolNat (b : Bool) : Nat := if b then 1 else 0

end Sys2Proof
end

