-- ==== Sys2Proof/Syntax.lean ====
section
/-! DEFINITION. The instructions and device steps of the machine: one constructor of `Instr` for each row of
spec/opcode_table.json. An instruction row carries the fields of its word; a device step (a row without a word)
carries what the step is about: which gang, which engine element, which register the host writes. -/
namespace Sys2Proof

/-- The special values (R34, R56), in the order of their codes from 704. -/
inductive Special where
  | zero | lane | slice | gang | groupX | groupY | groupZ | stage | crank | ngang | clock | context
  | yardkey | yardp0 | yardp1 | yardp2 | yardp3
  deriving DecidableEq, Repr

/-- The ten-bit operand space (R56): vector registers, scalar registers, special values, and the codes
721 to 1023 that no operand may hold (R57); `bad k` is the code 721 + k. -/
inductive Operand where
  | v (n : Fin 640)
  | s (n : Fin 64)
  | sp (x : Special)
  | bad (n : Fin 303)
  deriving DecidableEq, Repr

/-- The RND field (R51): the MODE register, nearest even, toward zero, nearest with ties away. -/
inductive Rnd where
  | mode | rn | rz | ra
  deriving DecidableEq, Repr

/-- A full word with the arithmetic layout of X (R51). Bit 2 of `neg` and `abs` is operand A, bit 1 is B, bit 0 is C. -/
structure Arith where
  d : Operand
  a : Operand
  b : Operand
  c : Operand
  rnd : Rnd
  sat : Bool
  slot : BitVec 3
  neg : BitVec 3
  abs : BitVec 3
  sub : BitVec 3
  deriving DecidableEq, Repr

/-- The I-form (R52). -/
structure IForm where
  d : Operand
  a : Operand
  imm : BitVec 32
  sub : BitVec 3
  deriving DecidableEq, Repr

/-- CVT (R116): the format codes stand in B, the element index in SUB. -/
structure CvtArgs where
  d : Operand
  a : Operand
  c : Operand
  df : BitVec 4
  sf : BitVec 4
  rnd : Rnd
  sat : Bool
  sub : BitVec 3
  deriving DecidableEq, Repr

/-- CVTS (R118): B bit 0 is the direction (`dq` for `.DQ`), SLOT the format slot, SUB the element index. -/
structure CvtsArgs where
  d : Operand
  a : Operand
  c : Operand
  dq : Bool
  rnd : Rnd
  slot : BitVec 3
  sub : BitVec 3
  deriving DecidableEq, Repr

/-- The address form of a memory word (R53): AM 0 through a translation register, AM 1 through a scalar
register, AM 2 the 64-bit per-lane address in the even pair that A names. -/
inductive MBase where
  | xt (n : Fin 16)
  | s (n : Fin 64)
  | pair
  deriving DecidableEq, Repr

/-- A full word with the memory layout of X (R53). `hintx` is bits 19:17: HINT and SX, or the OPC of ATOM and
RED (R231), or the value count of SMRG (R237). -/
structure MemArgs where
  d : Operand
  a : Operand
  base : MBase
  w : BitVec 3
  hintx : BitVec 3
  off : BitVec 16
  deriving DecidableEq, Repr

/-- The branch layout (R130). -/
structure Branch where
  d : Operand
  a : Operand
  cond : BitVec 3
  ofs : BitVec 32
  deriving DecidableEq, Repr

/-- REGANG (R138). -/
structure RegangArgs where
  id : BitVec 8
  deriving DecidableEq, Repr

/-- The thresholds of WAIT (R141). -/
structure WaitArgs where
  cp : BitVec 5
  ts : BitVec 5
  mp : BitVec 5
  kv : BitVec 5
  bk : BitVec 5
  rd : BitVec 5
  deriving DecidableEq, Repr

/-- The sync layout (R143). -/
structure Sync where
  d : Operand
  scope : BitVec 3
  id : BitVec 4
  deriving DecidableEq, Repr

/-- The immediate of TRAP (R153). -/
structure TrapArgs where
  imm : BitVec 16
  deriving DecidableEq, Repr

/-- CRD and CWR (R161): `r` is the register read into (D) or written from (A), `idx` the control register. -/
structure CrArgs where
  r : Operand
  idx : BitVec 16
  deriving DecidableEq, Repr

/-- One operand, in the field the instruction's entry names. -/
structure Ops1 where
  a : Operand
  deriving DecidableEq, Repr

/-- Two operands: D and A (MGET, PGMAP, LINECLR), or A and B (YDEP, PGINV). -/
structure Ops2 where
  x : Operand
  y : Operand
  deriving DecidableEq, Repr

/-- The three operands D, A and B. -/
structure Ops3 where
  d : Operand
  a : Operand
  b : Operand
  deriving DecidableEq, Repr

/-- CLEAN and INVAL (R239). -/
structure MaintArgs where
  a : Operand
  b : Operand
  scope : BitVec 3
  deriving DecidableEq, Repr

/-- XLATE (R240). -/
structure XlateArgs where
  n : Fin 16
  a : Operand
  deriving DecidableEq, Repr

/-- CPY (R241). -/
structure CpyArgs where
  d : Operand
  a : Operand
  b : Operand
  c : Operand
  form : BitVec 3
  ew : BitVec 2
  hint : BitVec 2
  deriving DecidableEq, Repr

/-- CPYM (R245). -/
structure CpymArgs where
  d : Operand
  a : Operand
  hint : BitVec 2
  deriving DecidableEq, Repr

/-- The map range layout (R268). -/
structure MapArgs where
  d : Operand
  a : Operand
  b : Operand
  c : Operand
  sub : BitVec 2
  deriving DecidableEq, Repr

/-- The matrix layout (R302). -/
structure MatArgs where
  d : Operand
  a : Operand
  kq : BitVec 4
  acc : Bool
  sa : BitVec 3
  sb : BitVec 3
  ofmt : BitVec 2
  g : BitVec 2
  pint : BitVec 7
  free : Bool
  deriving DecidableEq, Repr

/-- The key-value layout (R314). -/
structure KvArgs where
  d : Operand
  a : Operand
  b : Operand
  c : Operand
  eofs : BitVec 7
  fl : Bool
  sub : BitVec 2
  deriving DecidableEq, Repr

/-- The half opcodes (R65). -/
inductive HalfOp where
  | iadd | isub | imul | imin | imax | and | or | xor | shl | shr | sra | mov | fadd | fsub | fmul | fmin | fmax | hadd2 | hmul2 | hmax2 | cvtBf16F32 | cvtF32Bf16
  deriving DecidableEq, Repr

/-- The operands of one half of a pair word (R50): `d` is destination and first source. -/
structure HalfArgs where
  d : Operand
  s : Operand
  rnd : Rnd
  deriving DecidableEq, Repr

/-- One half of a pair word with its half opcode: slot B of a pair. -/
structure Half where
  op : HalfOp
  args : HalfArgs
  deriving DecidableEq, Repr

/-- Where the dispatcher seats one group of the unit it places (R357): core and first partition. -/
structure Seat where
  core : Nat
  p0 : Nat
  deriving DecidableEq, Repr

/-- The units that bring-up and failure name (R375, R366). -/
inductive Device where
  | link | lamgil | cluster (c : Nat) | stack (s : Nat) | channel (c : Nat) | core (c : Nat) | slice (i : Nat) | bank (b : Nat)
  deriving DecidableEq, Repr

/-- The host-visible registers without a step of their own (R352, R372): the register and, for a context's
block, the context. -/
inductive HostReg where
  | ctxrec (c : Nat) | ctxctl (c : Nat) | resolve (c : Nat) | submit (c : Nat)
  | mailbox (off : Nat) | sliceSel (i j : Nat) | sliceCnt (i j : Nat) | vfEnable
  deriving DecidableEq, Repr

/-- A host or peer word access to device memory (R371, R374): through physical address `addr` when `ctx` is none
(the physical function's BAR 2, a peer), else through virtual address `addr` of the context; a write carries its
word, a read none. -/
structure Incoming where
  ctx : Option Nat
  addr : Nat
  data : Option Word
  deriving DecidableEq, Repr

/-- Where an SRAM error strikes (R379): a corrected single-bit error, a clean copy, the codeword of 8 bytes at a
physical address in memory, or in a window copy of an L1 or of a home slice, the registers of a gang, an instruction store of a bank core. -/
inductive Strike where
  | corrected (slice : Nat) | clean | memory (pa : Nat) | copy (l2 : Bool) (unit pa : Nat) | gang (g : Nat) | bankStore (b : Nat)
  deriving DecidableEq, Repr

/-- Every row of the table of operations and events. A constructor whose docstring cites an OP has a word (R49,
R50, R66); the others are steps of the device. -/
inductive Instr where
  /-- NOP, OP 0x00 (R67). -/
  | nop
  /-- IADD, OP 0x01 (R100). -/
  | iadd (x : Arith)
  /-- ISUB, OP 0x02 (R100). -/
  | isub (x : Arith)
  /-- IMUL, OP 0x03 (R100). -/
  | imul (x : Arith)
  /-- IMULH, OP 0x04 (R100). -/
  | imulh (x : Arith)
  /-- IMULHU, OP 0x05 (R100). -/
  | imulhu (x : Arith)
  /-- IMAD, OP 0x06 (R100). -/
  | imad (x : Arith)
  /-- IMIN, OP 0x07 (R100). -/
  | imin (x : Arith)
  /-- IMAX, OP 0x08 (R100). -/
  | imax (x : Arith)
  /-- UMIN, OP 0x09 (R100). -/
  | umin (x : Arith)
  /-- UMAX, OP 0x0A (R100). -/
  | umax (x : Arith)
  /-- IABS, OP 0x0B (R100). -/
  | iabs (x : Arith)
  /-- AND, OP 0x0C (R100). -/
  | and (x : Arith)
  /-- OR, OP 0x0D (R100). -/
  | or (x : Arith)
  /-- XOR, OP 0x0E (R100). -/
  | xor (x : Arith)
  /-- ANDN, OP 0x0F (R100). -/
  | andn (x : Arith)
  /-- SHL, OP 0x10 (R101). -/
  | shl (x : Arith)
  /-- SHR, OP 0x11 (R101). -/
  | shr (x : Arith)
  /-- SRA, OP 0x12 (R101). -/
  | sra (x : Arith)
  /-- ROL, OP 0x13 (R101). -/
  | rol (x : Arith)
  /-- POPC, OP 0x14 (R100). -/
  | popc (x : Arith)
  /-- CLZ, OP 0x15 (R100). -/
  | clz (x : Arith)
  /-- CTZ, OP 0x16 (R100). -/
  | ctz (x : Arith)
  /-- BREV, OP 0x17 (R100). -/
  | brev (x : Arith)
  /-- BFX, OP 0x18 (R103). -/
  | bfx (x : Arith)
  /-- BFI, OP 0x19 (R103). -/
  | bfi (x : Arith)
  /-- SEL, OP 0x1A (R100). -/
  | sel (x : Arith)
  /-- ICMP, OP 0x1B (R102). -/
  | icmp (x : Arith)
  /-- IADD64, OP 0x1C (R105). -/
  | iadd64 (x : Arith)
  /-- ISUB64, OP 0x1D (R105). -/
  | isub64 (x : Arith)
  /-- IMUL64, OP 0x1E (R105). -/
  | imul64 (x : Arith)
  /-- LEA, OP 0x1F (R105). -/
  | lea (x : Arith)
  /-- MOVI, OP 0x20 (R104). -/
  | movi (x : IForm)
  /-- MOV, OP 0x21 (R100). -/
  | mov (x : Arith)
  /-- IADDI, OP 0x22 (R104). -/
  | iaddi (x : IForm)
  /-- ANDI, OP 0x23 (R104). -/
  | andi (x : IForm)
  /-- ORI, OP 0x24 (R104). -/
  | ori (x : IForm)
  /-- XORI, OP 0x25 (R104). -/
  | xori (x : IForm)
  /-- SHIFTI, OP 0x26 (R104). -/
  | shifti (x : IForm)
  /-- ICMPI, OP 0x27 (R104). -/
  | icmpi (x : IForm)
  /-- IDP4, OP 0x28 (R106). -/
  | idp4 (x : Arith)
  /-- IDP4U, OP 0x29 (R106). -/
  | idp4u (x : Arith)
  /-- FADD, OP 0x40 (R107). -/
  | fadd (x : Arith)
  /-- FSUB, OP 0x41 (R107). -/
  | fsub (x : Arith)
  /-- FMUL, OP 0x42 (R107). -/
  | fmul (x : Arith)
  /-- FFMA, OP 0x43 (R107). -/
  | ffma (x : Arith)
  /-- FMIN, OP 0x44 (R109). -/
  | fmin (x : Arith)
  /-- FMAX, OP 0x45 (R109). -/
  | fmax (x : Arith)
  /-- FCMP, OP 0x46 (R110). -/
  | fcmp (x : Arith)
  /-- FCLASS, OP 0x47 (R111). -/
  | fclass (x : Arith)
  /-- FRCP, OP 0x48 (R112). -/
  | frcp (x : Arith)
  /-- FRSQ, OP 0x49 (R112). -/
  | frsq (x : Arith)
  /-- FSQRT, OP 0x4A (R112). -/
  | fsqrt (x : Arith)
  /-- FEXP2, OP 0x4B (R112). -/
  | fexp2 (x : Arith)
  /-- FLOG2, OP 0x4C (R112). -/
  | flog2 (x : Arith)
  /-- FSINP, OP 0x4D (R112). -/
  | fsinp (x : Arith)
  /-- FCOSP, OP 0x4E (R112). -/
  | fcosp (x : Arith)
  /-- FADDI, OP 0x4F (R104). -/
  | faddi (x : IForm)
  /-- FMULI, OP 0x50 (R104). -/
  | fmuli (x : IForm)
  /-- HADD2, OP 0x51 (R114). -/
  | hadd2 (x : Arith)
  /-- HMUL2, OP 0x52 (R114). -/
  | hmul2 (x : Arith)
  /-- HFMA2, OP 0x53 (R114). -/
  | hfma2 (x : Arith)
  /-- HMAX2, OP 0x54 (R114). -/
  | hmax2 (x : Arith)
  /-- HMIN2, OP 0x55 (R114). -/
  | hmin2 (x : Arith)
  /-- DADD, OP 0x56 (R115). -/
  | dadd (x : Arith)
  /-- DSUB, OP 0x57 (R115). -/
  | dsub (x : Arith)
  /-- DMUL, OP 0x58 (R115). -/
  | dmul (x : Arith)
  /-- DFMA, OP 0x59 (R115). -/
  | dfma (x : Arith)
  /-- DMIN, OP 0x5A (R115). -/
  | dmin (x : Arith)
  /-- DMAX, OP 0x5B (R115). -/
  | dmax (x : Arith)
  /-- DCMP, OP 0x5C (R115). -/
  | dcmp (x : Arith)
  /-- CVT, OP 0x80 (R117). -/
  | cvt (x : CvtArgs)
  /-- CVTS, OP 0x81 (R118). -/
  | cvts (x : CvtsArgs)
  /-- DBQ, OP 0x82 (R119). -/
  | dbq (x : Arith)
  /-- DBX, OP 0x83 (R120). -/
  | dbx (x : Arith)
  /-- SHFL, OP 0x84 (R122). -/
  | shfl (x : Arith)
  /-- SHFLX, OP 0x85 (R122). -/
  | shflx (x : Arith)
  /-- SHFLU, OP 0x86 (R122). -/
  | shflu (x : Arith)
  /-- SHFLD, OP 0x87 (R122). -/
  | shfld (x : Arith)
  /-- BCAST, OP 0x88 (R123). -/
  | bcast (x : Arith)
  /-- VOTE, OP 0x89 (R124). -/
  | vote (x : Arith)
  /-- REDUCE, OP 0x8A (R126). -/
  | reduce (x : Arith)
  /-- SCAN, OP 0x8B (R126). -/
  | scan (x : Arith)
  /-- VCONF, OP 0x8C (R127). -/
  | vconf (x : Arith)
  /-- VISECT, OP 0x8D (R128). -/
  | visect (x : Arith)
  /-- KVSLOT, OP 0x8E (R129). -/
  | kvslot (x : Arith)
  /-- BR, OP 0xA0 (R133). -/
  | br (x : Branch)
  /-- BRC, OP 0xA1 (R133). -/
  | brc (x : Branch)
  /-- BRS, OP 0xA2 (R133). -/
  | brs (x : Branch)
  /-- JMPI, OP 0xA3 (R133). -/
  | jmpi (x : Branch)
  /-- CALL, OP 0xA4 (R133). -/
  | call (x : Branch)
  /-- RET, OP 0xA5 (R133). -/
  | ret (x : Branch)
  /-- IF, OP 0xA6 (R27). -/
  | ifOp (x : Branch)
  /-- ELSE, OP 0xA7 (R27). -/
  | elseOp (x : Branch)
  /-- ENDIF, OP 0xA8 (R27). -/
  | endif (x : Branch)
  /-- LOOP, OP 0xA9 (R27). -/
  | loop (x : Branch)
  /-- BRK, OP 0xAA (R27). -/
  | brk (x : Branch)
  /-- ENDLOOP, OP 0xAB (R27). -/
  | endloop (x : Branch)
  /-- REGANG, OP 0xAC (R26). -/
  | regang (x : RegangArgs)
  /-- EXIT, OP 0xAD (R139). -/
  | exit
  /-- WAIT, OP 0xAE (R141). -/
  | wait (x : WaitArgs)
  /-- WAITGE, OP 0xAF (R142). -/
  | waitge (x : Ops3)
  /-- BARA, OP 0xB0 (R144). -/
  | bara (x : Sync)
  /-- BARW, OP 0xB1 (R144). -/
  | barw (x : Sync)
  /-- BAR, OP 0xB2 (R144). -/
  | bar (x : Sync)
  /-- QPUSH, OP 0xB3 (R146). -/
  | qpush (x : Sync)
  /-- QPOP, OP 0xB4 (R146). -/
  | qpop (x : Sync)
  /-- PASSPRI, OP 0xB5 (R148). -/
  | passpri
  /-- SLEEP, OP 0xB6 (R149). -/
  | sleep (x : Ops1)
  /-- YDEP, OP 0xB7 (R150). -/
  | ydep (x : Ops2)
  /-- LAUNCH, OP 0xB8 (R151). -/
  | launch (x : Ops1)
  /-- POSTR, OP 0xB9 (R152). -/
  | postr (x : Ops1)
  /-- TRAP, OP 0xBA (R153). -/
  | trap (x : TrapArgs)
  /-- DRAIN, OP 0xBB (R154). -/
  | drain
  /-- LD, OP 0xC0 (R226). -/
  | ld (x : MemArgs)
  /-- ST, OP 0xC1 (R228). -/
  | st (x : MemArgs)
  /-- ATOM, OP 0xC2 (R232). -/
  | atom (x : MemArgs)
  /-- CAS, OP 0xC3 (R233). -/
  | cas (x : MemArgs)
  /-- RED, OP 0xC4 (R235). -/
  | red (x : MemArgs)
  /-- SMRG, OP 0xC5 (R237). -/
  | smrg (x : MemArgs)
  /-- PREF, OP 0xC6 (R230). -/
  | pref (x : MemArgs)
  /-- CLEAN, OP 0xC7 (R239). -/
  | clean (x : MaintArgs)
  /-- INVAL, OP 0xC8 (R239). -/
  | inval (x : MaintArgs)
  /-- XLATE, OP 0xC9 (R240). -/
  | xlate (x : XlateArgs)
  /-- CPY, OP 0xCA (R243). -/
  | cpy (x : CpyArgs)
  /-- CPYM, OP 0xCB (R245). -/
  | cpym (x : CpymArgs)
  /-- MSCL, OP 0xCC (R270). -/
  | mscl (x : MapArgs)
  /-- MOFS, OP 0xCD (R270). -/
  | mofs (x : MapArgs)
  /-- MCLP, OP 0xCE (R270). -/
  | mclp (x : MapArgs)
  /-- MFIL, OP 0xCF (R270). -/
  | mfil (x : MapArgs)
  /-- MPRM, OP 0xD0 (R270). -/
  | mprm (x : MapArgs)
  /-- MSET, OP 0xD1 (R271). -/
  | mset (x : MapArgs)
  /-- MMAT, OP 0xD2 (R273). -/
  | mmat (x : MapArgs)
  /-- MGET, OP 0xD3 (R274). -/
  | mget (x : Ops2)
  /-- MDROP, OP 0xD4 (R273). -/
  | mdrop (x : MapArgs)
  /-- KVAPP, OP 0xD5 (R281). -/
  | kvapp (x : KvArgs)
  /-- KVLDK, OP 0xD6 (R318). -/
  | kvldk (x : KvArgs)
  /-- KVLDV, OP 0xD7 (R319). -/
  | kvldv (x : KvArgs)
  /-- KVFORK, OP 0xD8 (R281). -/
  | kvfork (x : KvArgs)
  /-- KVDROP, OP 0xD9 (R281). -/
  | kvdrop (x : KvArgs)
  /-- KVEVICT, OP 0xDA (R317). -/
  | kvevict (x : KvArgs)
  /-- KVSETPOS, OP 0xDB (R281). -/
  | kvsetpos (x : KvArgs)
  /-- BKL, OP 0xDC (R334). -/
  | bkl (x : Ops3)
  /-- BKT_ZERO, OP 0xDD (R339). -/
  | bktZero (x : Ops3)
  /-- BKT_FILL, OP 0xDD (R339). -/
  | bktFill (x : Ops3)
  /-- BKT_COPY, OP 0xDD (R339). -/
  | bktCopy (x : Ops3)
  /-- BKT_ADD, OP 0xDD (R324). -/
  | bktAdd (x : Ops3)
  /-- BKT_MUL, OP 0xDD (R339). -/
  | bktMul (x : Ops3)
  /-- BKT_AXPY, OP 0xDD (R339). -/
  | bktAxpy (x : Ops3)
  /-- BKT_SCALE, OP 0xDD (R339). -/
  | bktScale (x : Ops3)
  /-- BKT_CVT, OP 0xDD (R340). -/
  | bktCvt (x : Ops3)
  /-- BKT_DOT, OP 0xDD (R341). -/
  | bktDot (x : Ops3)
  /-- BKT_IDOT, OP 0xDD (R342). -/
  | bktIdot (x : Ops3)
  /-- BKIR, OP 0xDE (R346). -/
  | bkir (x : Ops3)
  /-- BKM, OP 0xDF (R327). -/
  | bkm
  /-- MMA, OP 0xE0 (R305). -/
  | mma (x : MatArgs)
  /-- MMAS, OP 0xE1 (R305). -/
  | mmas (x : MatArgs)
  /-- ACCZ, OP 0xE2 (R309). -/
  | accz (x : MatArgs)
  /-- ACCRD, OP 0xE3 (R310). -/
  | accrd (x : MatArgs)
  /-- ACCWR, OP 0xE4 (R311). -/
  | accwr (x : MatArgs)
  /-- ACCST, OP 0xE5 (R312). -/
  | accst (x : MatArgs)
  /-- PROMO, OP 0xE6 (R309). -/
  | promo (x : MatArgs)
  /-- ERET, OP 0xF0 (R157). -/
  | eret
  /-- CRD, OP 0xF1 (R161). -/
  | crd (x : CrArgs)
  /-- CWR, OP 0xF2 (R161). -/
  | cwr (x : CrArgs)
  /-- PGMAP, OP 0xF3 (R246). -/
  | pgmap (x : Ops2)
  /-- PGINV, OP 0xF4 (R247). -/
  | pginv (x : Ops2)
  /-- PGATTR, OP 0xF5 (R248). -/
  | pgattr (x : Ops3)
  /-- KVPOP, OP 0xF6 (R283). -/
  | kvpop (x : KvArgs)
  /-- KVREF, OP 0xF7 (R283). -/
  | kvref (x : KvArgs)
  /-- LINECLR, OP 0xF8 (R249). -/
  | lineclr (x : Ops2)
  /-- The pair word whose slot A is half opcode 0x01 (R65); `y` is its slot B. -/
  | iaddHalf (x : HalfArgs) (y : Half)
  /-- The pair word whose slot A is half opcode 0x02 (R65); `y` is its slot B. -/
  | isubHalf (x : HalfArgs) (y : Half)
  /-- The pair word whose slot A is half opcode 0x03 (R65); `y` is its slot B. -/
  | imulHalf (x : HalfArgs) (y : Half)
  /-- The pair word whose slot A is half opcode 0x07 (R65); `y` is its slot B. -/
  | iminHalf (x : HalfArgs) (y : Half)
  /-- The pair word whose slot A is half opcode 0x08 (R65); `y` is its slot B. -/
  | imaxHalf (x : HalfArgs) (y : Half)
  /-- The pair word whose slot A is half opcode 0x0C (R65); `y` is its slot B. -/
  | andHalf (x : HalfArgs) (y : Half)
  /-- The pair word whose slot A is half opcode 0x0D (R65); `y` is its slot B. -/
  | orHalf (x : HalfArgs) (y : Half)
  /-- The pair word whose slot A is half opcode 0x0E (R65); `y` is its slot B. -/
  | xorHalf (x : HalfArgs) (y : Half)
  /-- The pair word whose slot A is half opcode 0x10 (R65); `y` is its slot B. -/
  | shlHalf (x : HalfArgs) (y : Half)
  /-- The pair word whose slot A is half opcode 0x11 (R65); `y` is its slot B. -/
  | shrHalf (x : HalfArgs) (y : Half)
  /-- The pair word whose slot A is half opcode 0x12 (R65); `y` is its slot B. -/
  | sraHalf (x : HalfArgs) (y : Half)
  /-- The pair word whose slot A is half opcode 0x21 (R64); `y` is its slot B. -/
  | movHalf (x : HalfArgs) (y : Half)
  /-- The pair word whose slot A is half opcode 0x40 (R65); `y` is its slot B. -/
  | faddHalf (x : HalfArgs) (y : Half)
  /-- The pair word whose slot A is half opcode 0x41 (R65); `y` is its slot B. -/
  | fsubHalf (x : HalfArgs) (y : Half)
  /-- The pair word whose slot A is half opcode 0x42 (R65); `y` is its slot B. -/
  | fmulHalf (x : HalfArgs) (y : Half)
  /-- The pair word whose slot A is half opcode 0x44 (R65); `y` is its slot B. -/
  | fminHalf (x : HalfArgs) (y : Half)
  /-- The pair word whose slot A is half opcode 0x45 (R65); `y` is its slot B. -/
  | fmaxHalf (x : HalfArgs) (y : Half)
  /-- The pair word whose slot A is half opcode 0x51 (R65); `y` is its slot B. -/
  | hadd2Half (x : HalfArgs) (y : Half)
  /-- The pair word whose slot A is half opcode 0x52 (R65); `y` is its slot B. -/
  | hmul2Half (x : HalfArgs) (y : Half)
  /-- The pair word whose slot A is half opcode 0x54 (R65); `y` is its slot B. -/
  | hmax2Half (x : HalfArgs) (y : Half)
  /-- The pair word whose slot A is half opcode 0x7E (R65); `y` is its slot B. -/
  | cvtBf16F32Half (x : HalfArgs) (y : Half)
  /-- The pair word whose slot A is half opcode 0x7F (R65); `y` is its slot B. -/
  | cvtF32Bf16Half (x : HalfArgs) (y : Half)
  /-- TRAP_ENTRY: device step (R155). -/
  | trapEntry (g : Nat)
  /-- TOKEN_RUN_LIMIT: device step (R47). -/
  | tokenRunLimit (p : Nat)
  /-- SLEEP_EXPIRY: device step (R149). -/
  | sleepExpiry (g sl : Nat)
  /-- LOAD_RETURN: device step (R226). -/
  | loadReturn (g n : Nat)
  /-- RED_ELEMENT: device step (R235). -/
  | redElement (op el : Nat)
  /-- SMRG_MERGE: device step (R238). -/
  | smrgMerge (op : Nat)
  /-- CPY_ELEMENT: device step (R244). -/
  | cpyElement (op el : Nat)
  /-- MAP_EDIT_ELEMENT: device step (R260). -/
  | mapEditElement (op el : Nat)
  /-- KV_ELEMENT: device step (R281). -/
  | kvElement (op el : Nat)
  /-- BANK_RECALL: device step (R347). -/
  | bankRecall (op : Nat)
  /-- BANK_WORK_ITEM: device step (R331). -/
  | bankWorkItem (b : Nat)
  /-- BANK_SUSPEND: device step (R350). -/
  | bankSuspend (b : Nat)
  /-- MMA_EXECUTE: device step (R306). -/
  | mmaExecute (p : Nat)
  /-- ACCZ_EXECUTE: device step (R309). -/
  | acczExecute (p : Nat)
  /-- PROMO_EXECUTE: device step (R289). -/
  | promoExecute (p : Nat)
  /-- ACCRD_EXECUTE: device step (R310). -/
  | accrdExecute (p : Nat)
  /-- ACCWR_EXECUTE: device step (R311). -/
  | accwrExecute (p : Nat)
  /-- ACCST_EXECUTE: device step (R312). -/
  | accstExecute (p : Nat)
  /-- MATRIX_UNIT_RESET: device step (R295). -/
  | matrixUnitReset (p : Nat)
  /-- TAIL_COMMIT: device step (R209). -/
  | tailCommit (g : Nat)
  /-- TAIL_INSTRUCTION_LIMIT: device step (R209). -/
  | tailInstructionLimit (g : Nat)
  /-- SHED: device step (R214). -/
  | shed (g : Nat)
  /-- CRAWL_END: device step (R215). -/
  | crawlEnd (g : Nat)
  /-- NODE_READY: device step (R356). -/
  | nodeReady (c : Nat)
  /-- PLACE_GROUP: device step (R357). -/
  | placeGroup (at_ : List Seat)
  /-- PREEMPT_GROUP: device step (R367). -/
  | preemptGroup (gr : Nat)
  /-- NODE_COMPLETE: device step (R359). -/
  | nodeComplete (n : Nat)
  /-- ASYNC_COMPLETION: device step (R140). -/
  | asyncCompletion (g cls : Nat)
  /-- FAULT_STAGE_WALK: device step (R362). -/
  | faultStageWalk (cl e : Nat)
  /-- FAULT_ESCALATE: device step (R363). -/
  | faultEscalate (cl e : Nat)
  /-- FAULT_RING_POLL: device step (R364). -/
  | faultRingPoll (c : Nat)
  /-- SUBMIT: device step (R352). -/
  | submit (c : Nat) (x : BitVec 64)
  /-- CTXCTL_ACTIVATE: device step (R353). -/
  | ctxctlActivate (c : Nat)
  /-- CTXCTL_TEARDOWN: device step (R352). -/
  | ctxctlTeardown (c : Nat)
  /-- CTXCTL_SUSPEND: device step (R368). -/
  | ctxctlSuspend (c : Nat)
  /-- CTXCTL_RESUME: device step (R368). -/
  | ctxctlResume (c : Nat)
  /-- CONTEXT_SUSPENDED: device step (R352). -/
  | contextSuspended (c : Nat)
  /-- RESOLVE_RETRY: device step (R363). -/
  | resolveRetry (c id : Nat)
  /-- RESOLVE_FAIL: device step (R363). -/
  | resolveFail (c id : Nat)
  /-- HOST_REGISTER_WRITE: device step (R352). -/
  | hostRegisterWrite (fn : Nat) (r : HostReg) (x : BitVec 64)
  /-- INCOMING_ACCESS: device step (R374). -/
  | incomingAccess (x : Incoming)
  /-- ATTESTATION_REQUEST: device step (R377). -/
  | attestationRequest
  /-- FIRMWARE_VERIFY: device step (R376). -/
  | firmwareVerify
  /-- UNIT_READY: device step (R375). -/
  | unitReady (u : Device)
  /-- UNIT_OFFLINE: device step (R366). -/
  | unitOffline (u : Device) (lost : List Nat)
  /-- SOFT_ERROR: device step (R379). -/
  | softError (x : Strike)
  /-- SCRUB: device step (R379). -/
  | scrub (bulk : Bool)
  /-- THERMAL_THROTTLE: device step (R380). -/
  | thermalThrottle (p : Nat)
  /-- FLR_VF: device step (R380). -/
  | flrVf (k : Nat)
  /-- FLR_PF: device step (R380). -/
  | flrPf
  /-- FUNDAMENTAL_RESET: device step (R380). -/
  | fundamentalReset
  /-- CLOCK_COUNT: device step (R34). -/
  | clockCount
  /-- DIRTY_WINDOW_WRITEBACK: device step (R199). -/
  | dirtyWindowWriteback (l2 : Bool) (u line : Nat)
  /-- ATS_TRANSLATION: device step (R373). -/
  | atsTranslation (page host : Nat)
  /-- SYSTEM_WRITE_ACKNOWLEDGE: device step (R199). -/
  | systemWriteAcknowledge (n : Nat)
  /-- PEER_LINK_DOWN: device step (R374). -/
  | peerLinkDown (port : Nat) (down : Bool)
  deriving DecidableEq, Repr

end Sys2Proof
end

