-- ==== Sys2Proof/WellFormed.lean ====
section
/-! DEFINITION. The checks of R68 that the word alone decides (checks 1 to 4, with R55, R59, R61 and each entry's own
limits): `Instr.wf` holds of exactly the instructions that a word of the device can carry. -/
namespace Sys2Proof

/-- How an operand position is read or written (R60): not at all, as 32 bits, as 64 bits. -/
inductive Pos where
  | no | r | q
  deriving DecidableEq, Repr

/-- What the entry of an instruction with the arithmetic layout allows (R55, R99, R108, R121): its positions, whether
RND, SAT and SLOT have a meaning, whether NEG and ABS act, how many subfunctions it lists, whether D must be a
vector register. -/
structure ADesc where
  d : Pos
  a : Pos
  b : Pos
  c : Pos
  rnd : Bool
  sat : Bool
  fp : Bool
  slot : Bool
  vecD : Bool
  nsub : Nat
  deriving DecidableEq, Repr

/-- An operand that names a vector register. -/
def Operand.isV : Operand → Bool
  | .v _ => true
  | _ => false

/-- An operand that names a scalar register. -/
def Operand.isS : Operand → Bool
  | .s _ => true
  | _ => false

/-- An operand that names a special value. -/
def Operand.isSp : Operand → Bool
  | .sp _ => true
  | _ => false

/-- The code 0, which an unused operand field holds (R55). -/
def Operand.zero : Operand := .v 0

/-- The entries of the arithmetic layout by opcode (R100, R105 to R107, R114, R115, R119 to R129). -/
def adesc (op : Nat) (sub : Nat) : ADesc :=
  let i3 (sat : Bool) : ADesc := ⟨.r, .r, .r, .no, false, sat, false, false, false, 1⟩
  let i2 (sat : Bool) : ADesc := ⟨.r, .r, .no, .no, false, sat, false, false, false, 1⟩
  let i4 (sat : Bool) : ADesc := ⟨.r, .r, .r, .r, false, sat, false, false, false, 1⟩
  let f3 (rnd : Bool) : ADesc := ⟨.r, .r, .r, .no, rnd, false, true, false, false, 1⟩
  let f2 (rnd : Bool) : ADesc := ⟨.r, .r, .no, .no, rnd, false, true, false, false, 1⟩
  let d3 (rnd : Bool) : ADesc := ⟨.q, .q, .q, .no, rnd, false, true, false, false, 1⟩
  let x3 (n : Nat) : ADesc := ⟨.r, .r, .r, .no, false, false, false, false, true, n⟩
  let x2 (n : Nat) : ADesc := ⟨.r, .r, .no, .no, false, false, false, false, true, n⟩
  match op with
  | 0x01 | 0x02 | 0x03 => i3 true
  | 0x04 | 0x05 => i3 false
  | 0x06 => i4 true
  | 0x07 | 0x08 | 0x09 | 0x0A => i3 false
  | 0x0B => i2 true
  | 0x0C | 0x0D | 0x0E | 0x0F | 0x10 | 0x11 | 0x12 | 0x13 => i3 false
  | 0x14 | 0x15 | 0x16 | 0x17 => i2 false
  | 0x18 => { i3 false with nsub := 2 }
  | 0x19 => i4 false
  | 0x1A => i4 false
  | 0x1B => { i3 false with nsub := 8 }
  | 0x1C | 0x1D | 0x1E => ⟨.q, .q, .q, .no, false, true, false, false, false, 1⟩
  | 0x1F => ⟨.q, .q, .r, .no, false, false, false, false, false, 8⟩
  | 0x21 => if sub = 1 then ⟨.q, .q, .no, .no, false, false, false, false, false, 2⟩ else { i2 false with nsub := 2 }
  | 0x28 => { i4 true with nsub := 2 }
  | 0x29 => i4 true
  | 0x40 | 0x41 | 0x42 => f3 true
  | 0x43 => { f3 true with c := .r }
  | 0x44 | 0x45 => f3 false
  | 0x46 => { f3 false with nsub := 8 }
  | 0x47 => f2 false
  | 0x48 | 0x49 | 0x4A | 0x4B | 0x4C | 0x4D | 0x4E => f2 true
  | 0x51 | 0x52 => f3 true
  | 0x53 => { f3 true with c := .r }
  | 0x54 | 0x55 => f3 false
  | 0x56 | 0x57 | 0x58 => d3 true
  | 0x59 => { d3 true with c := .q }
  | 0x5A | 0x5B => d3 false
  | 0x5C => { d3 false with d := .r, nsub := 8 }
  | 0x82 => { x2 2 with slot := true }
  | 0x83 => { i3 false with slot := true }
  | 0x84 | 0x85 | 0x86 | 0x87 => x3 5
  | 0x88 => x3 1
  | 0x89 => x2 4
  | 0x8A | 0x8B => { x2 8 with rnd := sub == 5, sat := sub == 0 }
  | 0x8C => x2 1
  | 0x8D => x3 2
  | _ => i3 false

/-- An operand that names an unassigned special value (R56: codes 721 to 767). -/
def Operand.isNoSp : Operand → Bool
  | .bad n => n.val < 47
  | _ => false

/-- A field that names a special value, assigned or not (R56: codes 704 to 767; notes/assumptions 38). -/
def Operand.special (o : Operand) : Bool := o.isSp || o.isNoSp

/-- An unused operand field holds 0 in the canonical form of an instruction. -/
def Pos.ok (p : Pos) (o : Operand) : Bool := p != .no || o == .zero

/-- Check 4 of R68 by R59: with a scalar destination no used source names a vector register. -/
def Pos.scalarOk (p : Pos) (o : Operand) : Bool := p == .no || !o.isV

/-- The NEG and ABS bits an entry allows: those of the positions it reads, on floating-point instructions (R108). -/
def ADesc.mask (e : ADesc) : BitVec 3 :=
  if e.fp then (if e.a == .no then 0#3 else 4#3) ||| (if e.b == .no then 0#3 else 2#3) ||| (if e.c == .no then 0#3 else 1#3)
  else 0#3

/-- Checks 2 and 4 of R68 for the arithmetic layout. -/
def Arith.wf (x : Arith) (op : Nat) : Bool :=
  let e := adesc op x.sub.toNat
  e.a.ok x.a && e.b.ok x.b && e.c.ok x.c
  && (x.rnd == .mode || e.rnd) && (!x.sat || e.sat) && (x.slot == 0#3 || e.slot)
  && (x.neg &&& ~~~e.mask) == 0#3 && (x.abs &&& ~~~e.mask) == 0#3
  && x.sub.toNat < e.nsub
  && (if e.vecD then !x.d.isS else !x.d.isS || (e.a.scalarOk x.a && e.b.scalarOk x.b && e.c.scalarOk x.c))
  && (op != 0x88 || !x.b.isV)
  && (op != 0x82 || (x.a.isV && x.d.isV))

/-- Checks 2 and 4 for the I-form (R104). -/
def IForm.wf (x : IForm) (op : Nat) : Bool :=
  (match op with
   | 0x20 => x.sub.toNat < 3 && (x.sub != 2#3 || !x.d.isV) && x.a == .zero
   | 0x23 | 0x24 | 0x25 => x.sub.toNat < 2
   | 0x26 => x.sub.toNat < 4 && x.imm.toNat < (if x.d.isS then 64 else 32)
   | 0x27 => true
   | _ => x.sub == 0#3)
  && (op == 0x20 || !x.d.isS || !x.a.isV)

/-- The width in bits of a narrow format of R116, by its code of R81; 0 for the other formats. -/
def narrowBits (f : Nat) : Nat :=
  match f with
  | 0x2 => 16 | 0x3 => 8 | 0x4 => 8 | 0x7 => 8 | 0x8 => 4 | _ => 0

/-- The ten format codes that CVT accepts (R116). -/
def cvtCode (f : Nat) : Bool :=
  f == 0xB || f == 0x1 || f == 0x2 || f == 0x3 || f == 0x4 || f == 0x7 || f == 0x8 || f == 0x9 || f == 0xA || f == 0xC

/-- The integer formats of R81. -/
def intCode (f : Nat) : Bool := f == 0x7 || f == 0x8 || f == 0x9 || f == 0xA || f == 0xC

/-- Checks 2 and 4 for CVT (R116). -/
def CvtArgs.wf (x : CvtArgs) : Bool :=
  let df := x.df.toNat
  let sf := x.sf.toNat
  let nd := narrowBits df
  let ns := narrowBits sf
  cvtCode df && cvtCode sf && !(nd != 0 && ns != 0) && (df != sf || df == 0x1 || df == 0xB)
  && x.sub.toNat < (if nd != 0 then 32 / nd else if ns != 0 then 32 / ns else 1)
  && (!x.sat || (intCode df && intCode sf))
  && (nd != 0 || x.c == .zero)
  && (!x.d.isS || (!x.a.isV && (nd == 0 || !x.c.isV)))

/-- Checks 2 and 4 for CVTS (R118), less the format of its slot. -/
def CvtsArgs.wf (x : CvtsArgs) : Bool :=
  (!x.dq || x.c == .zero) && (!x.d.isS || (!x.a.isV && (x.dq || !x.c.isV)))

/-- Checks 2 and 4 for a memory word (R53, R224, R230 to R233, R237). -/
def MemArgs.wf (x : MemArgs) (op : Nat) : Bool :=
  let w := x.w.toNat
  w < 5
  && (match x.base with
      | .pair => (match x.a with | .v n => n.val % 2 == 0 | _ => false)
      | _ => true)
  && (match op with
      | 0xC0 => !(w == 4 && x.d.isS) && (!x.hintx.getLsbD 0 || w < 2 || (w == 2 && x.d.isS))
      | 0xC1 => !(w == 4 && x.d.isS) && !x.hintx.getLsbD 0
      | 0xC2 | 0xC4 => w == 2 || w == 3
      | 0xC3 => (w == 2 || w == 3) && x.hintx == 0#3
      | 0xC5 => w == 2 && x.a == .sp .zero && !x.d.isS && !x.d.special && (match x.base with | .s _ => true | _ => false)
      | _ => !x.hintx.getLsbD 0 && x.d == .zero)
  && (op == 0xC6 || !x.d.isS || !x.a.isV)

/-- Checks 2 and 4 for the branch layout (R130, R132, R133, R135). JMPI, RET and the indirect CALL take a scalar register, and
BRC a special value too, as the table of R133 says; a special value fails check 2 there (notes/assumptions 37). -/
def Branch.wf (x : Branch) (op : Nat) : Bool :=
  let cond := x.cond.toNat
  match op with
  | 0xA0 => x.d == .zero && x.a == .zero && cond == 0
  | 0xA1 => x.d == .zero && !x.a.isV && cond < 6
  | 0xA2 => x.d == .zero && cond < 6
  | 0xA3 | 0xA5 => x.d == .zero && !x.a.isV && !x.a.special && cond == 0 && x.ofs == 0#32
  | 0xA4 => x.d.isS && ((cond == 0 && x.a == .zero) || (cond == 1 && !x.a.isV && !x.a.special && x.ofs == 0#32))
  | 0xA6 | 0xAA => x.d == .zero && cond < 6
  | 0xA7 | 0xAB => x.d == .zero && x.a == .zero && cond == 0
  | _ => x.d == .zero && x.a == .zero && cond == 0 && x.ofs == 0#32

/-- Checks 2 and 4 for the sync layout (R143, R144, R146). -/
def Sync.wf (x : Sync) (op : Nat) : Bool :=
  let sc := x.scope.toNat
  match op with
  | 0xB3 => 3 ≤ sc && sc ≤ 5 && !x.d.isV
  | 0xB4 => 3 ≤ sc && sc ≤ 5 && !x.d.isV
  | _ => (sc == 3 || (sc == 5 && x.id.toNat < 8)) && x.d == .zero

/-- The assigned control registers (R160). -/
def crAssigned (i : Nat) : Bool :=
  i ≤ 0x005 || (0x008 ≤ i && i ≤ 0x015) || (0x020 ≤ i && i ≤ 0x05F)

/-- Checks 2 and 4 for CRD (OP 0xF1) and CWR (OP 0xF2) (R161). -/
def CrArgs.wf (x : CrArgs) (op : Nat) : Bool :=
  crAssigned x.idx.toNat && !x.r.isV && (op == 0xF1 || x.idx.toNat != 1)

/-- Checks 2 and 4 for the map range layout (R268, R271 to R273): gang-uniform operands (R61). -/
def MapArgs.wf (x : MapArgs) (op : Nat) : Bool :=
  let usesB := op != 0xD2 && op != 0xD4
  !x.d.isV && !x.a.isV
  && (if op == 0xD1 then (match x.b with | .s n => n.val % 4 == 0 | _ => false) && x.sub.toNat < 2
      else (if usesB then !x.b.isV else x.b == .zero) && x.sub == 0#2)
  && (if op == 0xCE then !x.c.isV else x.c == .zero)

/-- Checks 2 and 4 for the matrix layout (R302, R303), less the slots of R304. -/
def MatArgs.wf (x : MatArgs) (op : Nat) : Bool :=
  let noAddr := x.d == .zero && x.a == .zero
  let noSlots := x.sa == 0#3 && x.sb == 0#3
  (match op with
   | 0xE0 => !x.d.isV && !x.a.isV
   | 0xE1 => !x.d.isV && !x.a.isV && (x.kq == 5#4 || x.kq == 11#4)
   | 0xE2 => noAddr && noSlots
   | 0xE3 => !x.d.isS && !x.d.special && x.a == .zero
   | 0xE4 => !x.a.isS && !x.a.special && x.d == .zero && noSlots
   | 0xE5 => !x.d.isV && x.a == .zero
   | _ => noAddr && noSlots)
  && (op == 0xE0 || op == 0xE1 || x.kq == 0#4)
  && (op == 0xE5 || x.ofmt == 0#2) && (op == 0xE3 || op == 0xE4 || x.g == 0#2)
  && (if op == 0xE6 then 1 ≤ x.pint.toNat && x.pint.toNat ≤ 64 else x.pint == 0#7)
  && (op == 0xE2 || !x.free)

/-- Checks 2 and 4 for the key-value layout (R314, R315). -/
def KvArgs.wf (x : KvArgs) (op : Nat) : Bool :=
  let load := op == 0xD6 || op == 0xD7
  let pos (o : Operand) (used : Bool) : Bool := if used then !o.isV else o == .zero
  (if load then
     !x.d.isS && !x.d.special && x.sub.toNat < 2
     && (if x.fl then
           (match x.c, x.d with
            | .v f, .v d => f != d && (x.sub == 0#2 || f.val != d.val + 1)
            | .v _, _ => true
            | _, _ => false)
         else x.c == .zero)
   else !x.d.isV && x.c == .zero && x.eofs == 0#7 && !x.fl && x.sub == 0#2)
  && pos x.a (op != 0xD9 && op != 0xF6)
  && pos x.b (op == 0xD5 || load || op == 0xDB || op == 0xF7)

/-- Checks 2 and 4 for CPY (R241). -/
def CpyArgs.wf (x : CpyArgs) : Bool :=
  let f := x.form.toNat
  !x.d.isV && !x.a.isV && !x.b.isV && f < 5
  && (if f == 0 then x.c == .zero else !x.c.isV)
  && (if 3 ≤ f then x.ew.toNat < 3 else x.ew == 0#2)

/-- The bank of a vector register for pairing (R62); the other operands belong to none. -/
def Operand.pairBank : Operand → Option Nat
  | .v n => some (n.val / 128)
  | _ => none

/-- The RND values that a half opcode allows (R65). -/
def HalfOp.rounds : HalfOp → Bool
  | .fadd | .fsub | .fmul | .hadd2 | .hmul2 | .cvtBf16F32 => true
  | _ => false

/-- Rules 2 and 6 of R63 for one slot; an unassigned special value counts as a special value (DEDUCED: notes/assumptions 38), so that such a
slot is left to check 6 of R68. -/
def Half.slotOk (h : Half) : Bool :=
  (h.args.rnd == .mode || h.op.rounds) && (!h.args.d.isS || h.args.s.isS || h.args.s.special)

/-- Rules 2 to 6 of R63. -/
def pairOk (x y : Half) : Bool :=
  let ds := [x.args.d, x.args.s, y.args.d, y.args.s]
  let count (k : Nat) : Nat := (ds.filter fun o => o.pairBank == some k).length
  x.slotOk && y.slotOk
  && (match x.args.d.pairBank, y.args.d.pairBank with
      | some i, some j => i != j
      | _, _ => true)
  && (match x.args.d, y.args.d with
      | .s i, .s j => i != j
      | _, _ => true)
  && [0, 1, 2, 3, 4].all fun k => count k ≤ 2

/-- The pair whose slot A is the given half. -/
def HalfArgs.wf (x : HalfArgs) (op : HalfOp) (y : Half) : Bool := pairOk ⟨op, x⟩ y

/-- The instructions that a word of the device can carry: checks 1 to 4 of R68 as far as the word decides them. A
device step has no word. A special value as D of WAITGE (and one other than %zero as its A) fails check 2 here, as any field that must
name a scalar register and does not; as D of QPOP and CRD it traps when the word issues, as a written special (R57) (DESIGN CHOICE:
notes/assumptions 64). -/
def Instr.wf : Instr → Bool
  | .nop | .exit | .passpri | .drain | .eret | .bkm => true
  | .iadd x => x.wf 0x01
  | .isub x => x.wf 0x02
  | .imul x => x.wf 0x03
  | .imulh x => x.wf 0x04
  | .imulhu x => x.wf 0x05
  | .imad x => x.wf 0x06
  | .imin x => x.wf 0x07
  | .imax x => x.wf 0x08
  | .umin x => x.wf 0x09
  | .umax x => x.wf 0x0A
  | .iabs x => x.wf 0x0B
  | .and x => x.wf 0x0C
  | .or x => x.wf 0x0D
  | .xor x => x.wf 0x0E
  | .andn x => x.wf 0x0F
  | .shl x => x.wf 0x10
  | .shr x => x.wf 0x11
  | .sra x => x.wf 0x12
  | .rol x => x.wf 0x13
  | .popc x => x.wf 0x14
  | .clz x => x.wf 0x15
  | .ctz x => x.wf 0x16
  | .brev x => x.wf 0x17
  | .bfx x => x.wf 0x18
  | .bfi x => x.wf 0x19
  | .sel x => x.wf 0x1A
  | .icmp x => x.wf 0x1B
  | .iadd64 x => x.wf 0x1C
  | .isub64 x => x.wf 0x1D
  | .imul64 x => x.wf 0x1E
  | .lea x => x.wf 0x1F
  | .movi x => x.wf 0x20
  | .mov x => x.wf 0x21
  | .iaddi x => x.wf 0x22
  | .andi x => x.wf 0x23
  | .ori x => x.wf 0x24
  | .xori x => x.wf 0x25
  | .shifti x => x.wf 0x26
  | .icmpi x => x.wf 0x27
  | .idp4 x => x.wf 0x28
  | .idp4u x => x.wf 0x29
  | .fadd x => x.wf 0x40
  | .fsub x => x.wf 0x41
  | .fmul x => x.wf 0x42
  | .ffma x => x.wf 0x43
  | .fmin x => x.wf 0x44
  | .fmax x => x.wf 0x45
  | .fcmp x => x.wf 0x46
  | .fclass x => x.wf 0x47
  | .frcp x => x.wf 0x48
  | .frsq x => x.wf 0x49
  | .fsqrt x => x.wf 0x4A
  | .fexp2 x => x.wf 0x4B
  | .flog2 x => x.wf 0x4C
  | .fsinp x => x.wf 0x4D
  | .fcosp x => x.wf 0x4E
  | .faddi x => x.wf 0x4F
  | .fmuli x => x.wf 0x50
  | .hadd2 x => x.wf 0x51
  | .hmul2 x => x.wf 0x52
  | .hfma2 x => x.wf 0x53
  | .hmax2 x => x.wf 0x54
  | .hmin2 x => x.wf 0x55
  | .dadd x => x.wf 0x56
  | .dsub x => x.wf 0x57
  | .dmul x => x.wf 0x58
  | .dfma x => x.wf 0x59
  | .dmin x => x.wf 0x5A
  | .dmax x => x.wf 0x5B
  | .dcmp x => x.wf 0x5C
  | .cvt x => x.wf
  | .cvts x => x.wf
  | .dbq x => x.wf 0x82
  | .dbx x => x.wf 0x83
  | .shfl x => x.wf 0x84
  | .shflx x => x.wf 0x85
  | .shflu x => x.wf 0x86
  | .shfld x => x.wf 0x87
  | .bcast x => x.wf 0x88
  | .vote x => x.wf 0x89
  | .reduce x => x.wf 0x8A
  | .scan x => x.wf 0x8B
  | .vconf x => x.wf 0x8C
  | .visect x => x.wf 0x8D
  | .kvslot x => x.wf 0x8E
  | .br x => x.wf 0xA0
  | .brc x => x.wf 0xA1
  | .brs x => x.wf 0xA2
  | .jmpi x => x.wf 0xA3
  | .call x => x.wf 0xA4
  | .ret x => x.wf 0xA5
  | .ifOp x => x.wf 0xA6
  | .elseOp x => x.wf 0xA7
  | .endif x => x.wf 0xA8
  | .loop x => x.wf 0xA9
  | .brk x => x.wf 0xAA
  | .endloop x => x.wf 0xAB
  | .regang _ => true
  | .wait _ => true
  | .waitge x => !x.d.isV && !x.d.special && !x.a.isV && (!x.a.special || x.a == .sp .zero) && !x.b.isV && !x.b.special
  | .bara x => x.wf 0xB0
  | .barw x => x.wf 0xB1
  | .bar x => x.wf 0xB2
  | .qpush x => x.wf 0xB3
  | .qpop x => x.wf 0xB4
  | .sleep x => !x.a.isV
  | .ydep x => !x.y.isS && !x.y.special
  | .launch x => !x.a.isV && !x.a.special
  | .postr _ => true
  | .trap _ => true
  | .ld x => x.wf 0xC0
  | .st x => x.wf 0xC1
  | .atom x => x.wf 0xC2
  | .cas x => x.wf 0xC3
  | .red x => x.wf 0xC4
  | .smrg x => x.wf 0xC5
  | .pref x => x.wf 0xC6
  | .clean x => !x.a.isV && !x.b.isV && 4 ≤ x.scope.toNat
  | .inval x => !x.a.isV && !x.b.isV && 4 ≤ x.scope.toNat
  | .xlate x => !x.a.isV
  | .cpy x => x.wf
  | .cpym x => !x.d.isV && !x.a.isV
  | .mscl x => x.wf 0xCC
  | .mofs x => x.wf 0xCD
  | .mclp x => x.wf 0xCE
  | .mfil x => x.wf 0xCF
  | .mprm x => x.wf 0xD0
  | .mset x => x.wf 0xD1
  | .mmat x => x.wf 0xD2
  | .mget x => (match x.x with | .s n => n.val % 4 == 0 | _ => false) && (x.y.isS || x.y.special)
  | .mdrop x => x.wf 0xD4
  | .kvapp x => x.wf 0xD5
  | .kvldk x => x.wf 0xD6
  | .kvldv x => x.wf 0xD7
  | .kvfork x => x.wf 0xD8
  | .kvdrop x => x.wf 0xD9
  | .kvevict x => x.wf 0xDA
  | .kvsetpos x => x.wf 0xDB
  | .bkl x => !x.d.isV && !x.a.isV && !x.b.isV
  | .bktZero x => !x.d.isV && !x.a.isV && !x.b.isV
  | .bktFill x => !x.d.isV && !x.a.isV && !x.b.isV
  | .bktCopy x => !x.d.isV && !x.a.isV && !x.b.isV
  | .bktAdd x => !x.d.isV && !x.a.isV && !x.b.isV
  | .bktMul x => !x.d.isV && !x.a.isV && !x.b.isV
  | .bktAxpy x => !x.d.isV && !x.a.isV && !x.b.isV
  | .bktScale x => !x.d.isV && !x.a.isV && !x.b.isV
  | .bktCvt x => !x.d.isV && !x.a.isV && !x.b.isV
  | .bktDot x => !x.d.isV && !x.a.isV && !x.b.isV
  | .bktIdot x => !x.d.isV && !x.a.isV && !x.b.isV
  | .bkir x => !x.d.isV && !x.a.isV && !x.b.isV
  | .mma x => x.wf 0xE0
  | .mmas x => x.wf 0xE1
  | .accz x => x.wf 0xE2
  | .accrd x => x.wf 0xE3
  | .accwr x => x.wf 0xE4
  | .accst x => x.wf 0xE5
  | .promo x => x.wf 0xE6
  | .crd x => x.wf 0xF1
  | .cwr x => x.wf 0xF2
  | .pgmap x => !x.x.isV && !x.y.isV
  | .pginv x => !x.x.isV && !x.y.isV
  | .pgattr x => !x.d.isV && !x.a.isV && !x.b.isV
  | .kvpop x => x.wf 0xF6
  | .kvref x => x.wf 0xF7
  | .lineclr x => !x.x.isV && !x.y.isV
  | .iaddHalf x y => x.wf .iadd y
  | .isubHalf x y => x.wf .isub y
  | .imulHalf x y => x.wf .imul y
  | .iminHalf x y => x.wf .imin y
  | .imaxHalf x y => x.wf .imax y
  | .andHalf x y => x.wf .and y
  | .orHalf x y => x.wf .or y
  | .xorHalf x y => x.wf .xor y
  | .shlHalf x y => x.wf .shl y
  | .shrHalf x y => x.wf .shr y
  | .sraHalf x y => x.wf .sra y
  | .movHalf x y => x.wf .mov y
  | .faddHalf x y => x.wf .fadd y
  | .fsubHalf x y => x.wf .fsub y
  | .fmulHalf x y => x.wf .fmul y
  | .fminHalf x y => x.wf .fmin y
  | .fmaxHalf x y => x.wf .fmax y
  | .hadd2Half x y => x.wf .hadd2 y
  | .hmul2Half x y => x.wf .hmul2 y
  | .hmax2Half x y => x.wf .hmax2 y
  | .cvtBf16F32Half x y => x.wf .cvtBf16F32 y
  | .cvtF32Bf16Half x y => x.wf .cvtF32Bf16 y
  | .trapEntry _ => false
  | .tokenRunLimit _ => false
  | .sleepExpiry _ _ => false
  | .loadReturn _ _ => false
  | .redElement _ _ => false
  | .smrgMerge _ => false
  | .cpyElement _ _ => false
  | .mapEditElement _ _ => false
  | .kvElement _ _ => false
  | .bankRecall _ => false
  | .bankWorkItem _ => false
  | .bankSuspend _ => false
  | .mmaExecute _ => false
  | .acczExecute _ => false
  | .promoExecute _ => false
  | .accrdExecute _ => false
  | .accwrExecute _ => false
  | .accstExecute _ => false
  | .matrixUnitReset _ => false
  | .tailCommit _ => false
  | .tailInstructionLimit _ => false
  | .shed _ => false
  | .crawlEnd _ => false
  | .nodeReady _ => false
  | .placeGroup _ => false
  | .preemptGroup _ => false
  | .nodeComplete _ => false
  | .asyncCompletion _ _ => false
  | .faultStageWalk _ _ => false
  | .faultEscalate _ _ => false
  | .faultRingPoll _ => false
  | .submit _ _ => false
  | .ctxctlActivate _ => false
  | .ctxctlTeardown _ => false
  | .ctxctlSuspend _ => false
  | .ctxctlResume _ => false
  | .contextSuspended _ => false
  | .resolveRetry _ _ => false
  | .resolveFail _ _ => false
  | .hostRegisterWrite _ _ _ => false
  | .incomingAccess _ => false
  | .attestationRequest => false
  | .firmwareVerify => false
  | .unitReady _ => false
  | .unitOffline _ _ => false
  | .softError _ => false
  | .scrub _ => false
  | .thermalThrottle _ => false
  | .flrVf _ => false
  | .flrPf => false
  | .fundamentalReset => false
  | .clockCount => false
  | .dirtyWindowWriteback _ _ _ => false
  | .atsTranslation _ _ => false
  | .systemWriteAcknowledge _ => false
  | .peerLinkDown _ _ => false

end Sys2Proof
end

