-- ==== Sys2Proof/Decode.lean ====
section
/-! DEFINITION. Decoding of instruction words (R49 to R72) and, after it, the encoder from the same layouts. A word is
cut into fields by the widths of its layout, high field first; the same widths pack an instruction's fields. -/
namespace Sys2Proof

/-- Why a word is refused (R68, checks 1 to 4): no legal full word, no legal pair. -/
inductive WordFault where
  | illop | illpair
  deriving DecidableEq, Repr

/-- The fields of a word packed high field first; each entry is a width and a value. -/
def packFields : List (Nat × Nat) → Nat → Nat
  | [], acc => acc
  | (k, v) :: fs, acc => packFields fs (acc * 2 ^ k + v % 2 ^ k)

/-- The values of the fields of the given widths, high field first. -/
def cutFields : List Nat → Nat → List Nat
  | [], _ => []
  | k :: ks, w => (w / 2 ^ ks.sum) % 2 ^ k :: cutFields ks w

/-- Field widths of the layouts, high field first: KIND, OP and then the layout's own fields. -/
def Layout.arith : List Nat := [1, 8, 10, 10, 10, 10, 2, 1, 3, 3, 3, 3]
def Layout.iform : List Nat := [1, 8, 10, 10, 32, 3]
def Layout.cvt : List Nat := [1, 8, 10, 10, 2, 4, 4, 10, 2, 1, 3, 3, 3, 3]
def Layout.cvts : List Nat := [1, 8, 10, 10, 9, 1, 10, 2, 1, 3, 3, 3, 3]
def Layout.mem : List Nat := [1, 8, 10, 10, 10, 2, 3, 3, 16, 1]
def Layout.branch : List Nat := [1, 8, 10, 10, 3, 32]
def Layout.bare : List Nat := [1, 8, 55]
def Layout.regang : List Nat := [1, 8, 47, 8]
def Layout.wait : List Nat := [1, 8, 25, 5, 5, 5, 5, 5, 5]
def Layout.ops : List Nat := [1, 8, 10, 10, 10, 25]
def Layout.sync : List Nat := [1, 8, 10, 38, 3, 4]
def Layout.trap : List Nat := [1, 8, 39, 16]
def Layout.cr : List Nat := [1, 8, 10, 10, 19, 16]
def Layout.maint : List Nat := [1, 8, 10, 10, 10, 18, 3, 4]
def Layout.xlate : List Nat := [1, 8, 6, 4, 10, 10, 25]
def Layout.cpy : List Nat := [1, 8, 10, 10, 10, 10, 3, 2, 2, 8]
def Layout.cpym : List Nat := [1, 8, 10, 10, 10, 15, 2, 8]
def Layout.map : List Nat := [1, 8, 10, 10, 10, 10, 13, 2]
def Layout.mat : List Nat := [1, 8, 10, 10, 10, 4, 1, 3, 3, 2, 2, 7, 1, 2]
def Layout.kv : List Nat := [1, 8, 10, 10, 10, 10, 7, 1, 5, 2]
def Layout.pairs : List Nat := [1, 7, 10, 10, 2, 2, 7, 10, 10, 2, 2, 1]

/-- The code of a special value (R56). -/
def Special.code : Special → Nat
  | .zero => 704 | .lane => 705 | .slice => 706 | .gang => 707 | .groupX => 708 | .groupY => 709 | .groupZ => 710
  | .stage => 711 | .crank => 712 | .ngang => 713 | .clock => 714 | .context => 715 | .yardkey => 716
  | .yardp0 => 717 | .yardp1 => 718 | .yardp2 => 719 | .yardp3 => 720

/-- The special value of a code from 704 to 720. -/
def Special.ofCode : Nat → Special
  | 704 => .zero | 705 => .lane | 706 => .slice | 707 => .gang | 708 => .groupX | 709 => .groupY | 710 => .groupZ
  | 711 => .stage | 712 => .crank | 713 => .ngang | 714 => .clock | 715 => .context | 716 => .yardkey
  | 717 => .yardp0 | 718 => .yardp1 | 719 => .yardp2 | _ => .yardp3

/-- The ten-bit code of an operand (R56). -/
def Operand.code : Operand → Nat
  | .v n => n.val
  | .s n => 640 + n.val
  | .sp x => x.code
  | .bad n => 721 + n.val

/-- The operand of a ten-bit code (R56). -/
def Operand.ofCode (n : Nat) : Operand :=
  if h : n < 640 then .v ⟨n, h⟩
  else if h : n - 640 < 64 then .s ⟨n - 640, h⟩
  else if n < 721 then .sp (Special.ofCode n)
  else .bad ⟨(n - 721) % 303, Nat.mod_lt _ (by decide)⟩

/-- The code of the RND field (R51). -/
def Rnd.code : Rnd → Nat
  | .mode => 0 | .rn => 1 | .rz => 2 | .ra => 3

/-- The RND field of a code. -/
def Rnd.ofCode : Nat → Rnd
  | 0 => .mode | 1 => .rn | 2 => .rz | _ => .ra

/-- The half opcode map (R65). -/
def HalfOp.code : HalfOp → Nat
  | .iadd => 0x01
  | .isub => 0x02
  | .imul => 0x03
  | .imin => 0x07
  | .imax => 0x08
  | .and => 0x0C
  | .or => 0x0D
  | .xor => 0x0E
  | .shl => 0x10
  | .shr => 0x11
  | .sra => 0x12
  | .mov => 0x21
  | .fadd => 0x40
  | .fsub => 0x41
  | .fmul => 0x42
  | .fmin => 0x44
  | .fmax => 0x45
  | .hadd2 => 0x51
  | .hmul2 => 0x52
  | .hmax2 => 0x54
  | .cvtBf16F32 => 0x7E
  | .cvtF32Bf16 => 0x7F

/-- The half operation of a HOP value; unassigned values have none (R65). -/
def HalfOp.ofCode : Nat → Option HalfOp
  | 0x01 => some .iadd
  | 0x02 => some .isub
  | 0x03 => some .imul
  | 0x07 => some .imin
  | 0x08 => some .imax
  | 0x0C => some .and
  | 0x0D => some .or
  | 0x0E => some .xor
  | 0x10 => some .shl
  | 0x11 => some .shr
  | 0x12 => some .sra
  | 0x21 => some .mov
  | 0x40 => some .fadd
  | 0x41 => some .fsub
  | 0x42 => some .fmul
  | 0x44 => some .fmin
  | 0x45 => some .fmax
  | 0x51 => some .hadd2
  | 0x52 => some .hmul2
  | 0x54 => some .hmax2
  | 0x7E => some .cvtBf16F32
  | 0x7F => some .cvtF32Bf16
  | _ => none

/-- An operand field where the entry uses it, and the canonical 0 where it is ignored (R55). -/
def Pos.read (p : Pos) (n : Nat) : Operand := if p == .no then .zero else Operand.ofCode n

/-- An operand field read only under a condition; otherwise it is ignored (R55). -/
def readIf (b : Bool) (n : Nat) : Operand := if b then Operand.ofCode n else .zero

/-- The arithmetic layout read for opcode `op` (R51). -/
def Arith.cut (op w : Nat) : Arith :=
  match cutFields Layout.arith w with
  | [_, _, d, a, b, c, rnd, sat, slot, neg, abs, sub] =>
    let e := adesc op sub
    ⟨e.d.read d, e.a.read a, e.b.read b, e.c.read c, Rnd.ofCode rnd, sat == 1, slot, neg, abs, sub⟩
  | _ => ⟨.zero, .zero, .zero, .zero, .mode, false, 0, 0, 0, 0⟩

/-- The I-form read for opcode `op` (R52): MOVI has no A. -/
def IForm.cut (op w : Nat) : IForm :=
  match cutFields Layout.iform w with
  | [_, _, d, a, imm, sub] => ⟨Operand.ofCode d, readIf (op != 0x20) a, imm, sub⟩
  | _ => ⟨.zero, .zero, 0, 0⟩

/-- CVT read (R116): C is used only when the destination format is narrow. -/
def CvtArgs.cut (w : Nat) : CvtArgs :=
  match cutFields Layout.cvt w with
  | [_, _, d, a, _, df, sf, c, rnd, sat, _, _, _, sub] =>
    ⟨Operand.ofCode d, Operand.ofCode a, readIf (narrowBits df != 0) c, df, sf, Rnd.ofCode rnd, sat == 1, sub⟩
  | _ => ⟨.zero, .zero, .zero, 0, 0, .mode, false, 0⟩

/-- CVTS read (R118): C is used by `.Q` only. -/
def CvtsArgs.cut (w : Nat) : CvtsArgs :=
  match cutFields Layout.cvts w with
  | [_, _, d, a, _, dq, c, rnd, _, slot, _, _, sub] =>
    ⟨Operand.ofCode d, Operand.ofCode a, readIf (dq == 0) c, dq == 1, Rnd.ofCode rnd, slot, sub⟩
  | _ => ⟨.zero, .zero, .zero, false, .mode, 0, 0⟩

/-- The memory layout read for opcode `op` (R53); none for AM 3 and for a base that R53 forbids. -/
def MemArgs.cut (op w : Nat) : Option MemArgs :=
  match cutFields Layout.mem w with
  | [_, _, d, a, b, am, wd, hx, off, _] =>
    let mk (base : MBase) : Option MemArgs :=
      some ⟨readIf (op != 0xC6) d, Operand.ofCode a, base, wd, hx, off⟩
    match am with
    | 0 => if h : b < 16 then mk (.xt ⟨b, h⟩) else none
    | 1 => if h : b - 640 < 64 then (if 640 ≤ b then mk (.s ⟨b - 640, h⟩) else none) else none
    | 2 => mk .pair
    | _ => none
  | _ => none

/-- The branch layout read (R130). -/
def Branch.cut (w : Nat) : Branch :=
  match cutFields Layout.branch w with
  | [_, _, d, a, cond, ofs] => ⟨Operand.ofCode d, Operand.ofCode a, cond, ofs⟩
  | _ => ⟨.zero, .zero, 0, 0⟩

/-- The three register fields D, A and B. -/
def opsCut (w : Nat) : Nat × Nat × Nat :=
  match cutFields Layout.ops w with
  | [_, _, d, a, b, _] => (d, a, b)
  | _ => (0, 0, 0)

/-- D, A and B, all used. -/
def Ops3.cut (w : Nat) : Ops3 :=
  let (d, a, b) := opsCut w
  ⟨Operand.ofCode d, Operand.ofCode a, Operand.ofCode b⟩

/-- BKIR ignores the value of B, but the field is an operand (R344). -/
def Ops2.cutDA (w : Nat) : Ops2 :=
  let (d, a, _) := opsCut w
  ⟨Operand.ofCode d, Operand.ofCode a⟩

/-- A and B. -/
def Ops2.cutAB (w : Nat) : Ops2 :=
  let (_, a, b) := opsCut w
  ⟨Operand.ofCode a, Operand.ofCode b⟩

/-- A alone. -/
def Ops1.cut (w : Nat) : Ops1 :=
  let (_, a, _) := opsCut w
  ⟨Operand.ofCode a⟩

/-- REGANG read (R138). -/
def RegangArgs.cut (w : Nat) : RegangArgs := ⟨w % 256⟩

/-- WAIT read (R141). -/
def WaitArgs.cut (w : Nat) : WaitArgs :=
  match cutFields Layout.wait w with
  | [_, _, _, cp, ts, mp, kv, bk, rd] => ⟨cp, ts, mp, kv, bk, rd⟩
  | _ => ⟨0, 0, 0, 0, 0, 0⟩

/-- The sync layout read for opcode `op` (R143): D is used by QPUSH and QPOP only. -/
def Sync.cut (op w : Nat) : Sync :=
  match cutFields Layout.sync w with
  | [_, _, d, _, scope, id] => ⟨readIf (op == 0xB3 || op == 0xB4) d, scope, id⟩
  | _ => ⟨.zero, 0, 0⟩

/-- TRAP read (R153). -/
def TrapArgs.cut (w : Nat) : TrapArgs := ⟨w % 2 ^ 16⟩

/-- CRD and CWR read (R161). -/
def CrArgs.cut (op w : Nat) : CrArgs :=
  match cutFields Layout.cr w with
  | [_, _, d, a, _, idx] => ⟨Operand.ofCode (if op = 0xF1 then d else a), idx⟩
  | _ => ⟨.zero, 0⟩

/-- CLEAN and INVAL read (R239). -/
def MaintArgs.cut (w : Nat) : MaintArgs :=
  match cutFields Layout.maint w with
  | [_, _, _, a, b, _, scope, _] => ⟨Operand.ofCode a, Operand.ofCode b, scope⟩
  | _ => ⟨.zero, .zero, 0⟩

/-- XLATE read (R240). -/
def XlateArgs.cut (w : Nat) : XlateArgs :=
  match cutFields Layout.xlate w with
  | [_, _, _, n, a, _, _] => ⟨⟨n % 16, Nat.mod_lt _ (by decide)⟩, Operand.ofCode a⟩
  | _ => ⟨0, .zero⟩

/-- CPY read (R241): C is not used by `.LIN`. -/
def CpyArgs.cut (w : Nat) : CpyArgs :=
  match cutFields Layout.cpy w with
  | [_, _, d, a, b, c, form, ew, hint, _] =>
    ⟨Operand.ofCode d, Operand.ofCode a, Operand.ofCode b, readIf (form != 0) c, form, ew, hint⟩
  | _ => ⟨.zero, .zero, .zero, .zero, 0, 0, 0⟩

/-- CPYM read (R245). -/
def CpymArgs.cut (w : Nat) : CpymArgs :=
  match cutFields Layout.cpym w with
  | [_, _, d, a, _, _, hint, _] => ⟨Operand.ofCode d, Operand.ofCode a, hint⟩
  | _ => ⟨.zero, .zero, 0⟩

/-- The map range layout read for opcode `op` (R268). -/
def MapArgs.cut (op w : Nat) : MapArgs :=
  match cutFields Layout.map w with
  | [_, _, d, a, b, c, _, sub] =>
    ⟨Operand.ofCode d, Operand.ofCode a, readIf (op != 0xD2 && op != 0xD4) b, readIf (op == 0xCE) c, sub⟩
  | _ => ⟨.zero, .zero, .zero, .zero, 0⟩

/-- The matrix layout read (R302). -/
def MatArgs.cut (w : Nat) : MatArgs :=
  match cutFields Layout.mat w with
  | [_, _, d, a, _, kq, acc, sa, sb, ofmt, g, pint, free, _] =>
    ⟨Operand.ofCode d, Operand.ofCode a, kq, acc == 1, sa, sb, ofmt, g, pint, free == 1⟩
  | _ => ⟨.zero, .zero, 0, false, 0, 0, 0, 0, 0, false⟩

/-- The key-value layout read (R314). -/
def KvArgs.cut (w : Nat) : KvArgs :=
  match cutFields Layout.kv w with
  | [_, _, d, a, b, c, eofs, fl, _, sub] =>
    ⟨Operand.ofCode d, Operand.ofCode a, Operand.ofCode b, Operand.ofCode c, eofs, fl == 1, sub⟩
  | _ => ⟨.zero, .zero, .zero, .zero, 0, false, 0⟩

/-- The instruction whose opcode a full word carries, with its fields; none when the opcode is unassigned (R66,
check 1) or the memory form is impossible. -/
def fullWord (w : Nat) : Option Instr :=
  match bitsOf w 62 55 with
  | 0x00 => some .nop
  | 0x01 => some (.iadd (Arith.cut 0x01 w))
  | 0x02 => some (.isub (Arith.cut 0x02 w))
  | 0x03 => some (.imul (Arith.cut 0x03 w))
  | 0x04 => some (.imulh (Arith.cut 0x04 w))
  | 0x05 => some (.imulhu (Arith.cut 0x05 w))
  | 0x06 => some (.imad (Arith.cut 0x06 w))
  | 0x07 => some (.imin (Arith.cut 0x07 w))
  | 0x08 => some (.imax (Arith.cut 0x08 w))
  | 0x09 => some (.umin (Arith.cut 0x09 w))
  | 0x0A => some (.umax (Arith.cut 0x0A w))
  | 0x0B => some (.iabs (Arith.cut 0x0B w))
  | 0x0C => some (.and (Arith.cut 0x0C w))
  | 0x0D => some (.or (Arith.cut 0x0D w))
  | 0x0E => some (.xor (Arith.cut 0x0E w))
  | 0x0F => some (.andn (Arith.cut 0x0F w))
  | 0x10 => some (.shl (Arith.cut 0x10 w))
  | 0x11 => some (.shr (Arith.cut 0x11 w))
  | 0x12 => some (.sra (Arith.cut 0x12 w))
  | 0x13 => some (.rol (Arith.cut 0x13 w))
  | 0x14 => some (.popc (Arith.cut 0x14 w))
  | 0x15 => some (.clz (Arith.cut 0x15 w))
  | 0x16 => some (.ctz (Arith.cut 0x16 w))
  | 0x17 => some (.brev (Arith.cut 0x17 w))
  | 0x18 => some (.bfx (Arith.cut 0x18 w))
  | 0x19 => some (.bfi (Arith.cut 0x19 w))
  | 0x1A => some (.sel (Arith.cut 0x1A w))
  | 0x1B => some (.icmp (Arith.cut 0x1B w))
  | 0x1C => some (.iadd64 (Arith.cut 0x1C w))
  | 0x1D => some (.isub64 (Arith.cut 0x1D w))
  | 0x1E => some (.imul64 (Arith.cut 0x1E w))
  | 0x1F => some (.lea (Arith.cut 0x1F w))
  | 0x20 => some (.movi (IForm.cut 0x20 w))
  | 0x21 => some (.mov (Arith.cut 0x21 w))
  | 0x22 => some (.iaddi (IForm.cut 0x22 w))
  | 0x23 => some (.andi (IForm.cut 0x23 w))
  | 0x24 => some (.ori (IForm.cut 0x24 w))
  | 0x25 => some (.xori (IForm.cut 0x25 w))
  | 0x26 => some (.shifti (IForm.cut 0x26 w))
  | 0x27 => some (.icmpi (IForm.cut 0x27 w))
  | 0x28 => some (.idp4 (Arith.cut 0x28 w))
  | 0x29 => some (.idp4u (Arith.cut 0x29 w))
  | 0x40 => some (.fadd (Arith.cut 0x40 w))
  | 0x41 => some (.fsub (Arith.cut 0x41 w))
  | 0x42 => some (.fmul (Arith.cut 0x42 w))
  | 0x43 => some (.ffma (Arith.cut 0x43 w))
  | 0x44 => some (.fmin (Arith.cut 0x44 w))
  | 0x45 => some (.fmax (Arith.cut 0x45 w))
  | 0x46 => some (.fcmp (Arith.cut 0x46 w))
  | 0x47 => some (.fclass (Arith.cut 0x47 w))
  | 0x48 => some (.frcp (Arith.cut 0x48 w))
  | 0x49 => some (.frsq (Arith.cut 0x49 w))
  | 0x4A => some (.fsqrt (Arith.cut 0x4A w))
  | 0x4B => some (.fexp2 (Arith.cut 0x4B w))
  | 0x4C => some (.flog2 (Arith.cut 0x4C w))
  | 0x4D => some (.fsinp (Arith.cut 0x4D w))
  | 0x4E => some (.fcosp (Arith.cut 0x4E w))
  | 0x4F => some (.faddi (IForm.cut 0x4F w))
  | 0x50 => some (.fmuli (IForm.cut 0x50 w))
  | 0x51 => some (.hadd2 (Arith.cut 0x51 w))
  | 0x52 => some (.hmul2 (Arith.cut 0x52 w))
  | 0x53 => some (.hfma2 (Arith.cut 0x53 w))
  | 0x54 => some (.hmax2 (Arith.cut 0x54 w))
  | 0x55 => some (.hmin2 (Arith.cut 0x55 w))
  | 0x56 => some (.dadd (Arith.cut 0x56 w))
  | 0x57 => some (.dsub (Arith.cut 0x57 w))
  | 0x58 => some (.dmul (Arith.cut 0x58 w))
  | 0x59 => some (.dfma (Arith.cut 0x59 w))
  | 0x5A => some (.dmin (Arith.cut 0x5A w))
  | 0x5B => some (.dmax (Arith.cut 0x5B w))
  | 0x5C => some (.dcmp (Arith.cut 0x5C w))
  | 0x80 => some (.cvt (CvtArgs.cut w))
  | 0x81 => some (.cvts (CvtsArgs.cut w))
  | 0x82 => some (.dbq (Arith.cut 0x82 w))
  | 0x83 => some (.dbx (Arith.cut 0x83 w))
  | 0x84 => some (.shfl (Arith.cut 0x84 w))
  | 0x85 => some (.shflx (Arith.cut 0x85 w))
  | 0x86 => some (.shflu (Arith.cut 0x86 w))
  | 0x87 => some (.shfld (Arith.cut 0x87 w))
  | 0x88 => some (.bcast (Arith.cut 0x88 w))
  | 0x89 => some (.vote (Arith.cut 0x89 w))
  | 0x8A => some (.reduce (Arith.cut 0x8A w))
  | 0x8B => some (.scan (Arith.cut 0x8B w))
  | 0x8C => some (.vconf (Arith.cut 0x8C w))
  | 0x8D => some (.visect (Arith.cut 0x8D w))
  | 0x8E => some (.kvslot (Arith.cut 0x8E w))
  | 0xA0 => some (.br (Branch.cut w))
  | 0xA1 => some (.brc (Branch.cut w))
  | 0xA2 => some (.brs (Branch.cut w))
  | 0xA3 => some (.jmpi (Branch.cut w))
  | 0xA4 => some (.call (Branch.cut w))
  | 0xA5 => some (.ret (Branch.cut w))
  | 0xA6 => some (.ifOp (Branch.cut w))
  | 0xA7 => some (.elseOp (Branch.cut w))
  | 0xA8 => some (.endif (Branch.cut w))
  | 0xA9 => some (.loop (Branch.cut w))
  | 0xAA => some (.brk (Branch.cut w))
  | 0xAB => some (.endloop (Branch.cut w))
  | 0xAC => some (.regang (RegangArgs.cut w))
  | 0xAD => some .exit
  | 0xAE => some (.wait (WaitArgs.cut w))
  | 0xAF => some (.waitge (Ops3.cut w))
  | 0xB0 => some (.bara (Sync.cut 0xB0 w))
  | 0xB1 => some (.barw (Sync.cut 0xB1 w))
  | 0xB2 => some (.bar (Sync.cut 0xB2 w))
  | 0xB3 => some (.qpush (Sync.cut 0xB3 w))
  | 0xB4 => some (.qpop (Sync.cut 0xB4 w))
  | 0xB5 => some .passpri
  | 0xB6 => some (.sleep (Ops1.cut w))
  | 0xB7 => some (.ydep (Ops2.cutAB w))
  | 0xB8 => some (.launch (Ops1.cut w))
  | 0xB9 => some (.postr (Ops1.cut w))
  | 0xBA => some (.trap (TrapArgs.cut w))
  | 0xBB => some .drain
  | 0xC0 => (MemArgs.cut 0xC0 w).map .ld
  | 0xC1 => (MemArgs.cut 0xC1 w).map .st
  | 0xC2 => (MemArgs.cut 0xC2 w).map .atom
  | 0xC3 => (MemArgs.cut 0xC3 w).map .cas
  | 0xC4 => (MemArgs.cut 0xC4 w).map .red
  | 0xC5 => (MemArgs.cut 0xC5 w).map .smrg
  | 0xC6 => (MemArgs.cut 0xC6 w).map .pref
  | 0xC7 => some (.clean (MaintArgs.cut w))
  | 0xC8 => some (.inval (MaintArgs.cut w))
  | 0xC9 => some (.xlate (XlateArgs.cut w))
  | 0xCA => some (.cpy (CpyArgs.cut w))
  | 0xCB => some (.cpym (CpymArgs.cut w))
  | 0xCC => some (.mscl (MapArgs.cut 0xCC w))
  | 0xCD => some (.mofs (MapArgs.cut 0xCD w))
  | 0xCE => some (.mclp (MapArgs.cut 0xCE w))
  | 0xCF => some (.mfil (MapArgs.cut 0xCF w))
  | 0xD0 => some (.mprm (MapArgs.cut 0xD0 w))
  | 0xD1 => some (.mset (MapArgs.cut 0xD1 w))
  | 0xD2 => some (.mmat (MapArgs.cut 0xD2 w))
  | 0xD3 => some (.mget (Ops2.cutDA w))
  | 0xD4 => some (.mdrop (MapArgs.cut 0xD4 w))
  | 0xD5 => some (.kvapp (KvArgs.cut w))
  | 0xD6 => some (.kvldk (KvArgs.cut w))
  | 0xD7 => some (.kvldv (KvArgs.cut w))
  | 0xD8 => some (.kvfork (KvArgs.cut w))
  | 0xD9 => some (.kvdrop (KvArgs.cut w))
  | 0xDA => some (.kvevict (KvArgs.cut w))
  | 0xDB => some (.kvsetpos (KvArgs.cut w))
  | 0xDC => some (.bkl (Ops3.cut w))
  | 0xDD => some (.bktZero (Ops3.cut w))
  | 0xDE => some (.bkir (Ops3.cut w))
  | 0xDF => some .bkm
  | 0xE0 => some (.mma (MatArgs.cut w))
  | 0xE1 => some (.mmas (MatArgs.cut w))
  | 0xE2 => some (.accz (MatArgs.cut w))
  | 0xE3 => some (.accrd (MatArgs.cut w))
  | 0xE4 => some (.accwr (MatArgs.cut w))
  | 0xE5 => some (.accst (MatArgs.cut w))
  | 0xE6 => some (.promo (MatArgs.cut w))
  | 0xF0 => some .eret
  | 0xF1 => some (.crd (CrArgs.cut 0xF1 w))
  | 0xF2 => some (.cwr (CrArgs.cut 0xF2 w))
  | 0xF3 => some (.pgmap (Ops2.cutDA w))
  | 0xF4 => some (.pginv (Ops2.cutAB w))
  | 0xF5 => some (.pgattr (Ops3.cut w))
  | 0xF6 => some (.kvpop (KvArgs.cut w))
  | 0xF7 => some (.kvref (KvArgs.cut w))
  | 0xF8 => some (.lineclr (Ops2.cutDA w))
  | _ => none

/-- The pair instruction of its two halves: the constructor of slot A's half opcode (R64, R65). -/
def pairInstr (x y : Half) : Instr :=
  match x.op with
  | .iadd => .iaddHalf x.args y
  | .isub => .isubHalf x.args y
  | .imul => .imulHalf x.args y
  | .imin => .iminHalf x.args y
  | .imax => .imaxHalf x.args y
  | .and => .andHalf x.args y
  | .or => .orHalf x.args y
  | .xor => .xorHalf x.args y
  | .shl => .shlHalf x.args y
  | .shr => .shrHalf x.args y
  | .sra => .sraHalf x.args y
  | .mov => .movHalf x.args y
  | .fadd => .faddHalf x.args y
  | .fsub => .fsubHalf x.args y
  | .fmul => .fmulHalf x.args y
  | .fmin => .fminHalf x.args y
  | .fmax => .fmaxHalf x.args y
  | .hadd2 => .hadd2Half x.args y
  | .hmul2 => .hmul2Half x.args y
  | .hmax2 => .hmax2Half x.args y
  | .cvtBf16F32 => .cvtBf16F32Half x.args y
  | .cvtF32Bf16 => .cvtF32Bf16Half x.args y

/-! ### The encoder -/

/-- The three register fields and a zero X. -/
def opsFields (op d a b : Nat) : List (Nat × Nat) := [(1, 0), (8, op), (10, d), (10, a), (10, b), (25, 0)]

def Arith.fields (x : Arith) (op : Nat) : List (Nat × Nat) :=
  [(1, 0), (8, op), (10, x.d.code), (10, x.a.code), (10, x.b.code), (10, x.c.code), (2, x.rnd.code),
   (1, boolNat x.sat), (3, x.slot.toNat), (3, x.neg.toNat), (3, x.abs.toNat), (3, x.sub.toNat)]
def IForm.fields (x : IForm) (op : Nat) : List (Nat × Nat) :=
  [(1, 0), (8, op), (10, x.d.code), (10, x.a.code), (32, x.imm.toNat), (3, x.sub.toNat)]
def CvtArgs.fields (x : CvtArgs) : List (Nat × Nat) :=
  [(1, 0), (8, 0x80), (10, x.d.code), (10, x.a.code), (2, 0), (4, x.df.toNat), (4, x.sf.toNat), (10, x.c.code),
   (2, x.rnd.code), (1, boolNat x.sat), (3, 0), (3, 0), (3, 0), (3, x.sub.toNat)]
def CvtsArgs.fields (x : CvtsArgs) : List (Nat × Nat) :=
  [(1, 0), (8, 0x81), (10, x.d.code), (10, x.a.code), (9, 0), (1, boolNat x.dq), (10, x.c.code), (2, x.rnd.code),
   (1, 0), (3, x.slot.toNat), (3, 0), (3, 0), (3, x.sub.toNat)]
/-- B and AM of a memory word (R53). With AM = 2 the B field is unused (R53, R58), and written as 0. -/
def MBase.field : MBase → Nat × Nat
  | .xt n => (n.val, 0)
  | .s n => (640 + n.val, 1)
  | .pair => (0, 2)
def MemArgs.fields (x : MemArgs) (op : Nat) : List (Nat × Nat) :=
  [(1, 0), (8, op), (10, x.d.code), (10, x.a.code), (10, x.base.field.1), (2, x.base.field.2), (3, x.w.toNat),
   (3, x.hintx.toNat), (16, x.off.toNat), (1, 0)]
def Branch.fields (x : Branch) (op : Nat) : List (Nat × Nat) :=
  [(1, 0), (8, op), (10, x.d.code), (10, x.a.code), (3, x.cond.toNat), (32, x.ofs.toNat)]
def RegangArgs.fields (x : RegangArgs) : List (Nat × Nat) := [(1, 0), (8, 0xAC), (47, 0), (8, x.id.toNat)]
def WaitArgs.fields (x : WaitArgs) : List (Nat × Nat) :=
  [(1, 0), (8, 0xAE), (25, 0), (5, x.cp.toNat), (5, x.ts.toNat), (5, x.mp.toNat), (5, x.kv.toNat), (5, x.bk.toNat),
   (5, x.rd.toNat)]
def Sync.fields (x : Sync) (op : Nat) : List (Nat × Nat) :=
  [(1, 0), (8, op), (10, x.d.code), (38, 0), (3, x.scope.toNat), (4, x.id.toNat)]
def TrapArgs.fields (x : TrapArgs) : List (Nat × Nat) := [(1, 0), (8, 0xBA), (39, 0), (16, x.imm.toNat)]
def CrArgs.fields (x : CrArgs) (op : Nat) : List (Nat × Nat) :=
  [(1, 0), (8, op), (10, if op = 0xF1 then x.r.code else 0), (10, if op = 0xF1 then 0 else x.r.code), (19, 0),
   (16, x.idx.toNat)]
def MaintArgs.fields (x : MaintArgs) (op : Nat) : List (Nat × Nat) :=
  [(1, 0), (8, op), (10, 0), (10, x.a.code), (10, x.b.code), (18, 0), (3, x.scope.toNat), (4, 0)]
def XlateArgs.fields (x : XlateArgs) : List (Nat × Nat) :=
  [(1, 0), (8, 0xC9), (6, 0), (4, x.n.val), (10, x.a.code), (10, 0), (25, 0)]
def CpyArgs.fields (x : CpyArgs) : List (Nat × Nat) :=
  [(1, 0), (8, 0xCA), (10, x.d.code), (10, x.a.code), (10, x.b.code), (10, x.c.code), (3, x.form.toNat),
   (2, x.ew.toNat), (2, x.hint.toNat), (8, 0)]
def CpymArgs.fields (x : CpymArgs) : List (Nat × Nat) :=
  [(1, 0), (8, 0xCB), (10, x.d.code), (10, x.a.code), (10, 0), (15, 0), (2, x.hint.toNat), (8, 0)]
def MapArgs.fields (x : MapArgs) (op : Nat) : List (Nat × Nat) :=
  [(1, 0), (8, op), (10, x.d.code), (10, x.a.code), (10, x.b.code), (10, x.c.code), (13, 0), (2, x.sub.toNat)]
def MatArgs.fields (x : MatArgs) (op : Nat) : List (Nat × Nat) :=
  [(1, 0), (8, op), (10, x.d.code), (10, x.a.code), (10, 0), (4, x.kq.toNat), (1, boolNat x.acc), (3, x.sa.toNat),
   (3, x.sb.toNat), (2, x.ofmt.toNat), (2, x.g.toNat), (7, x.pint.toNat), (1, boolNat x.free), (2, 0)]
def KvArgs.fields (x : KvArgs) (op : Nat) : List (Nat × Nat) :=
  [(1, 0), (8, op), (10, x.d.code), (10, x.a.code), (10, x.b.code), (10, x.c.code), (7, x.eofs.toNat),
   (1, boolNat x.fl), (5, 0), (2, x.sub.toNat)]
/-- The fields of a pair word (R50). -/
def pairFields (x y : Half) : List (Nat × Nat) :=
  [(1, 1), (7, x.op.code), (10, x.args.d.code), (10, x.args.s.code), (2, x.args.rnd.code), (2, 0),
   (7, y.op.code), (10, y.args.d.code), (10, y.args.s.code), (2, y.args.rnd.code), (2, 0), (1, 0)]
def bareFields (op : Nat) : List (Nat × Nat) := [(1, 0), (8, op), (55, 0)]

/-- The fields of an instruction's word, high field first; a device step has no word. -/
def Instr.fields : Instr → List (Nat × Nat)
  | .nop => bareFields 0x00
  | .iadd x => x.fields 0x01
  | .isub x => x.fields 0x02
  | .imul x => x.fields 0x03
  | .imulh x => x.fields 0x04
  | .imulhu x => x.fields 0x05
  | .imad x => x.fields 0x06
  | .imin x => x.fields 0x07
  | .imax x => x.fields 0x08
  | .umin x => x.fields 0x09
  | .umax x => x.fields 0x0A
  | .iabs x => x.fields 0x0B
  | .and x => x.fields 0x0C
  | .or x => x.fields 0x0D
  | .xor x => x.fields 0x0E
  | .andn x => x.fields 0x0F
  | .shl x => x.fields 0x10
  | .shr x => x.fields 0x11
  | .sra x => x.fields 0x12
  | .rol x => x.fields 0x13
  | .popc x => x.fields 0x14
  | .clz x => x.fields 0x15
  | .ctz x => x.fields 0x16
  | .brev x => x.fields 0x17
  | .bfx x => x.fields 0x18
  | .bfi x => x.fields 0x19
  | .sel x => x.fields 0x1A
  | .icmp x => x.fields 0x1B
  | .iadd64 x => x.fields 0x1C
  | .isub64 x => x.fields 0x1D
  | .imul64 x => x.fields 0x1E
  | .lea x => x.fields 0x1F
  | .movi x => x.fields 0x20
  | .mov x => x.fields 0x21
  | .iaddi x => x.fields 0x22
  | .andi x => x.fields 0x23
  | .ori x => x.fields 0x24
  | .xori x => x.fields 0x25
  | .shifti x => x.fields 0x26
  | .icmpi x => x.fields 0x27
  | .idp4 x => x.fields 0x28
  | .idp4u x => x.fields 0x29
  | .fadd x => x.fields 0x40
  | .fsub x => x.fields 0x41
  | .fmul x => x.fields 0x42
  | .ffma x => x.fields 0x43
  | .fmin x => x.fields 0x44
  | .fmax x => x.fields 0x45
  | .fcmp x => x.fields 0x46
  | .fclass x => x.fields 0x47
  | .frcp x => x.fields 0x48
  | .frsq x => x.fields 0x49
  | .fsqrt x => x.fields 0x4A
  | .fexp2 x => x.fields 0x4B
  | .flog2 x => x.fields 0x4C
  | .fsinp x => x.fields 0x4D
  | .fcosp x => x.fields 0x4E
  | .faddi x => x.fields 0x4F
  | .fmuli x => x.fields 0x50
  | .hadd2 x => x.fields 0x51
  | .hmul2 x => x.fields 0x52
  | .hfma2 x => x.fields 0x53
  | .hmax2 x => x.fields 0x54
  | .hmin2 x => x.fields 0x55
  | .dadd x => x.fields 0x56
  | .dsub x => x.fields 0x57
  | .dmul x => x.fields 0x58
  | .dfma x => x.fields 0x59
  | .dmin x => x.fields 0x5A
  | .dmax x => x.fields 0x5B
  | .dcmp x => x.fields 0x5C
  | .cvt x => x.fields
  | .cvts x => x.fields
  | .dbq x => x.fields 0x82
  | .dbx x => x.fields 0x83
  | .shfl x => x.fields 0x84
  | .shflx x => x.fields 0x85
  | .shflu x => x.fields 0x86
  | .shfld x => x.fields 0x87
  | .bcast x => x.fields 0x88
  | .vote x => x.fields 0x89
  | .reduce x => x.fields 0x8A
  | .scan x => x.fields 0x8B
  | .vconf x => x.fields 0x8C
  | .visect x => x.fields 0x8D
  | .kvslot x => x.fields 0x8E
  | .br x => x.fields 0xA0
  | .brc x => x.fields 0xA1
  | .brs x => x.fields 0xA2
  | .jmpi x => x.fields 0xA3
  | .call x => x.fields 0xA4
  | .ret x => x.fields 0xA5
  | .ifOp x => x.fields 0xA6
  | .elseOp x => x.fields 0xA7
  | .endif x => x.fields 0xA8
  | .loop x => x.fields 0xA9
  | .brk x => x.fields 0xAA
  | .endloop x => x.fields 0xAB
  | .regang x => x.fields
  | .exit => bareFields 0xAD
  | .wait x => x.fields
  | .waitge x => opsFields 0xAF x.d.code x.a.code x.b.code
  | .bara x => x.fields 0xB0
  | .barw x => x.fields 0xB1
  | .bar x => x.fields 0xB2
  | .qpush x => x.fields 0xB3
  | .qpop x => x.fields 0xB4
  | .passpri => bareFields 0xB5
  | .sleep x => opsFields 0xB6 0 x.a.code 0
  | .ydep x => opsFields 0xB7 0 x.x.code x.y.code
  | .launch x => opsFields 0xB8 0 x.a.code 0
  | .postr x => opsFields 0xB9 0 x.a.code 0
  | .trap x => x.fields
  | .drain => bareFields 0xBB
  | .ld x => x.fields 0xC0
  | .st x => x.fields 0xC1
  | .atom x => x.fields 0xC2
  | .cas x => x.fields 0xC3
  | .red x => x.fields 0xC4
  | .smrg x => x.fields 0xC5
  | .pref x => x.fields 0xC6
  | .clean x => x.fields 0xC7
  | .inval x => x.fields 0xC8
  | .xlate x => x.fields
  | .cpy x => x.fields
  | .cpym x => x.fields
  | .mscl x => x.fields 0xCC
  | .mofs x => x.fields 0xCD
  | .mclp x => x.fields 0xCE
  | .mfil x => x.fields 0xCF
  | .mprm x => x.fields 0xD0
  | .mset x => x.fields 0xD1
  | .mmat x => x.fields 0xD2
  | .mget x => opsFields 0xD3 x.x.code x.y.code 0
  | .mdrop x => x.fields 0xD4
  | .kvapp x => x.fields 0xD5
  | .kvldk x => x.fields 0xD6
  | .kvldv x => x.fields 0xD7
  | .kvfork x => x.fields 0xD8
  | .kvdrop x => x.fields 0xD9
  | .kvevict x => x.fields 0xDA
  | .kvsetpos x => x.fields 0xDB
  | .bkl x => opsFields 0xDC x.d.code x.a.code x.b.code
  | .bktZero x => opsFields 0xDD x.d.code x.a.code x.b.code
  | .bktFill x => opsFields 0xDD x.d.code x.a.code x.b.code
  | .bktCopy x => opsFields 0xDD x.d.code x.a.code x.b.code
  | .bktAdd x => opsFields 0xDD x.d.code x.a.code x.b.code
  | .bktMul x => opsFields 0xDD x.d.code x.a.code x.b.code
  | .bktAxpy x => opsFields 0xDD x.d.code x.a.code x.b.code
  | .bktScale x => opsFields 0xDD x.d.code x.a.code x.b.code
  | .bktCvt x => opsFields 0xDD x.d.code x.a.code x.b.code
  | .bktDot x => opsFields 0xDD x.d.code x.a.code x.b.code
  | .bktIdot x => opsFields 0xDD x.d.code x.a.code x.b.code
  | .bkir x => opsFields 0xDE x.d.code x.a.code x.b.code
  | .bkm => bareFields 0xDF
  | .mma x => x.fields 0xE0
  | .mmas x => x.fields 0xE1
  | .accz x => x.fields 0xE2
  | .accrd x => x.fields 0xE3
  | .accwr x => x.fields 0xE4
  | .accst x => x.fields 0xE5
  | .promo x => x.fields 0xE6
  | .eret => bareFields 0xF0
  | .crd x => x.fields 0xF1
  | .cwr x => x.fields 0xF2
  | .pgmap x => opsFields 0xF3 x.x.code x.y.code 0
  | .pginv x => opsFields 0xF4 0 x.x.code x.y.code
  | .pgattr x => opsFields 0xF5 x.d.code x.a.code x.b.code
  | .kvpop x => x.fields 0xF6
  | .kvref x => x.fields 0xF7
  | .lineclr x => opsFields 0xF8 x.x.code x.y.code 0
  | .iaddHalf x y => pairFields ⟨.iadd, x⟩ y
  | .isubHalf x y => pairFields ⟨.isub, x⟩ y
  | .imulHalf x y => pairFields ⟨.imul, x⟩ y
  | .iminHalf x y => pairFields ⟨.imin, x⟩ y
  | .imaxHalf x y => pairFields ⟨.imax, x⟩ y
  | .andHalf x y => pairFields ⟨.and, x⟩ y
  | .orHalf x y => pairFields ⟨.or, x⟩ y
  | .xorHalf x y => pairFields ⟨.xor, x⟩ y
  | .shlHalf x y => pairFields ⟨.shl, x⟩ y
  | .shrHalf x y => pairFields ⟨.shr, x⟩ y
  | .sraHalf x y => pairFields ⟨.sra, x⟩ y
  | .movHalf x y => pairFields ⟨.mov, x⟩ y
  | .faddHalf x y => pairFields ⟨.fadd, x⟩ y
  | .fsubHalf x y => pairFields ⟨.fsub, x⟩ y
  | .fmulHalf x y => pairFields ⟨.fmul, x⟩ y
  | .fminHalf x y => pairFields ⟨.fmin, x⟩ y
  | .fmaxHalf x y => pairFields ⟨.fmax, x⟩ y
  | .hadd2Half x y => pairFields ⟨.hadd2, x⟩ y
  | .hmul2Half x y => pairFields ⟨.hmul2, x⟩ y
  | .hmax2Half x y => pairFields ⟨.hmax2, x⟩ y
  | .cvtBf16F32Half x y => pairFields ⟨.cvtBf16F32, x⟩ y
  | .cvtF32Bf16Half x y => pairFields ⟨.cvtF32Bf16, x⟩ y
  | .trapEntry _ => []
  | .tokenRunLimit _ => []
  | .sleepExpiry _ _ => []
  | .loadReturn _ _ => []
  | .redElement _ _ => []
  | .smrgMerge _ => []
  | .cpyElement _ _ => []
  | .mapEditElement _ _ => []
  | .kvElement _ _ => []
  | .bankRecall _ => []
  | .bankWorkItem _ => []
  | .bankSuspend _ => []
  | .mmaExecute _ => []
  | .acczExecute _ => []
  | .promoExecute _ => []
  | .accrdExecute _ => []
  | .accwrExecute _ => []
  | .accstExecute _ => []
  | .matrixUnitReset _ => []
  | .tailCommit _ => []
  | .tailInstructionLimit _ => []
  | .shed _ => []
  | .crawlEnd _ => []
  | .nodeReady _ => []
  | .placeGroup _ => []
  | .preemptGroup _ => []
  | .nodeComplete _ => []
  | .asyncCompletion _ _ => []
  | .faultStageWalk _ _ => []
  | .faultEscalate _ _ => []
  | .faultRingPoll _ => []
  | .submit _ _ => []
  | .ctxctlActivate _ => []
  | .ctxctlTeardown _ => []
  | .ctxctlSuspend _ => []
  | .ctxctlResume _ => []
  | .contextSuspended _ => []
  | .resolveRetry _ _ => []
  | .resolveFail _ _ => []
  | .hostRegisterWrite _ _ _ => []
  | .incomingAccess _ => []
  | .attestationRequest => []
  | .firmwareVerify => []
  | .unitReady _ => []
  | .unitOffline _ _ => []
  | .softError _ => []
  | .scrub _ => []
  | .thermalThrottle _ => []
  | .flrVf _ => []
  | .flrPf => []
  | .fundamentalReset => []
  | .clockCount => []
  | .dirtyWindowWriteback _ _ _ => []
  | .atsTranslation _ _ => []
  | .systemWriteAcknowledge _ => []
  | .peerLinkDown _ _ => []

/-- The word of an instruction (R49, R50). -/
def encode (i : Instr) : DWord := BitVec.ofNat 64 (packFields i.fields 0)

/-! ### The decoder -/

/-- The bits of the operand fields D, A, B and C (R49, R51). -/
def maskD : Nat := 2 ^ 55 - 2 ^ 45
def maskA : Nat := 2 ^ 45 - 2 ^ 35
def maskB : Nat := 2 ^ 35 - 2 ^ 25
def maskC : Nat := 2 ^ 25 - 2 ^ 15

/-- The operand fields an arithmetic entry does not use (R55). -/
def Arith.ignored (e : ADesc) : Nat :=
  (if e.a == .no then maskA else 0) + (if e.b == .no then maskB else 0) + (if e.c == .no then maskC else 0)

/-- The operand field that a memory entry does not use: B with AM = 2 (R53, R55), although R58 says that it is unused and 0 (DESIGN
CHOICE: notes/assumptions 48). -/
def MemArgs.ignored (x : MemArgs) : Nat := if x.base == .pair then maskB else 0

/-- The word bits that the device ignores for an instruction: its unused operand fields (R55), and all of bits 54:0
of NOP (R67). Where an entry says that such a field is 0 without making another value illegal (D of BARA, BARW, BAR, CLEAN,
INVAL and CWR, B of XLATE, CPYM and MGET), R55 is taken to hold, and a nonzero value is ignored (DEDUCED: notes/assumptions 48). -/
def Instr.ignored : Instr → Nat
  | .nop => 2 ^ 55 - 1
  | .iadd x => Arith.ignored (adesc 0x01 x.sub.toNat)
  | .isub x => Arith.ignored (adesc 0x02 x.sub.toNat)
  | .imul x => Arith.ignored (adesc 0x03 x.sub.toNat)
  | .imulh x => Arith.ignored (adesc 0x04 x.sub.toNat)
  | .imulhu x => Arith.ignored (adesc 0x05 x.sub.toNat)
  | .imad x => Arith.ignored (adesc 0x06 x.sub.toNat)
  | .imin x => Arith.ignored (adesc 0x07 x.sub.toNat)
  | .imax x => Arith.ignored (adesc 0x08 x.sub.toNat)
  | .umin x => Arith.ignored (adesc 0x09 x.sub.toNat)
  | .umax x => Arith.ignored (adesc 0x0A x.sub.toNat)
  | .iabs x => Arith.ignored (adesc 0x0B x.sub.toNat)
  | .and x => Arith.ignored (adesc 0x0C x.sub.toNat)
  | .or x => Arith.ignored (adesc 0x0D x.sub.toNat)
  | .xor x => Arith.ignored (adesc 0x0E x.sub.toNat)
  | .andn x => Arith.ignored (adesc 0x0F x.sub.toNat)
  | .shl x => Arith.ignored (adesc 0x10 x.sub.toNat)
  | .shr x => Arith.ignored (adesc 0x11 x.sub.toNat)
  | .sra x => Arith.ignored (adesc 0x12 x.sub.toNat)
  | .rol x => Arith.ignored (adesc 0x13 x.sub.toNat)
  | .popc x => Arith.ignored (adesc 0x14 x.sub.toNat)
  | .clz x => Arith.ignored (adesc 0x15 x.sub.toNat)
  | .ctz x => Arith.ignored (adesc 0x16 x.sub.toNat)
  | .brev x => Arith.ignored (adesc 0x17 x.sub.toNat)
  | .bfx x => Arith.ignored (adesc 0x18 x.sub.toNat)
  | .bfi x => Arith.ignored (adesc 0x19 x.sub.toNat)
  | .sel x => Arith.ignored (adesc 0x1A x.sub.toNat)
  | .icmp x => Arith.ignored (adesc 0x1B x.sub.toNat)
  | .iadd64 x => Arith.ignored (adesc 0x1C x.sub.toNat)
  | .isub64 x => Arith.ignored (adesc 0x1D x.sub.toNat)
  | .imul64 x => Arith.ignored (adesc 0x1E x.sub.toNat)
  | .lea x => Arith.ignored (adesc 0x1F x.sub.toNat)
  | .movi _ => maskA
  | .mov x => Arith.ignored (adesc 0x21 x.sub.toNat)
  | .idp4 x => Arith.ignored (adesc 0x28 x.sub.toNat)
  | .idp4u x => Arith.ignored (adesc 0x29 x.sub.toNat)
  | .fadd x => Arith.ignored (adesc 0x40 x.sub.toNat)
  | .fsub x => Arith.ignored (adesc 0x41 x.sub.toNat)
  | .fmul x => Arith.ignored (adesc 0x42 x.sub.toNat)
  | .ffma x => Arith.ignored (adesc 0x43 x.sub.toNat)
  | .fmin x => Arith.ignored (adesc 0x44 x.sub.toNat)
  | .fmax x => Arith.ignored (adesc 0x45 x.sub.toNat)
  | .fcmp x => Arith.ignored (adesc 0x46 x.sub.toNat)
  | .fclass x => Arith.ignored (adesc 0x47 x.sub.toNat)
  | .frcp x => Arith.ignored (adesc 0x48 x.sub.toNat)
  | .frsq x => Arith.ignored (adesc 0x49 x.sub.toNat)
  | .fsqrt x => Arith.ignored (adesc 0x4A x.sub.toNat)
  | .fexp2 x => Arith.ignored (adesc 0x4B x.sub.toNat)
  | .flog2 x => Arith.ignored (adesc 0x4C x.sub.toNat)
  | .fsinp x => Arith.ignored (adesc 0x4D x.sub.toNat)
  | .fcosp x => Arith.ignored (adesc 0x4E x.sub.toNat)
  | .hadd2 x => Arith.ignored (adesc 0x51 x.sub.toNat)
  | .hmul2 x => Arith.ignored (adesc 0x52 x.sub.toNat)
  | .hfma2 x => Arith.ignored (adesc 0x53 x.sub.toNat)
  | .hmax2 x => Arith.ignored (adesc 0x54 x.sub.toNat)
  | .hmin2 x => Arith.ignored (adesc 0x55 x.sub.toNat)
  | .dadd x => Arith.ignored (adesc 0x56 x.sub.toNat)
  | .dsub x => Arith.ignored (adesc 0x57 x.sub.toNat)
  | .dmul x => Arith.ignored (adesc 0x58 x.sub.toNat)
  | .dfma x => Arith.ignored (adesc 0x59 x.sub.toNat)
  | .dmin x => Arith.ignored (adesc 0x5A x.sub.toNat)
  | .dmax x => Arith.ignored (adesc 0x5B x.sub.toNat)
  | .dcmp x => Arith.ignored (adesc 0x5C x.sub.toNat)
  | .cvt x => if narrowBits x.df.toNat = 0 then maskC else 0
  | .cvts x => if x.dq then maskC else 0
  | .dbq x => Arith.ignored (adesc 0x82 x.sub.toNat)
  | .dbx x => Arith.ignored (adesc 0x83 x.sub.toNat)
  | .shfl x => Arith.ignored (adesc 0x84 x.sub.toNat)
  | .shflx x => Arith.ignored (adesc 0x85 x.sub.toNat)
  | .shflu x => Arith.ignored (adesc 0x86 x.sub.toNat)
  | .shfld x => Arith.ignored (adesc 0x87 x.sub.toNat)
  | .bcast x => Arith.ignored (adesc 0x88 x.sub.toNat)
  | .vote x => Arith.ignored (adesc 0x89 x.sub.toNat)
  | .reduce x => Arith.ignored (adesc 0x8A x.sub.toNat)
  | .scan x => Arith.ignored (adesc 0x8B x.sub.toNat)
  | .vconf x => Arith.ignored (adesc 0x8C x.sub.toNat)
  | .visect x => Arith.ignored (adesc 0x8D x.sub.toNat)
  | .kvslot x => Arith.ignored (adesc 0x8E x.sub.toNat)
  | .bara _ => maskD
  | .barw _ => maskD
  | .bar _ => maskD
  | .sleep _ => maskD + maskB
  | .ydep _ => maskD
  | .launch _ => maskD + maskB
  | .postr _ => maskD + maskB
  | .ld x => x.ignored
  | .st x => x.ignored
  | .atom x => x.ignored
  | .cas x => x.ignored
  | .red x => x.ignored
  | .smrg x => x.ignored
  | .pref x => maskD + x.ignored
  | .clean _ => maskD
  | .inval _ => maskD
  | .xlate _ => maskB
  | .cpy x => if x.form = 0#3 then maskC else 0
  | .cpym _ => maskB
  | .mscl _ => maskC
  | .mofs _ => maskC
  | .mfil _ => maskC
  | .mprm _ => maskC
  | .mset _ => maskC
  | .mmat _ => maskB + maskC
  | .mget _ => maskB
  | .mdrop _ => maskB + maskC
  | .crd _ => maskA
  | .cwr _ => maskD
  | .pgmap _ => maskB
  | .pginv _ => maskD
  | .lineclr _ => maskB
  | _ => 0

/-- A full word decoded: the opcode is assigned, the fields pass checks 2 and 4, and every bit that is neither a field
nor ignored is 0. -/
def decodeFull (w : DWord) : Except WordFault Instr :=
  match fullWord w.toNat with
  | none => .error .illop
  | some i =>
    if i.wf && (w &&& ~~~ BitVec.ofNat 64 i.ignored) == encode i then .ok i else .error .illop

/-- A pair word decoded by the rules of R63. -/
def decodePair (w : DWord) : Except WordFault Instr :=
  match cutFields Layout.pairs w.toNat with
  | [_, h1, d1, s1, r1, u1, h2, d2, s2, r2, u2, z] =>
    match HalfOp.ofCode h1, HalfOp.ofCode h2 with
    | some o1, some o2 =>
      let x : Half := ⟨o1, ⟨Operand.ofCode d1, Operand.ofCode s1, Rnd.ofCode r1⟩⟩
      let y : Half := ⟨o2, ⟨Operand.ofCode d2, Operand.ofCode s2, Rnd.ofCode r2⟩⟩
      if u1 == 0 && u2 == 0 && z == 0 && pairOk x y then .ok (pairInstr x y) else .error .illpair
    | _, _ => .error .illpair
  | _ => .error .illpair

/-- The instruction of a word, or the trap of checks 1 to 4 of R68 that refuses it. -/
def decode (w : DWord) : Except WordFault Instr :=
  if w.getLsbD 63 then decodePair w else decodeFull w

/-- The word of eight bytes, least significant first (R3). -/
def wordOfBytes : List Byte → Nat
  | [] => 0
  | b :: bs => b.toNat + 256 * wordOfBytes bs

/-- Decoding of the bytes of a word in memory, lowest address first. -/
def decodeBytes (bs : List Byte) : Except WordFault Instr := decode (BitVec.ofNat 64 (wordOfBytes (bs.take 8)))

/-- The eight bytes of a word as the device stores them (R3). -/
def bytesOf (n : Nat) (w : Nat) : List Byte := (List.range n).map fun k => BitVec.ofNat 8 (w >>> (8 * k))

/-- The instruction that the decoder reads from a word of the opcode table's numbering: bits above `nbits` are 0,
and the word is laid out in memory order before it is decoded. -/
def decodeTableWord (nbits w : Nat) : Option Instr :=
  match decodeBytes (bytesOf 8 (w % 2 ^ nbits)) with
  | .ok i => some i
  | .error _ => none

end Sys2Proof
end

