-- ==== Sys2Proof/Config.lean ====
section
/-! DEFINITION. What one device fixes: the numbers of R1, and the free values, which the spec leaves open and nothing in
the model constrains (opaque constants, applied to the counter `State.free` or to what they depend on). -/
namespace Sys2Proof.Config

/-- Cores of the device (R1). -/
def cores : Nat := 192
/-- Partitions of a core (R1). -/
def partitions : Nat := 8
/-- Cores of a cluster (R1). -/
def clusterCores : Nat := 8
/-- Bank cores of the device (R1): 256 in each of two stacks. -/
def bankCores : Nat := 512
/-- L2 slices of the device (R1). -/
def l2Slices : Nat := 128
/-- Scratchpad bytes of a core (R43). -/
def scratchBytes : Nat := 1572864
/-- Vector register file bytes of a partition (R43). -/
def regFileBytes : Nat := 163840
/-- Where the model keeps the scratchpad of group `i` in its table of memory, above every physical address (R169):
2 MiB for each group (notes/assumptions 6). -/
def scratchBase (i : Nat) : Nat := 2 ^ 52 + i * 2 ^ 21

/-- Lines of 128 bytes in a core's L1 without lent scratchpad, in one lent granule, and in an L2 slice (R180, R184). -/
def l1Lines : Nat := 2048
def granuleLines : Nat := 512
def l2Lines : Nat := 8192
/-- Granules of a core's scratchpad (R184). -/
def granules : Nat := 24
/-- Memory requests of a core that may be outstanding (R1). -/
def requests : Nat := 2048

/-- The set of an L1 in which a line lies, and the ways of a set (R209): the spec gives neither. -/
opaque l1Set : Nat → Nat
opaque l1Ways : Nat
/-- A byte that the spec does not fix: the parts of a save block whose encoding is the device's own (R367). -/
opaque freeByte : Nat → Byte
/-- Which of two allowed outcomes happens: the old or the new translation (R174), the old or the new instruction
word (R193), a failure of host memory (R373). -/
opaque freeBool : Nat → Bool
/-- A choice among several allowed values. -/
opaque freeNat : Nat → Nat
/-- Which of the entries that a TLB holds for an address translates a far reduction's lane (R174, R236), by the order stamp and the
address. -/
opaque freePick : Nat → Nat → Nat
/-- The peer physical base of an aperture in units of 4 GiB, none where it is disabled, by configuration record, port and number of
the aperture (R374): the spec does not give the record's layout. -/
opaque aperture : List Byte → Nat → Nat → Option Nat
/-- The vendor key digest in the mask ROM of Lamgil (R376). -/
opaque vendorDigest : List Byte
/-- The device's private identity key, from its unclonable function (R2, R376). -/
opaque identityKey : Nat
/-- The nonce with which Lamgil signs a report, by the report's digest (R377). -/
opaque identityNonce : List Byte → Nat

end Sys2Proof.Config
end

