-- ==== Sys2Proof/Machine/State.lean ====
section
/-! DEFINITION. The state of the device as plain data: every register, queue, counter and mode the spec names, the
reasons a step can stop, and the state after reset. Sparse tables list only what differs from a stated default. -/
namespace Sys2Proof.Machine

/-- A sparse table of words: strictly rising keys, no zero entry; an unlisted key holds zero. -/
abbrev Store (w : Nat) := List (Nat × BitVec w)
/-- Memory (R3, R169): address and byte pairs in the canonical form of `Store`. -/
abbrev Memory := List Host.Cell
/-- A sparse table of records by index, keys strictly rising; an unlisted index holds the record's reset value. -/
abbrev Tab (α : Type) := List (Nat × α)

/-- The agent whose step this is: a gang of a core, or a bank core. -/
inductive Agent where
  | none | gang (g : Nat) | bank (b : Nat)
  deriving DecidableEq, Repr

/-- What a page-table leaf, or the crew window, says about an address (R172, R175): the entry's physical address,
the page size, the frame, the header frame and the leaf's attribute bits. `disc` is none where DISCARD is what memory holds, else
its value as a TLB read it (R174). -/
structure Leaf where
  pte : Nat
  size : Nat
  frame : Nat
  hframe : Nat
  hint : Nat
  tier : Nat
  mapped : Bool
  exec : Bool
  write : Bool
  crew : Bool
  disc : Option Bool
  deriving DecidableEq, Repr

/-- A resolved access: virtual address, physical address, the leaf it came through, whether a non-coherent
window covers it (R178). -/
structure Xlat where
  va : Nat
  pa : Nat
  leaf : Leaf
  window : Bool
  deriving DecidableEq, Repr

/-- A translation register (R175): `valid` false means it holds no translation; `leaves` the pages it covers, each with
its leaf; `stale` as PGINV marks it (R177). -/
structure Xt where
  valid : Bool
  base : DWord
  frame : Nat
  limit : DWord
  leaves : List (Nat × Leaf)
  stale : Bool
  deriving DecidableEq, Repr

/-- One TLB entry of a core (R174): context, first virtual address of the page, the leaf as it was read, DISCARD among it. -/
structure TlbEntry where
  core : Nat
  ctx : Nat
  page : Nat
  leaf : Leaf
  deriving DecidableEq, Repr

/-- The causes of R163, by their codes. -/
inductive Cause where
  | illop | illpair | badopnd | priv | align | pagefault | prot | poison | divovf | qfullscope | length
  | kvcow | kvpool | badsparse | matrst | bankrange | user
  deriving DecidableEq, Repr

/-- What a trap reports (R155, R163, R381): cause, INFO, the four access flags (bit 0 read, 1 write, 2 fetch,
3 atomic), the address, LANES and RETRY, the slices of the faulting fragment, whether the instruction may act once
per issue (R157 step 3), whether a PAGEFAULT may be gathered (R362) with its 64 KiB units and lanes, and the malformed entries
that its walks met (R173), recorded when the trap is raised. -/
structure TrapInfo where
  cause : Cause
  info : Nat
  acc : Nat
  addr : DWord
  lanes : BitVec 32
  retry : BitVec 32
  frag : BitVec 8
  once : Bool
  gather : List (Nat × BitVec 32)
  walks : List Nat
  deriving DecidableEq, Repr

/-- The divergence state of one slice (R22, R23): PC, EPC, liveness, stop flag and REGANG id, the lowest slice of
its fragment, and the lanes that a replay limits it to (R157). -/
structure Slice where
  pc : DWord
  epc : DWord
  live : Bool
  stopped : Bool
  regang : BitVec 8
  frag : Nat
  replay : Option (BitVec 4)
  deriving DecidableEq, Repr

/-- The fixed part of a checkpoint (R205). -/
structure Ckpt where
  slices : List Slice
  nest : Store 8
  flags : BitVec 5
  deriving DecidableEq, Repr

/-- A register a tail can write (R206). -/
inductive RegId where
  | v (n : Nat) | s (n : Nat) | xt (n : Nat)
  deriving DecidableEq, Repr

/-- One undo-log entry (R206): the register and its value before the tail, 32 lanes or one scalar. -/
structure UndoEntry where
  reg : RegId
  old : List DWord
  deriving DecidableEq, Repr

/-- The stores of one instruction of a tail to one page, as they stand in the store buffer (R207): the leaf they went through,
whether they are written through to the L2 (R183), and the bytes in the order in which they are written. -/
structure SbStore where
  leaf : Leaf
  through : Bool
  bytes : List (Nat × Byte)
  deriving DecidableEq, Repr

/-- A load in flight (R226): the values it will deliver into vector elements (key 32 x register + lane) and scalars. -/
structure PendLoad where
  vw : List (Nat × Word)
  sw : List (Nat × DWord)
  deriving DecidableEq, Repr

/-- A fault held inside a tail (R216), with the gang as it stands at the faulting instruction, so that later
instructions can be discarded: both register banks, its checkpoint, the tail's views and records. -/
structure HeldFault where
  trap : TrapInfo
  ckpt : Ckpt
  v : Store 32
  s : Store 64
  sv : Store 32
  ss : Store 64
  xts : List (Nat × Xt)
  sbuf : List SbStore
  pend : List PendLoad
  walks : List Nat
  deriving DecidableEq, Repr

/-- An open tail (R204 to R209): checkpoint and its PC, undo log, store buffer in program order, read set (word numbers, rising), the
pages (first address and size) its accesses were translated through, its own view of translation registers (R221), the instructions
issued in it, whether it has closed, whether a conflict is about to shed it (R213), the held fault, and the malformed entries
that walks without a trap met (R173, R240): their records are written at commit, since a shed leaves none (R192). -/
structure Tail where
  ckpt : Ckpt
  ckptPc : DWord
  log : List UndoEntry
  sbuf : List SbStore
  reads : List Nat
  pages : List (Nat × Nat)
  xts : List (Nat × Xt)
  count : Nat
  closed : Bool
  conflict : Bool
  held : Option HeldFault
  walks : List Nat
  deriving DecidableEq, Repr

/-- What a failed access reports: its cause, the walk's stop where a page fault may be gathered (R362), a malformed entry to record
(R173), and the page (first address and size) through whose entry it was translated (R213). -/
structure XFail where
  cause : Cause
  gather : Bool
  badPte : Option Nat
  page : Option (Nat × Nat)
  deriving DecidableEq, Repr

/-- A read event of a key-value load that was made apart from the others (R187, R284): its place among the reads of the word, the
number read, or its failure, and whether that is one of an access check (R318). -/
structure KvSeen where
  idx : Nat
  v : Nat
  fail : Option (XFail × Bool)
  deriving DecidableEq, Repr

/-- A word of which a part has acted and the rest has still to (R187): the instruction; where the access of one lane is cut between
its words, that lane, its access and the words that have acted, as a load has read them; and the reads of a key-value load that have
been made. -/
structure Midway where
  word : DWord
  cut : Option (Nat × Xlat × List Word)
  seen : List KvSeen
  deriving DecidableEq, Repr

/-- A gang's wait on gathered page faults (R362, R363): what it would report, and each unit with its lanes and
state (0 waiting, 1 resolved, 2 failed). -/
structure FaultWait where
  trap : TrapInfo
  units : List (Nat × BitVec 32 × Nat)
  deriving DecidableEq, Repr

/-- Where a gang or a group stands: resident, saved by a pre-emption, ended. -/
inductive Stand where
  | resident | saved | ended
  deriving DecidableEq, Repr

/-- One accumulator of a matrix unit (R288): owner, the KA26 values and FP32 partials keyed 64 x row + column
(KA26 in its 32-bit placement of R80), block count and promotion interval. -/
structure Acc where
  owner : Option Nat
  ka : Store 32
  part : Store 32
  n : Nat
  p : Nat
  deriving DecidableEq, Repr

/-- A gang (R22). `v` is keyed 32 x register + lane; `sv` and `ss` are the supervisor bank (R156). `aside` is the
divergence state held during a handler (R155), `asideBar` the barrier that `inBar` named before it, `cnt` the six completion counters (R140), `inBar` the barrier
in which a BAR of the gang has arrived and waits (0 to 15 group, 16 to 23 cluster), `sleep` the clk
until which each slice sleeps, `accs` the accumulators and `hadToken`
the issue-priority token that a pre-emption saved (R288, R367), `irr` the stamp of its last irrevocable operation (R193), `midway` the
word of which a part has acted and the rest has still to (R187), `deferred` the traps of the matrix unit that it has still to
take, oldest first (R294). -/
structure Gang where
  grp : Nat
  idx : Nat
  part : Nat
  stand : Stand
  v : Store 32
  s : Store 64
  sv : Store 32
  ss : Store 64
  slices : List Slice
  nest : Store 8
  sleep : List Nat
  super : Bool
  aside : List Slice
  asideNest : Store 8
  asideSleep : List Nat
  faultSlices : BitVec 8
  faultOnce : Bool
  trapcause : DWord
  trapaddr : DWord
  trapmask : DWord
  flags : BitVec 5
  cnt : List Nat
  pend : List PendLoad
  tail : Option Tail
  sheds : Nat
  shedPc : DWord
  crawl : Bool
  crawlCnt : Nat
  deferred : List TrapInfo
  accs : List (Nat × Acc)
  hadToken : Bool
  fwait : Option FaultWait
  inBar : Option Nat
  asideBar : Option Nat
  lastIssue : Nat
  arrival : Nat
  stalled : Bool
  irr : Nat
  midway : Option Midway
  deriving DecidableEq, Repr

/-- A barrier (R144): the current phase and the gangs that have arrived in it. -/
structure Barrier where
  phase : Nat
  arrived : List Nat
  deriving DecidableEq, Repr

/-- A group (R22, R31): its node, coordinates and stage, where it is placed, the group part of MODE (bits 4:0),
PROMOINT, xt0 to xt15, the format slots of its launch, barriers 0 to 15, its crew and rank, its gangs, its
register count and its scratchpad bytes, when it was placed, and whether it is being pre-empted (R367). -/
structure Group where
  ctx : Nat
  node : Nat
  x : Nat
  y : Nat
  z : Nat
  stage : Nat
  lin : Nat
  stand : Stand
  core : Nat
  p0 : Nat
  mode : BitVec 5
  promo : Nat
  xt : List Xt
  slots : List (BitVec 128)
  bars : List Barrier
  crew : Nat
  rank : Nat
  first : Nat
  gangs : Nat
  regs : Nat
  scratch : Nat
  placedAt : Nat
  leaving : Bool
  deriving DecidableEq, Repr

/-- A crew (R31, R32): its member groups by rank, its cluster barriers 0 to 7, and whether its scratchpads have
been released (R165). -/
structure Crew where
  members : List Nat
  bars : List Barrier
  released : Bool
  deriving DecidableEq, Repr

/-- One queue declaration of a launch record (R38). -/
structure QDecl where
  qid : Nat
  depth : Nat
  scope : Nat
  pstage : Nat
  cstage : Nat
  deriving DecidableEq, Repr

/-- One queue (R33): the node and declaration it stands for, the coordinate it belongs to, its entries oldest
first, and the gangs blocked on it in the order in which they blocked, with true for a push (R146). -/
structure Queue where
  node : Nat
  decl : QDecl
  x : Nat
  y : Nat
  z : Nat
  core : Nat
  entries : List DWord
  blocked : List (Nat × Bool)
  deriving DecidableEq, Repr

/-- A sort-yard entry (R360). -/
structure YardEntry where
  key : BitVec 16
  words : List Word
  lin : Nat
  gang : Nat
  lane : Nat
  deriving DecidableEq, Repr

/-- A launch record as the dispatcher read it (R37). -/
structure LaunchRec where
  entry : Nat
  gx : Nat
  gy : Nat
  gz : Nat
  stages : Nat
  gangs : Nat
  regs : Nat
  scratch : Nat
  crew : Nat
  prio : Nat
  pairing : Nat
  yard : Nat
  params : Nat
  save : Nat
  result : Nat
  next : Nat
  queues : List QDecl
  slots : List (BitVec 128)
  deriving DecidableEq, Repr

/-- How far a launched node has come: launched, complete, or torn down with its context (R352). -/
inductive NodeStand where
  | launched | done | torn
  deriving DecidableEq, Repr

/-- A node that has been read and accepted (R356, R359): its record's virtual and physical address, its phase number k,
the groups already placed (linear ids), LOSTRED, the yard its groups filled, whether its room in the yard region is
reserved, the yard relayed to it in its sorted order with the bytes that reserves (R360, R361), and when it became ready. -/
structure Node where
  ctx : Nat
  addr : Nat
  pa : Nat
  lr : LaunchRec
  k : Nat
  stand : NodeStand
  placed : List Nat
  lost : Bool
  yard : List YardEntry
  reserved : Bool
  relay : List YardEntry
  relayBytes : Nat
  readyAt : Nat
  deriving DecidableEq, Repr

/-- What made a node ready (R352, R151, R355): the host, a gang, an edge. -/
inductive SubSrc where
  | host | device | edge
  deriving DecidableEq, Repr

/-- A node that is ready and not yet read (R352, R356): the record's address, what made it ready, and when. -/
structure Submission where
  addr : Nat
  src : SubSrc
  at_ : Nat
  deriving DecidableEq, Repr

/-- A context (R352, R353, R160): host block (`torn`: torn down, SUSPENDED not yet raised for it), context registers, submission queue, count of launched nodes, and the
yards waiting for their target (R360): target, bytes reserved, entries. -/
structure Context where
  active : Bool
  suspend : Bool
  suspended : Bool
  torn : Bool
  ctxrec : DWord
  root : Nat
  trapvec : DWord
  kvbase : DWord
  kvpool : DWord
  framepool : DWord
  rotbase : DWord
  errlog : DWord
  ncwin : Store 64
  faultq : Nat
  yardbase : Nat
  yardsize : Nat
  bksave : Nat
  queue : List Submission
  launched : Nat
  waitYards : List (Nat × Nat × List YardEntry)
  deriving DecidableEq, Repr

/-- An operation queued at a matrix unit (R287, R302): its kind (0 MMA, 1 MMAS, 2 ACCZ, 3 ACCRD, 4 ACCWR, 5 ACCST, 6
PROMO), the gang, the fragment's lanes and active lanes, the completion record it belongs to (class ts), its fields, the
blocks added or rows written so far, the physical addresses of its operands and their scale pairs, its two format
slots, words 0 to 7 of every line of a sparse A once they have passed their check (R291), the operand words already read (by
number, R292, R306), and the words of the next row already written (R312). -/
structure MatOp where
  kind : Nat
  gang : Nat
  lanes : BitVec 32
  active : BitVec 32
  op : Nat
  args : MatArgs
  kb : Nat
  a : Nat
  b : Nat
  sca : Nat
  scb : Nat
  sa : Nat
  sb : Nat
  masks : List Word
  got : List (Nat × Word)
  did : List Nat
  deriving DecidableEq, Repr

/-- A partition (R46, R47, R287): issue-priority token, run count, whether a slot of this clk is used or withheld
(R380), whether the next slot is owed to another gang, its matrix unit and the clk of that unit's last progress. -/
structure Part where
  token : Option Nat
  run : Nat
  issued : Bool
  yield : Bool
  throttled : Bool
  accs : List Acc
  mq : List MatOp
  progress : Nat
  deriving DecidableEq, Repr

/-- The counter pairs of a core (R378): selector, count, the context that last wrote the selector. -/
structure Core where
  offline : Bool
  evsel : Store 64
  evcnt : Store 64
  evctx : Tab Nat
  deriving DecidableEq, Repr

/-- The counter pairs of an L2 slice (R372, R378). -/
structure SliceCtr where
  sel : Store 64
  cnt : Store 64
  deriving DecidableEq, Repr

/-- A copy of a window line in an L1 (`unit` a core) or at a home slice (R179): 128 bytes, a dirty mask, the words that were
poisoned when it was read (R186), and its retention class (R183: 0 default, 1 stream, 2 sticky). -/
structure WinCopy where
  unit : Nat
  line : Nat
  data : Store 8
  dirty : BitVec 128
  bad : BitVec 32
  kept : Nat
  deriving DecidableEq, Repr

/-- A coherent line in an L1 (`unit` a core) or at a home slice (R180, R182): its retention class (R183) and the words of which
it holds a valid copy; `mod`, at a home slice, the words written since it was read, which memory may not have yet (R202). Their values
are those of `State.mem`; `State.owner` says which core has a word modified. `hdr` is the header of the mapped tile to which an L1's
line belongs, one unit with it (R265). -/
structure CacheLine where
  unit : Nat
  line : Nat
  kept : Nat
  valid : BitVec 32
  mod : BitVec 32
  hdr : Option Nat
  deriving DecidableEq, Repr

/-- One source byte of a copied word: not written, a byte at a virtual address, or a byte already known: padding, or
read from a tile (R242, R244). -/
inductive SrcByte where
  | keep | at_ (va : Nat) | byte (b : Byte)
  deriving DecidableEq, Repr

/-- One element of an asynchronous command (R187): what the engine performs as one event. -/
inductive Elem where
  /-- copy-engine words of command `k` of a CPYM (0 for CPY), all of one destination word or tile (R244): destination
  address and four source bytes each -/
  | copy (k : Nat) (ws : List (Nat × List SrcByte))
  /-- the read of one mapped source tile of command `k` (R187, R244) -/
  | fetch (k va : Nat)
  /-- one tile of a map command (R270) -/
  | tile (va : Nat)
  /-- one lane of RED (R235): address as translated at issue, or deferred (R236) -/
  | red (va : Nat) (x : Option Xlat) (v : DWord)
  /-- the merge record of SMRG (R238) with the incoming m, l and o words -/
  | merge (va : Nat) (x : Option Xlat) (m l : Word) (o : List Word)
  /-- a table word written (R281) -/
  | put (x : Xlat) (v : Word)
  /-- REFCNT of the descriptor plus one (KVFORK) -/
  | refInc (x : Xlat)
  /-- REFCNT of a page's descriptor minus one; at 0 the push of the page follows (KVDROP) -/
  | refDec (x : Xlat) (page : Nat) (pool : Xlat)
  /-- the push of a page that has reached 0 (R280): the word of the pool's array; `x` is the page's descriptor -/
  | push (x : Xlat) (page : Nat) (pool : Xlat)
  /-- COUNT of the pool written, the second word of a push, which no other push or pop precedes (R280) -/
  | count (pool : Xlat) (v : Word)
  /-- SURV bit FILL set and FILL increased (KVAPP) -/
  | grow (x : Xlat)
  /-- SURV bit j cleared with the snapshot of the later slots (KVEVICT): the slot bytes and the two frames as read at issue -/
  | evict (x : Xlat) (j sz : Nat) (frames : List Nat)
  /-- POSBASE written (KVSETPOS) -/
  | setPos (x : Xlat) (v : Word)
  deriving DecidableEq, Repr

/-- The map a map command applies (R268, R270 to R273). -/
inductive MapCmd where
  | edit (a b lo hi : Word) (r m : Nat)
  | set (h : BitVec 256) (pre : Bool)
  | mat
  | drop
  deriving DecidableEq, Repr

/-- What an asynchronous operation is (R140); `hint` is the retention of a copy's destination writes (R241, R245). -/
inductive OpKind where
  | copy (hint : Nat) | map (c : MapCmd) | kv | red (opc : Nat) (wide : Bool) | smrg | matrix | bank
  deriving DecidableEq, Repr

/-- An asynchronous operation in flight (R140, R194): its gang, class, node and core, the elements still to perform,
the pages it translated at issue (virtual page, leaf), and whether its engine is done with it. -/
structure AsyncOp where
  id : Nat
  gang : Nat
  cls : Nat
  ctx : Nat
  node : Nat
  kind : OpKind
  elems : List Elem
  pages : List (Nat × Leaf)
  busy : Bool
  deriving DecidableEq, Repr

/-- A BKT command block as read at issue (R323), with the length operand of DOT and IDOT. -/
structure BankBlock where
  cmd : Nat
  fmt : Nat
  opt : Nat
  width : Nat
  dst : Nat
  src1 : Nat
  src2 : Nat
  height : Nat
  dpitch : Nat
  spitch1 : Nat
  spitch2 : Nat
  alpha : Word
  beta : Word
  scales : Nat
  len : Nat
  deriving DecidableEq, Repr

/-- A BKIR reduction block as read at issue (R345), with its packets (bag and indices). -/
structure RedBlock where
  fmt : Nat
  accum : Bool
  rowb : Nat
  table : Nat
  nrows : Nat
  dst : Nat
  dpitch : Nat
  tpitch : Nat
  pkt : Nat
  packets : List (Nat × List Nat)
  deriving DecidableEq, Repr

/-- The bank work a command describes (R331). -/
inductive BankWork where
  | kernel (code : List DWord) (entry regs : Nat) (b : DWord) (params : List Word)
  | tile (blk : BankBlock)
  | reduce (blk : RedBlock)
  deriving DecidableEq, Repr

/-- A part of a work item: for a BKT share the row, the first byte and the byte after the last in it, and their physical
address; for a kernel its segment as virtual address, bytes, 0, physical address; for a packet its number, 0, the
bytes of the row, their physical address. -/
structure BankPiece where
  row : Nat
  lo : Nat
  hi : Nat
  pa : Nat
  deriving DecidableEq, Repr

/-- A bank command (R196, R331, R347): its operation, issuing group, context, priority, marker epoch (R197), arrival
counter (physical address), the work, the regions it reads or writes (address, bytes, written), their pages, the physical
lines it holds on coherent memory, the tiles that could not be materialised (first byte, cause, what is recorded), its work items before they reach their bank
cores (bank core and parts), whether its range is recalled and held now, whether its items have reached the bank cores. -/
structure BankCmd where
  id : Nat
  grp : Nat
  ctx : Nat
  prio : Nat
  epoch : Nat
  counter : Nat
  work : BankWork
  regions : List (Nat × Nat × Bool)
  pages : List (Nat × Leaf)
  range : List (Nat × Nat)
  bad : List (Nat × Cause × Nat)
  shares : List (Nat × List BankPiece)
  held : Bool
  started : Bool
  deriving DecidableEq, Repr

/-- A lane's access of a kernel that its program order has passed and that has still to take effect (R194, R337): whether it stores, the
PC and the operands of its word, the lane, physical address, bytes and, for a store, the number. -/
structure BankAcc where
  wr : Bool
  pc : DWord
  args : MemArgs
  lane : Nat
  pa : Nat
  n : Nat
  v : Nat
  deriving DecidableEq, Repr

/-- The registers of a kernel on its bank core (R330, R336): segment, PC, registers, 2-bit nesting counters; `late` its accesses that
have still to take effect, oldest first, and `ahead` the words that it has read ahead of the loads that ask for them, each with its
number (R194, R337). -/
structure Kernel where
  seg : Nat
  segLen : Nat
  segVa : Nat
  v : Store 32
  s : Store 64
  nest : Store 8
  pc : DWord
  regs : Nat
  late : List BankAcc
  ahead : List (Nat × Word)
  deriving DecidableEq, Repr

/-- How far a work item has come (R331, R350). -/
inductive ItemStand where
  | queued | running | suspended | done
  deriving DecidableEq, Repr

/-- A work item at a bank core (R331): its command, its parts, the kernel it runs, the parts done, the words of
others that have performed already (part and word, R187), the bytes written, the indices that a packet skipped (R346), and the words
of its table rows that it has read ahead (t, word, value; R346). -/
structure BankItem where
  cmd : Nat
  core : Nat
  stand : ItemStand
  pieces : List BankPiece
  kern : Option Kernel
  prog : Nat
  did : List (Nat × Nat)
  bytes : Nat
  skips : List Nat
  rows : List (Nat × Nat × Word)
  deriving DecidableEq, Repr

/-- An entry of a core's fault filter (R362). -/
structure FilterEntry where
  core : Nat
  ctx : Nat
  unit : Nat
  acc : Nat
  waiters : List Nat
  deriving DecidableEq, Repr

/-- An entry of a cluster's fault stage (R362, R363): the gangs and deferred elements that wait, and whether it has
escalated and stands in the host's ring. -/
structure StageEntry where
  cluster : Nat
  slot : Nat
  ctx : Nat
  unit : Nat
  acc : Nat
  waiters : List Nat
  defers : List Nat
  escalate : Bool
  posted : Bool
  deriving DecidableEq, Repr

/-- What a request to host or peer memory asks: a read of a word, a write of a word with its byte enables, the zero fill of a
frame of some bytes (R185, R373). -/
inductive FarKind where
  | read | write (v : Word) (bytes : BitVec 4) | zero (n : Nat)
  deriving DecidableEq, Repr

/-- A request sent to host or peer memory (R373, R374): the address on the link, the host address where it goes out translated
(ATS), the peer port or none for the host, and what it asks. -/
structure FarReq where
  pa : Nat
  translated : Option Nat
  port : Option Nat
  kind : FarKind
  deriving DecidableEq, Repr

/-- How a read of device memory or of a register by the host or a peer completes (R371, R374): with data, as a completer abort, or as
an unsupported request. -/
inductive Reply where
  | data (v : DWord) | abort | unsupported
  deriving DecidableEq, Repr

/-- What moves next when it is chosen from outside. -/
inductive Act where
  /-- the issue slot of a partition -/
  | slot (p : Nat)
  /-- an instruction of a bank core -/
  | bankSlot (b : Nat)
  /-- a step of the device -/
  | event (i : Instr)
  /-- the issue slot of a partition, in which a load, a store or an atomic acts in its first `k` active lanes only (R187, R232) -/
  | lanes (p k : Nat)
  /-- the issue slot of a partition, in which the next lane's access of a load or a store acts in its first `k` words only, or the next
  `k` read events of a key-value load are made (R187) -/
  | words (p k : Nat)
  /-- the kernel on a bank core goes past a load or a store, whose lanes take effect later (R194, R337) -/
  | bankDefer (b : Nat)
  /-- the access of a kernel that stands at place `j` among those that have still to take effect (R194, R337) -/
  | bankAcc (b j : Nat)
  /-- a word, by number, that the kernel on a bank core reads ahead of the load that asks for it (R194, R337) -/
  | bankAhead (b word : Nat)
  /-- one word of a table row of the packet that runs on a bank core read (R346) -/
  | bankRow (b t word : Nat)
  /-- one word of the share or packet that runs on a bank core, in any order (R194) -/
  | bankWord (b piece word : Nat)
  /-- one operand word of the product at the head of a matrix unit read (R292, R306) -/
  | mmaWord (p word : Nat)
  /-- one destination word of the ACCST at the head of a matrix unit written (R312) -/
  | accstWord (p word : Nat)
  /-- one dirty word of a window copy written back, which stays (R199) -/
  | backWord (l2 : Bool) (unit word : Nat)
  /-- a copy of the window line of an address that an L1, or its home slice, reads by itself (R179) -/
  | preload (core ctx va : Nat) (l2 : Bool)
  /-- the host or a peer storing a byte of its own memory (R373, R374) -/
  | farStore (pa : Nat) (b : Byte)
  /-- the host reading a register of a function at an offset of its BAR 0 (R371, R372) -/
  | hostRead (fn off : Nat)
  /-- the host writing a register of a function at an offset of its BAR 0 (R371, R372) -/
  | hostStore (fn off : Nat) (v : DWord)
  deriving DecidableEq, Repr

/-- The state of the device. `agenda`, `cur`, `free`, `stamp` and `nextOp` are the model's own (notes/assumptions 2,
3, 4): who moves next, who issues now, the counter of free values, the order stamps, the next operation number.
`mem` holds physical memory, host and peer memory in their windows (R169), and, above 2^52, the scratchpads; `poison` the
poisoned words; `owner` the core whose L1 holds a word modified (R182); `codeOld` words that stores have replaced (R193); `l1`
and `l2` the coherent lines of the caches (R180), `l1win` and `l2win` their window copies (R179); `logq` the records that wait for
the memory of their log (R369, R375); `blocked` marks, during an act, that a walk met memory that is not ready (R375); `irqs` are the MSI-X messages sent, by function and
vector (R371), and `replies` the completions of host and peer reads (R371, R374). `images` is each saved group's scratchpad as its save
block was written (R166, R367): what differs from it when the group comes back was written while it was saved. -/
structure State where
  agenda : List Act
  cur : Agent
  free : Nat
  stamp : Nat
  nextOp : Nat
  clock : DWord
  mem : Memory
  poison : List Nat
  owner : Tab Nat
  codeOld : List (Nat × Word × Nat)
  tlb : List TlbEntry
  l1 : List CacheLine
  l2 : List CacheLine
  l1win : List WinCopy
  l2win : List WinCopy
  ctxs : Tab Context
  nodes : List Node
  groups : List Group
  crews : List Crew
  gangs : List Gang
  queues : List Queue
  parts : Tab Part
  cores : Tab Core
  slices : Tab SliceCtr
  ops : List AsyncOp
  cmds : List BankCmd
  items : List BankItem
  epochs : Tab Nat
  filters : List FilterEntry
  stages : List StageEntry
  irqs : List (Nat × Nat)
  replies : List Reply
  link : Bool
  lamgil : Bool
  clusters : List Nat
  stacksUp : List Nat
  channels : List Nat
  offline : List Device
  vfs : BitVec 32
  mailbox : Store 8
  firmware : List Byte
  config : List Byte
  ats : List (Nat × Nat)
  farOut : List FarReq
  farPend : Nat
  peerDown : List Nat
  scrubStack : Nat
  scrubBulk : Nat
  logq : List (Nat × List Byte)
  blocked : Bool
  images : Tab (Store 8)
  deriving DecidableEq, Repr

/-- A step can end here only in a fault of the model's own. -/
inductive Fault where
  /-- Raised by the meaning of an instruction that is asked to run while no gang and no bank core issues (`State.cur`
  is none or names no resident agent). `step` selects the agent first and never does so. Safe: the device has no
  such step. -/
  | noIssuer
  deriving DecidableEq, Repr

/-- A step can be refused only for an instruction without a meaning. -/
inductive Refusal where
  /-- Raised by an arm of `exec` that has no meaning yet, with its mnemonic. Safe: the run stops. -/
  | notModelled (mnemonic : String)
  deriving DecidableEq, Repr

/-- A leaf that grants nothing: the content of an unused translation. -/
def Leaf.none : Leaf := ⟨0, 0, 0, 0, 0, 0, false, false, false, false, Option.none⟩

/-- A translation register that holds no translation (R35). -/
def Xt.none : Xt := ⟨false, 0, 0, 0, [], false⟩

/-- An idle barrier (R35). -/
def Barrier.idle : Barrier := ⟨0, []⟩

/-- A context at reset (R352: every register of the block is 0). -/
def Context.reset : Context :=
  ⟨false, false, false, false, 0, 0, 0, 0, 0, 0, 0, 0, [], 0, 0, 0, 0, [], 0, []⟩

/-- A free accumulator in the zero state (R288); 16 is the reset value of PROMOINT (R289). -/
def Acc.zero : Acc := ⟨Option.none, [], [], 0, 16⟩

/-- A partition at reset: no token, an empty matrix queue, both accumulators free. -/
def Part.reset : Part := ⟨Option.none, 0, false, false, false, [Acc.zero, Acc.zero], [], 0⟩

/-- A core at reset: counters and selectors 0 (R378). -/
def Core.reset : Core := ⟨false, [], [], []⟩

/-- The counters of an L2 slice at reset (R372, R378). -/
def SliceCtr.reset : SliceCtr := ⟨[], []⟩

/-- The device right after a fundamental reset (R34, R375, R380): the clock count 0, every ready flag clear, every
register of R352 and every counter 0, nothing resident, memory with nothing listed. -/
def State.reset : State where
  agenda := []
  cur := .none
  free := 0
  stamp := 0
  nextOp := 0
  clock := 0
  mem := []
  poison := []
  owner := []
  codeOld := []
  tlb := []
  l1 := []
  l2 := []
  l1win := []
  l2win := []
  ctxs := []
  nodes := []
  groups := []
  crews := []
  gangs := []
  queues := []
  parts := []
  cores := []
  slices := []
  ops := []
  cmds := []
  items := []
  epochs := []
  filters := []
  stages := []
  irqs := []
  replies := []
  link := false
  lamgil := false
  clusters := []
  stacksUp := []
  channels := []
  offline := []
  vfs := 0
  mailbox := []
  firmware := []
  config := []
  ats := []
  farOut := []
  farPend := 0
  peerDown := []
  scrubStack := 0
  scrubBulk := 0
  logq := []
  blocked := false
  images := []

end Sys2Proof.Machine
end

