-- ==== Sys2Proof/Machine/Store.lean ====
section
/-! DEFINITION. Sparse tables in their canonical form, and memory over them: one byte order (R3), one place where wider
accesses are built from bytes. -/
namespace Sys2Proof.Machine

/-- The word at a key; an unlisted key holds zero. -/
def stGet {w : Nat} : Store w → Nat → BitVec w
  | [], _ => 0
  | (a, x) :: r, k => if a = k then x else stGet r k

/-- A table with a word put at one key, in the rising order of the keys. -/
def stPut {w : Nat} : Store w → Nat → BitVec w → Store w
  | [], k, x => [(k, x)]
  | (a, y) :: r, k, x =>
    if a = k then (k, x) :: r else if k < a then (k, x) :: (a, y) :: r else (a, y) :: stPut r k x

/-- A table with the word at one key replaced; a zero word takes the key off the list. -/
def stSet {w : Nat} (t : Store w) (k : Nat) (x : BitVec w) : Store w :=
  if x = 0 then t.filter fun e => e.1 != k else stPut t k x

/-- Several words replaced, in order. -/
def stSetAll {w : Nat} (t : Store w) (l : List (Nat × BitVec w)) : Store w :=
  l.foldl (fun t e => stSet t e.1 e.2) t

/-- The table with every key of `[lo, hi)` zero. -/
def stClear {w : Nat} (t : Store w) (lo hi : Nat) : Store w :=
  t.filter fun e => e.1 < lo || hi ≤ e.1

/-- The canonical form: keys strictly rising, no zero entry. -/
def stWf {w : Nat} : Store w → Bool
  | [] => true
  | [(_, x)] => x != 0
  | (a, x) :: (b, y) :: r => x != 0 && decide (a < b) && stWf ((b, y) :: r)

/-- The canonical form of memory. -/
def Memory.wf (m : Memory) : Bool := stWf (w := 8) m

/-- The record at an index, or its reset value. -/
def tabGet {α : Type} (t : Tab α) (d : α) (k : Nat) : α :=
  match t with
  | [] => d
  | (a, x) :: r => if a = k then x else tabGet r d k

/-- A table of records with one replaced, keys rising. -/
def tabSet {α : Type} (t : Tab α) (k : Nat) (x : α) : Tab α :=
  match t with
  | [] => [(k, x)]
  | (a, y) :: r => if a = k then (k, x) :: r else if k < a then (k, x) :: (a, y) :: r else (a, y) :: tabSet r k x

/-- A table without one index. -/
def tabDel {α : Type} (t : Tab α) (k : Nat) : Tab α := t.filter fun e => e.1 != k

/-- A list of numbers, rising without repeats, with one more. -/
def insNat (l : List Nat) (k : Nat) : List Nat :=
  match l with
  | [] => [k]
  | a :: r => if a = k then a :: r else if k < a then k :: a :: r else a :: insNat r k

/-- Little-endian bytes of a number (R3). -/
def leBytes : Nat → Nat → List Byte
  | 0, _ => []
  | n + 1, x => BitVec.ofNat 8 x :: leBytes n (x / 256)

/-- The number that little-endian bytes make (R3). -/
def leNat : List Byte → Nat
  | [] => 0
  | b :: r => b.toNat + 256 * leNat r

/-- The `n` bytes of memory from an address. -/
def memBytes (m : Memory) (a n : Nat) : List Byte := (List.range n).map fun i => stGet (w := 8) m (a + i)

/-- The number in `n` bytes of memory. -/
def memNat (m : Memory) (a n : Nat) : Nat := leNat (memBytes m a n)

/-- Bytes written from an address on. -/
def memPut (m : Memory) (a : Nat) (bs : List Byte) : Memory :=
  stSetAll (w := 8) m ((List.range bs.length).zip bs |>.map fun e => (a + e.1, e.2))

/-- A table of 128 bytes or of 16 KiB counts from 0: the bytes of a sparse table as a list. -/
def stBytes (t : Store 8) (n : Nat) : List Byte := (List.range n).map (stGet t)

/-- A list with one element changed. -/
def updAt {α : Type} (l : List α) (i : Nat) (f : α → α) : List α := l.modify i f

/-- Whether any bit of a lane mask is set. -/
def maskAny (m : BitVec 32) : Bool := m != 0

/-- The lanes of a mask, rising. -/
def maskLanes (m : BitVec 32) : List Nat := (List.range 32).filter fun l => m.getLsbD l

/-- The mask of the lanes that satisfy a test. -/
def maskOf (p : Nat → Bool) : BitVec 32 :=
  BitVec.ofNat 32 ((List.range 32).foldl (fun n l => if p l then n + 2 ^ l else n) 0)

/-- The lanes of slice `i` (R22). -/
def sliceMask (i : Nat) : BitVec 32 := (0xF#32) <<< (4 * i)

/-- The set of indexes of a mask of eight. -/
def maskOf8 (p : Nat → Bool) : BitVec 8 :=
  BitVec.ofNat 8 ((List.range 8).foldl (fun n l => if p l then n + 2 ^ l else n) 0)

/-- A sparse table as the list of its first `n` words from key `k`. -/
def stDense {w : Nat} : Store w → Nat → Nat → List (BitVec w)
  | _, _, 0 => []
  | [], _, n + 1 => List.replicate (n + 1) 0
  | (a, x) :: r, k, n + 1 =>
    if a = k then x :: stDense r (k + 1) n
    else if k < a then 0 :: stDense ((a, x) :: r) (k + 1) n
    else stDense r k (n + 1)

/-- A list of words as a sparse table from key `k`. -/
def stSparse {w : Nat} : List (BitVec w) → Nat → Store w
  | [], _ => []
  | x :: r, k => if x = 0 then stSparse r (k + 1) else (k, x) :: stSparse r (k + 1)

end Sys2Proof.Machine
end

