-- ==== Sys2Proof/Machine/Walk.lean ====
section
/-! DEFINITION. Address spaces and translation (R168 to R178): the page-table walk, the TLBs, the crew window, the
non-coherent windows, and the counters of R378 that these feed. -/
namespace Sys2Proof.Machine

/-- Core `c` (R378). -/
def State.core (s : State) (c : Nat) : Core := tabGet s.cores Core.reset c
/-- Context `c` (R352). -/
def State.ctx (s : State) (c : Nat) : Context := tabGet s.ctxs Context.reset c
/-- Partition `p`, numbered core x 8 + partition. -/
def State.part (s : State) (p : Nat) : Part := tabGet s.parts Part.reset p
/-- The counters of L2 slice `i`. -/
def State.slice (s : State) (i : Nat) : SliceCtr := tabGet s.slices SliceCtr.reset i

/-- One core replaced. -/
def State.setCore (s : State) (c : Nat) (x : Core) : State := { s with cores := tabSet s.cores c x }
/-- One context replaced. -/
def State.setCtx (s : State) (c : Nat) (x : Context) : State := { s with ctxs := tabSet s.ctxs c x }
/-- One partition replaced. -/
def State.setPart (s : State) (p : Nat) (x : Part) : State := { s with parts := tabSet s.parts p x }
/-- One gang changed. -/
def State.updGang (s : State) (g : Nat) (f : Gang → Gang) : State := { s with gangs := updAt s.gangs g f }
/-- One group changed. -/
def State.updGroup (s : State) (i : Nat) (f : Group → Group) : State := { s with groups := updAt s.groups i f }
/-- One crew changed. -/
def State.updCrew (s : State) (i : Nat) (f : Crew → Crew) : State := { s with crews := updAt s.crews i f }
/-- One node changed. -/
def State.updNode (s : State) (i : Nat) (f : Node → Node) : State := { s with nodes := updAt s.nodes i f }
/-- One context changed. -/
def State.updCtx (s : State) (c : Nat) (f : Context → Context) : State := s.setCtx c (f (s.ctx c))
/-- One partition changed. -/
def State.updPart (s : State) (p : Nat) (f : Part → Part) : State := s.setPart p (f (s.part p))

/-- A free Boolean, and the counter moved on (notes/assumptions 4). -/
def State.drawBool (s : State) : Bool × State := (Config.freeBool s.free, { s with free := s.free + 1 })
/-- A free number. -/
def State.drawNat (s : State) : Nat × State := (Config.freeNat s.free, { s with free := s.free + 1 })
/-- A free byte. -/
def State.drawByte (s : State) : Byte × State := (Config.freeByte s.free, { s with free := s.free + 1 })
/-- `n` free bytes. -/
def State.drawBytes : Nat → State → List Byte × State
  | 0, s => ([], s)
  | n + 1, s =>
    let (b, s) := s.drawByte
    let (bs, s) := State.drawBytes n s
    (b :: bs, s)

/-- The counter pairs of a core after `n` events of source `src` at partition `p` for context `ctx` (R378). -/
def Core.count (c : Core) (p ctx src n : Nat) : Core :=
  { c with evcnt := (List.range 16).foldl (fun t k =>
      let sel := (stGet c.evsel k).toNat
      if bitsOf sel 7 0 = src && (bitOf sel 11 || bitsOf sel 10 8 = p) && tabGet c.evctx 64 k = ctx
      then stSet t k (stGet t k + BitVec.ofNat 64 n) else t) c.evcnt }

/-- `n` events of source `src` at partition `p` (numbered over the device) for context `ctx` (R378). -/
def State.count (s : State) (p ctx src n : Nat) : State :=
  if (s.core (p / 8)).evsel = [] then s else s.setCore (p / 8) ((s.core (p / 8)).count (p % 8) ctx src n)

/-- `n` events of source `src` at L2 slice `i` (R378). -/
def State.countSlice (s : State) (i src n : Nat) : State :=
  let c := s.slice i
  if c.sel = [] then s
  else { s with slices := tabSet s.slices i { c with cnt := (List.range 8).foldl (fun t k =>
              if bitsOf (stGet c.sel k).toNat 7 0 = src then stSet t k (stGet t k + BitVec.ofNat 64 n) else t) c.cnt } }

/-- A read, a write or an invalidation at an L2 slice, which the caches above it may absorb: a free Boolean decides. -/
def State.countSliceFree (s : State) (i src : Nat) : State :=
  if (s.slice i).sel.any fun e => bitsOf e.2.toNat 7 0 = src then
    let (b, s) := s.drawBool
    if b then s.countSlice i src 1 else s
  else s

/-- The tier of a physical range (R169); none where nothing is populated. -/
def paTier (a : Nat) : Option Nat :=
  if a < 0x400000000 then some 0
  else if 0x10000000000 ≤ a && a < 0x20000000000 then some 1
  else if 0x20000000000 ≤ a && a < 0x30000000000 then some 2
  else if 0x100000000000 ≤ a && a < 0x1C0000000000 then some 2
  else none

/-- The home slice of a physical address for a core of die `die` (R181); a scratchpad has none and counts at slice 0 of
its own die. -/
def homeSlice (a die : Nat) : Nat :=
  let k := (a / 1024) % 64
  match paTier a with
  | some 0 => 64 * (a / 0x200000000) + k
  | some 1 => 64 * (((a - 0x10000000000) / 2048 % 128) / 64) + k
  | _ => 64 * die + k

/-- Whether a die's L2 slices are ready (R375): its first cluster is. -/
def State.dieReady (s : State) (die : Nat) : Bool := s.clusters.any fun c => c / 12 = die

/-- Whether the stack or channel of a physical address, and the slices of its home die, are ready (R375); host and peer
memory and scratchpads have no flag. -/
def State.unitReady (s : State) (pa : Nat) : Bool :=
  match paTier pa with
  | some 0 => s.stacksUp.contains (pa / 0x200000000) && s.dieReady (pa / 0x200000000)
  | some 1 => s.channels.contains ((pa - 0x10000000000) / 2048 % 128) && s.dieReady (homeSlice pa 0 / 64)
  | _ => true

/-- Whether the memory of `n` bytes is ready (R375): channels change every 2 KiB and come again after 128, so that the first and the
last 128 of these units stand for all. -/
def State.memReady (s : State) (pa n : Nat) : Bool :=
  let units := (pa + n - 1) / 2048 - pa / 2048 + 1
  let at_ (k : Nat) : Bool := s.unitReady (max pa ((pa / 2048 + k) * 2048))
  (List.range (min units 128)).all fun k => at_ k && at_ (units - 1 - k)

/-- Whether an access to `n` bytes waits at its home slice: a bank command holds a word of it (R347), or its stack or channel
is not ready (R375). -/
def State.held (s : State) (pa n : Nat) : Bool :=
  (s.cmds.any fun c => c.held && c.range.any fun r => r.1 < pa + n && pa < r.2) || !s.memReady pa n

/-- The result of a walk (R173): an entry with VALID = 0 at a level, a malformed entry, or a leaf. -/
inductive Walk where
  | invalid (level pte : Nat)
  | malformed (pte : Nat)
  | leaf (l : Leaf)
  deriving DecidableEq, Repr

/-- The index shift, the entry count and the page size of a level (R171); 0 where the level holds no leaf. -/
def walkLevel : Nat → Nat × Nat × Nat
  | 4 => (48, 512, 0)
  | 3 => (39, 512, 0)
  | 2 => (30, 512, 2 ^ 30)
  | 1 => (21, 512, 2 ^ 21)
  | _ => (16, 32, 2 ^ 16)

/-- Whether the leaf entry `w0`, `w1` of page size `size` is malformed (R172, R173): a reserved bit, a misaligned FRAME
or HFRAME, a TIER that disagrees with the range of FRAME. -/
def leafMalformed (w0 w1 size : Nat) : Bool :=
  let frame := bitsOf w0 51 16 * 2 ^ 16
  let tier := bitsOf w0 11 10
  bitsOf w0 63 52 != 0 || bitsOf w0 6 4 != 0 || bitOf w0 1 || bitsOf w1 63 52 != 0 || bitsOf w1 8 0 != 0
  || frame % size != 0 || (bitOf w0 7 && (bitsOf w1 51 9 * 512) % (size / 8) != 0)
  || tier == 3 || (match paTier frame with | some t => t != tier | none => false)

/-- The leaf that a well-formed entry describes (R172). -/
def leafOf (pte w0 w1 size : Nat) : Leaf :=
  { pte, size, frame := bitsOf w0 51 16 * 2 ^ 16, hframe := bitsOf w1 51 9 * 512, hint := bitsOf w0 13 12,
    tier := bitsOf w0 11 10, mapped := bitOf w0 7, exec := bitOf w0 3, write := bitOf w0 2, crew := false,
    disc := none }

/-- The walk from a table of a level down (R171 to R173). The table of R186 names no walk: one that reads a poisoned entry takes the stored
bytes (DESIGN CHOICE: notes/assumptions 64). -/
def walkFrom (m : Memory) (va : Nat) : Nat → Nat → Walk
  | level, table =>
    let (sh, n, size) := walkLevel level
    let pte := table + 16 * ((va / 2 ^ sh) % n)
    let w0 := memNat m pte 8
    let w1 := memNat m (pte + 8) 8
    if !bitOf w0 0 then .invalid level pte
    else if bitsOf w0 15 14 = 3 then
      match level with
      | 0 => .malformed pte
      | l + 1 =>
        let next := bitsOf w1 51 9 * 512
        if w0 != 0xC001 || bitsOf w1 63 52 != 0 || bitsOf w1 8 0 != 0 || (l != 0 && next % 8192 != 0) then .malformed pte
        else walkFrom m va l next
    else if size = 0 || level != bitsOf w0 15 14 then .malformed pte
    else if leafMalformed w0 w1 size then .malformed pte
    else .leaf (leafOf pte w0 w1 size)

/-- The walk of a virtual address from a context's root (R171). -/
def walkVa (m : Memory) (root va : Nat) : Walk := walkFrom m va 4 root

/-- The entries that a walk reads, from a table of a level down (R171). -/
def walkPath (m : Memory) (va : Nat) : Nat → Nat → List Nat
  | level, table =>
    let (sh, n, _) := walkLevel level
    let pte := table + 16 * ((va / 2 ^ sh) % n)
    pte :: (if memNat m pte 8 = 0xC001 then
      match level with
      | 0 => []
      | l + 1 => walkPath m va l (bitsOf (memNat m (pte + 8) 8) 51 9 * 512)
    else [])

/-- Whether every entry that a walk reads lies in memory that is ready (R375). -/
def State.walkReady (s : State) (root va : Nat) : Bool := (walkPath s.mem va 4 root).all fun a => s.memReady a 16

/-- A walk from a context's root; one that meets memory that is not ready waits (R375), and what asked for it with it. -/
def State.walk (s : State) (ctx va : Nat) : Walk × State :=
  let root := (s.ctx ctx).root
  (walkVa s.mem root va, if s.walkReady root va then s else { s with blocked := true })

/-- The DISCARD bit of the entry in memory. -/
def memDiscard (m : Memory) (l : Leaf) : Bool := bitOf (memNat m l.pte 8) 8

/-- Whether the leaf's page is discarded now (R185): the bit of the entry in memory, or as an old translation has it (R174). -/
def leafDiscard (m : Memory) (l : Leaf) : Bool := !l.crew && l.disc.getD (memDiscard m l)

/-- Whether a TLB entry is a core's for an address (R174). -/
def TlbEntry.covers (e : TlbEntry) (core ctx va : Nat) : Bool :=
  e.core = core && e.ctx = ctx && e.page ≤ va && va < e.page + e.leaf.size

/-- The TLB entry of a core for an address (R174). -/
def tlbFind (t : List TlbEntry) (core ctx va : Nat) : Option TlbEntry := t.find? fun e => e.covers core ctx va

/-- The leaf through which an entry of the TLB translates: DISCARD from memory while the entry in memory is unchanged, else as
the TLB read it (R174). -/
def TlbEntry.seen (m : Memory) (fresh : Walk) (e : TlbEntry) : Leaf :=
  let l : Leaf := { e.leaf with disc := none }
  if fresh = .leaf l && e.leaf.disc = some (memDiscard m l) then l else e.leaf

/-- A core's translation of a paged address (R174): from a walk where its TLB holds nothing, else, independently for each access,
from any entry that the TLB holds or from a walk, where these differ. A walk counts as a miss (R378), waits for the memory of its entries
(R375), and leaves the leaf that it finds in the TLB beside what is there until a PGINV. -/
def State.translate (s : State) (p ctx va : Nat) : Walk × State :=
  let (fresh, w) := s.walk ctx va
  let fill (s : State) : State :=
    match fresh with
    | .leaf l => { s with tlb := s.tlb ++ [⟨p / 8, ctx, va / l.size * l.size, { l with disc := some (memDiscard s.mem l) }⟩] }
    | _ => s
  match s.tlb.filter fun e => e.covers (p / 8) ctx va with
  | [] => (fresh, fill (w.count p ctx 0x22 1))
  | es =>
    let olds := (es.map fun e => Walk.leaf (e.seen s.mem fresh)).filter (· != fresh)
    if olds.isEmpty then (fresh, s)
    else
      let (n, s) := s.drawNat
      match olds[n % (olds.length + 1)]? with
      | some l => (l, s)
      | none => (fresh, if olds.length < es.length then s else fill (({ s with blocked := w.blocked } : State).count p ctx 0x22 1))

/-- A leaf that an access took earlier, as it stands when the access acts: a DISCARD of 1 that no TLB holds for its entry any longer has
been cleared by a write since, for every TLB (R185), and the entry in memory counts (R174). -/
def State.nowLeaf (s : State) (l : Leaf) : Leaf :=
  if l.disc = some true && !(s.tlb.any fun e => e.leaf.pte = l.pte && e.leaf.disc = some true) then { l with disc := none } else l

/-- A leaf as an operation or a translation register keeps it (R174, R175): its DISCARD with the other attributes. -/
def Leaf.recorded (m : Memory) (l : Leaf) : Leaf := if l.crew then l else { l with disc := some (leafDiscard m l) }

/-- The first address of the crew window (R168). -/
def crewBase : Nat := 0x01FF000000000000

/-- Whether an address lies in the crew window (R168). -/
def inCrew (va : Nat) : Bool := crewBase ≤ va && va < crewBase + 0x1000000

/-- The member group that a crew-window address reaches, with the offset (R165, R168); none where it raises PROT. -/
def State.crewMember (s : State) (grp va : Nat) : Option (Nat × Nat) :=
  let rank := (va - crewBase) / 2 ^ 21
  let off := (va - crewBase) % 2 ^ 21
  match s.groups[grp]? with
  | none => none
  | some g =>
    match s.crews[g.crew]? with
    | none => none
    | some c =>
      match c.members[rank]? with
      | none => none
      | some m => if off < g.scratch then some (m, off) else none

/-- The leaf that stands for a member's scratchpad (R164, R175). -/
def crewLeaf (member : Nat) : Leaf :=
  ⟨0, 2 ^ 21, Config.scratchBase member, 0, 0, 0, false, false, true, true, none⟩

/-- Check 1 of R225: bits 63:57, the reserved range, the crew-window limit. -/
def State.check1 (s : State) (grp va : Nat) : Bool :=
  if inCrew va then (s.crewMember grp va).isSome else va < crewBase

/-- Whether a non-coherent window covers an address (R178). -/
def Context.inWindow (c : Context) (va : Nat) : Bool :=
  !inCrew va && (List.range 16).any fun n =>
    let b := (stGet c.ncwin (2 * n)).toNat
    let l := (stGet c.ncwin (2 * n + 1)).toNat
    bitOf b 0 && bitsOf b 56 16 * 2 ^ 16 ≤ va && va < bitsOf l 56 16 * 2 ^ 16

/-- Check 4 of R225 on a leaf: permission, window rule, tier and an unpopulated range (R169, R173, R178); `coherent`
where the instruction refuses windows and TIER 2. -/
def Context.permit (c : Context) (l : Leaf) (va pa : Nat) (write exec coherent : Bool) : Except XFail Xlat :=
  let win := c.inWindow va
  if (write && !l.write) || (exec && !l.exec) || (!l.crew && (paTier pa).isNone) || (l.tier = 2 && !win)
     || (coherent && (win || l.tier = 2))
  then .error ⟨.prot, false, none, if l.crew || l.size = 0 then none else some (va / l.size * l.size, l.size)⟩
  else .ok ⟨va, pa, l, win⟩

/-- Checks 1, 3 and 4 of R225 for one address: `write` and `exec` are what the access needs, `coherent` that its entry
refuses windows and TIER 2. -/
def State.resolve (s : State) (p ctx grp va : Nat) (write exec coherent : Bool) : Except XFail Xlat × State :=
  if !s.check1 grp va then (.error ⟨.prot, false, none, none⟩, s)
  else if inCrew va then
    match s.crewMember grp va with
    | some (m, off) => ((s.ctx ctx).permit (crewLeaf m) va (Config.scratchBase m + off) write exec coherent, s)
    | none => (.error ⟨.prot, false, none, none⟩, s)
  else
    match s.translate p ctx va with
    | (.invalid _ _, s) => (.error ⟨.pagefault, true, none, none⟩, s)
    | (.malformed pte, s) => (.error ⟨.pagefault, false, some pte, none⟩, s)
    | (.leaf l, s) => ((s.ctx ctx).permit l va (l.frame + va % l.size) write exec coherent, s)

end Sys2Proof.Machine
end

