-- ==== Sys2Proof/Machine/Ops.lean ====
section
/-! DEFINITION. The shared operations over the state: the issuing fragment and its view, register writes, tails (R204 to
R217), irrevocable execution (R212), coherent writes (R182, R213), the error log (R369), the end of a gang (R139),
taking a trap (R155) and the return from it (R157). -/
namespace Sys2Proof.Machine

/-! ### The error log and coherent writes -/

/-- The words (by number) that a list of byte writes touches. -/
def wordsOf (bs : List (Nat × Byte)) : List Nat := bs.foldr (fun e l => insNat l (e.1 / 4)) []

/-- A tail that has read one of the words is marked to shed (R213). -/
def Gang.markConflict (g : Gang) (ws : List Nat) : Gang :=
  match g.tail with
  | some t => if t.reads.any (ws.contains ·) then { g with tail := some { t with conflict := true } } else g
  | none => g

/-- Whether a word is the header's or the payload's of the mapped tile that a cached line belongs to, all of them one unit (R265). -/
def CacheLine.inUnit (c : CacheLine) (w : Nat) : Bool :=
  match c.hdr with | some h => w / 64 = c.line / 2 || (h / 4 ≤ w && w < h / 4 + 8) | none => false

/-- Whether a cached line holds a valid copy of one of some words, or of the tile of one (R265). -/
def CacheLine.hasAny (c : CacheLine) (ws : List Nat) : Bool :=
  ws.any fun w => (w / 32 = c.line && c.valid.getLsbD (w % 32)) || (c.valid != 0 && c.inUnit w)

/-- A cached line without some words; one of a mapped tile loses them all (R265). -/
def CacheLine.without (c : CacheLine) (ws : List Nat) : CacheLine :=
  { c with valid := if c.hdr.isSome then 0
      else ws.foldl (fun m w => if w / 32 = c.line then m &&& ~~~((1 : BitVec 32) <<< (w % 32)) else m) c.valid }

/-- A line of a home slice after a write of some words (R202). -/
def CacheLine.written (c : CacheLine) (ws : List Nat) : CacheLine :=
  { c with mod := ws.foldl (fun m w => if w / 32 = c.line then m ||| ((1 : BitVec 32) <<< (w % 32)) else m) c.mod }

/-- The copies of some words in the L1s of other cores than `own` are invalidated (R182), each counted at its home slice
(R378); a core that loses a tile owns none of its words (R265). -/
def State.invalidate (s : State) (own : Option Nat) (ws : List Nat) : State :=
  let hit (c : CacheLine) : Bool := some c.unit != own && c.hasAny ws
  let tiles := (s.l1.filter hit).filter (·.hdr.isSome)
  (s.l1.filter hit).foldl (fun s c => s.countSlice (homeSlice (128 * c.line) (c.unit / 96)) 0x42 1)
    { s with
      l1 := s.l1.map fun c => if hit c then c.without ws else c
      owner := if tiles.isEmpty then s.owner else s.owner.filter fun e => !tiles.any fun c => c.unit = e.2 && c.inUnit e.1 }

/-- Ownership of some words moves to the core `own` or to the home, and other cores lose their copies (R182); a line that a home
slice holds has them modified. -/
def State.own (s : State) (own : Option Nat) (ws : List Nat) : State :=
  ({ s with
    l2 := s.l2.map fun (c : CacheLine) => c.written ws
    owner := match own with
      | some c => ws.foldl (fun t w => tabSet t w c) s.owner
      | none => s.owner.filter fun e => !ws.contains e.1 }).invalidate own ws

/-- One write event of an agent on coherent memory (R182, R190): the bytes change, a word written whole loses its
poison (R186), ownership moves to the core `own` or to the home, every other tail that read a word is marked to
shed (R213; `who` is the writing gang, none for an engine), and replaced words stay fetchable (R193). -/
def State.writeMem (s : State) (who own : Option Nat) (bs : List (Nat × Byte)) : State :=
  let ws := wordsOf bs
  let mem := stSetAll (w := 8) s.mem bs
  let old := ws.filterMap fun w =>
    if memNat s.mem (4 * w) 4 = memNat mem (4 * w) 4 then none else some (4 * w, BitVec.ofNat 32 (memNat s.mem (4 * w) 4), s.stamp)
  let s := s.own own ws
  { s with
    mem := mem
    stamp := s.stamp + 1
    poison := s.poison.filter fun w => !([0, 1, 2, 3].all fun i => bs.any fun e => e.1 = 4 * w + i)
    codeOld := (s.codeOld ++ old).filter fun e => s.gangs.any fun g => g.stand != .ended && g.irr ≤ e.2.2
    gangs := s.gangs.mapIdx fun i g => if some i = who then g else g.markConflict ws }

/-- A number written in little-endian order as one coherent write event. -/
def State.writeNat (s : State) (who own : Option Nat) (a n x : Nat) : State :=
  s.writeMem who own ((List.range n).zip (leBytes n x) |>.map fun e => (a + e.1, e.2))

/-- The code of a cause (R163). -/
def Cause.code : Cause → Nat
  | .illop => 0x01 | .illpair => 0x02 | .badopnd => 0x03 | .priv => 0x04 | .align => 0x05 | .pagefault => 0x06
  | .prot => 0x07 | .poison => 0x08 | .divovf => 0x09 | .qfullscope => 0x0A | .length => 0x0B | .kvcow => 0x0C
  | .kvpool => 0x0D | .badsparse => 0x0E | .matrst => 0x0F | .bankrange => 0x10 | .user => 0x11

/-- One of the causes of R163, by a free number: the CODE of a record for which the spec names none. -/
def anyCause (n : Nat) : Cause :=
  ([.illop, .illpair, .badopnd, .priv, .align, .pagefault, .prot, .poison, .divovf, .qfullscope, .length, .kvcow, .kvpool,
    .badsparse, .matrst, .bankrange, .user][n % 17]?).getD .poison

/-- Whether an enabled virtual function owns a context (R370): virtual function k owns context k - 1. -/
def State.vfOwns (s : State) (c : Nat) : Bool := c < 32 && s.vfs.getLsbD c

/-- The function and the MSI-X vector of interrupt `k` of a context (R371): 0 completion, 1 fault, 2 error; function 0 is the physical
one, k virtual function k. -/
def State.vector (s : State) (ctx k : Nat) : Nat × Nat := if s.vfOwns ctx then (ctx + 1, k) else (0, 3 * ctx + k)

/-- Interrupt `k` of a context is sent (R371). -/
def State.raise (s : State) (ctx k : Nat) : State := { s with irqs := s.irqs ++ [s.vector ctx k] }

/-- The UNIT field of a log record (R369). -/
def unitCode (type index : Nat) : Nat := type * 2 ^ 28 + index

/-- Records that wait are written in order (R369): each at BASE + 64 + 32 x (HEAD mod capacity), HEAD one more; one whose log's
memory a bank command holds, or is not ready, waits (R347, R375), and those of its context behind it. -/
def State.drainLog (s : State) (kept : List (Nat × List Byte)) : List (Nat × List Byte) → State
  | [] => { s with logq := kept }
  | (c, bs) :: l =>
    let r := (s.ctx c).errlog.toNat
    let base := bitsOf r 51 12 * 4096
    let head := memNat s.mem base 8
    let a := base + 64 + 32 * (head % 2 ^ (6 + bitsOf r 3 1))
    if !bitOf r 0 then s.drainLog kept l
    else if s.held base 8 || s.held a 32 || kept.any (·.1 == c) then s.drainLog (kept ++ [(c, bs)]) l
    else
      let s := s.writeMem none none ((List.range 32).zip bs |>.map fun e => (a + e.1, e.2))
      (s.writeNat none none base 8 ((head + 1) % 2 ^ 64)).drainLog kept l

/-- One record of the error log (R369), with the error interrupt for the kinds 0x01, 0x08 and 0x09. -/
def State.logErr (s : State) (ctx kind : Nat) (c : Cause) (info unit addr node : Nat) : State :=
  let s := if kind = 1 || kind = 8 || kind = 9 then s.raise ctx 2 else s
  if !bitOf (s.ctx ctx).errlog.toNat 0 then s
  else
    let bs := leBytes 1 c.code ++ leBytes 1 kind ++ leBytes 2 info ++ leBytes 4 unit ++ leBytes 8 addr ++ leBytes 8 node
              ++ leBytes 8 s.clock.toNat
    s.drainLog [] (s.logq ++ [(ctx, bs)])

/-- The record address of a group's node. -/
def State.nodeAddr (s : State) (grp : Nat) : Nat :=
  match s.groups[grp]? with
  | some g => match s.nodes[g.node]? with | some n => n.addr | none => 0
  | none => 0

/-! ### The issuing fragment -/

/-- The fragment that issues when the gang is chosen (R24), by its lowest slice. -/
def Gang.chosen (g : Gang) : Option Nat :=
  (g.slices.foldl (fun (best : Option (Nat × Nat)) sl =>
    if !sl.live || sl.stopped then best
    else match best with
      | none => some (sl.pc.toNat, sl.frag)
      | some (p, f) => if sl.pc.toNat < p || (sl.pc.toNat = p && sl.frag < f) then some (sl.pc.toNat, sl.frag) else best)
    none).map (·.2)

/-- The live slices of a fragment, as a mask of eight. -/
def Gang.fragMask (g : Gang) (f : Nat) : BitVec 8 :=
  maskOf8 fun i => match g.slices[i]? with | some sl => sl.live && sl.frag == f | none => false

/-- The lanes of a set of slices. -/
def lanesOf (m : BitVec 8) : BitVec 32 := maskOf fun l => m.getLsbD (l / 4)

/-- The active lanes among some (R27): nesting counter 0, and named by a replay where one is under way (R157). -/
def Gang.active (g : Gang) (lanes : BitVec 32) : BitVec 32 :=
  maskOf fun l => lanes.getLsbD l && stGet g.nest l == 0 &&
    (match g.slices[l / 4]? with
     | some sl => (match sl.replay with | some r => r.getLsbD (l % 4) | none => true)
     | none => false)

/-- What an instruction reads of the agent that issues it: registers, the fragment's lanes and active lanes, the PC,
the register count, MODE, format slots and the special values (R34). On a bank core `frag` is 0 and there are no
specials. -/
structure Issuer where
  bank : Bool
  v : Store 32
  s : Store 64
  sv : Store 32
  ss : Store 64
  super : Bool
  frag : BitVec 8
  lanes : BitVec 32
  active : BitVec 32
  pc : DWord
  regs : Nat
  rm : Nat
  ftz : Bool
  isat : Bool
  slots : List (BitVec 128)
  gang : Nat
  gx : Nat
  gy : Nat
  gz : Nat
  stage : Nat
  crank : Nat
  ngang : Nat
  context : Nat
  clock : DWord
  yard : List YardEntry
  deriving DecidableEq, Repr

/-- The view of a gang's fragment. -/
def Gang.view (G : Gang) (s : State) (gr : Group) (f : Nat) : Issuer :=
  let m := G.fragMask f
  let lanes := lanesOf m
  { bank := false, v := G.v, s := G.s, sv := G.sv, ss := G.ss, super := G.super, frag := m, lanes := lanes,
    active := G.active lanes,
    pc := (match G.slices[f]? with | some sl => sl.pc | none => 0),
    regs := gr.regs, rm := bitsOf gr.mode.toNat 2 0, ftz := gr.mode.getLsbD 3, isat := gr.mode.getLsbD 4,
    slots := gr.slots, gang := G.idx, gx := gr.x, gy := gr.y, gz := gr.z, stage := gr.stage, crank := gr.rank,
    ngang := gr.gangs, context := gr.ctx, clock := s.clock,
    yard := (match s.nodes[gr.node]? with
      | some n => (n.relay.drop (32 * (gr.gangs * gr.x + G.idx))).take 32
      | none => []) }

/-- The view of a bank core's kernel (R330, R336). -/
def Kernel.view (k : Kernel) (clock : DWord) : Issuer :=
  { bank := true, v := k.v, s := k.s, sv := [], ss := [], super := false, frag := 0, lanes := 0xFFFFFFFF,
    active := maskOf fun l => stGet k.nest l == 0,
    pc := k.pc, regs := k.regs, rm := 0, ftz := false, isat := false, slots := [], gang := 0, gx := 0, gy := 0,
    gz := 0, stage := 0, crank := 0, ngang := 0, context := 0, clock := clock, yard := [] }

/-- The work item that runs on a bank core. -/
def State.running (s : State) (b : Nat) : Option Nat :=
  s.items.findIdx? fun it => it.core = b && it.stand == .running

/-- The kernel that runs on a bank core. -/
def State.kernel (s : State) (b : Nat) : Option Kernel :=
  match s.running b with
  | some i => match s.items[i]? with | some it => it.kern | none => none
  | none => none

/-- The gang that issues, its group and its fragment. -/
def State.issuing (s : State) (g : Nat) : Option (Gang × Group × Nat) :=
  match s.gangs[g]? with
  | some G =>
    if G.stand = .resident then
      match s.groups[G.grp]?, G.chosen with
      | some gr, some f => some (G, gr, f)
      | _, _ => none
    else none
  | none => none

/-- The agent that issues (R46; a bank core, R331): a gang by number, or a bank core, with its view. -/
inductive Issue where
  | none
  | gang (g : Nat) (G : Gang) (gr : Group) (iss : Issuer)
  | bank (b : Nat) (k : Kernel) (iss : Issuer)
  deriving DecidableEq, Repr

/-- Who issues now. -/
def State.issue (s : State) : Issue :=
  match s.cur with
  | .none => .none
  | .gang g =>
    match s.issuing g with
    | some (G, gr, f) => .gang g G gr (G.view s gr f)
    | none => .none
  | .bank b =>
    match s.kernel b with
    | some k => .bank b k (k.view s.clock)
    | none => .none

/-! ### Register writes and the undo log -/

/-- What an instruction that touches only registers produces: vector elements (key 32 x register + lane), scalars,
sticky flags (NV DZ OF UF NX in bits 0 to 4). -/
structure Res where
  vw : List (Nat × Word)
  sw : List (Nat × DWord)
  flags : BitVec 5
  deriving DecidableEq, Repr

/-- The result that changes nothing. -/
def Res.none : Res := ⟨[], [], 0⟩

/-- The registers a result writes. -/
def Res.regs (r : Res) : List RegId :=
  ((r.vw.map fun e => RegId.v (e.1 / 32)) ++ (r.sw.map fun e => RegId.s e.1)).eraseDups

/-- One vector element written, in the bank the mode selects (R155, R156). -/
def Gang.putV (g : Gang) (e : Nat × Word) : Gang :=
  if g.super && 624 * 32 ≤ e.1 then { g with sv := stSet g.sv e.1 e.2 } else { g with v := stSet g.v e.1 e.2 }

/-- One scalar register written, in the bank the mode selects. -/
def Gang.putS (g : Gang) (e : Nat × DWord) : Gang :=
  if g.super && 56 ≤ e.1 then { g with ss := stSet g.ss e.1 e.2 } else { g with s := stSet g.s e.1 e.2 }

/-- One vector element read. -/
def Gang.getV (g : Gang) (n l : Nat) : Word :=
  if g.super && 624 ≤ n then stGet g.sv (32 * n + l) else stGet g.v (32 * n + l)

/-- One scalar register read. -/
def Gang.getS (g : Gang) (n : Nat) : DWord := if g.super && 56 ≤ n then stGet g.ss n else stGet g.s n

/-- The value that an undo entry keeps (R206). -/
def Gang.oldOf (g : Gang) : RegId → List DWord
  | .v n => (List.range 32).map fun l => (g.getV n l).setWidth 64
  | .s n => [g.getS n]
  | .xt _ => []

/-- An undo entry taken the first time a tail writes a register (R206). -/
def Gang.logReg (g : Gang) (r : RegId) : Gang :=
  match g.tail with
  | some t => if t.log.any (·.reg == r) then g else { g with tail := some { t with log := t.log ++ [⟨r, g.oldOf r⟩] } }
  | none => g

/-- A result written into the gang's registers and flags, logged in an open tail (R87, R206). -/
def Gang.commitRes (g : Gang) (r : Res) : Gang :=
  let g := r.regs.foldl Gang.logReg g
  let g := r.sw.foldl Gang.putS (r.vw.foldl Gang.putV g)
  { g with flags := g.flags ||| r.flags }

/-- The slices of a fragment go on at PC + 8 (R67); a replay is over. -/
def Gang.advance (g : Gang) (m : BitVec 8) : Gang :=
  { g with slices := g.slices.mapIdx fun i sl => if m.getLsbD i then { sl with pc := sl.pc + 8, replay := none } else sl }

/-- The slices of a fragment go to an address (R133). -/
def Gang.jump (g : Gang) (m : BitVec 8) (a : DWord) : Gang :=
  { g with slices := g.slices.mapIdx fun i sl => if m.getLsbD i then { sl with pc := a, replay := none } else sl }

/-- Whether a register waits for a load (R226). -/
def Gang.pending (g : Gang) (r : RegId) : Bool :=
  g.pend.any fun p => match r with
    | .v n => p.vw.any fun e => e.1 / 32 == n
    | .s n => p.sw.any fun e => e.1 == n
    | .xt _ => false

/-! ### Tails -/

/-- The fixed part of a checkpoint (R205). -/
def Gang.ckpt (g : Gang) : Ckpt := ⟨g.slices, g.nest, g.flags⟩

/-- The tail that opens at the next instruction (R204). -/
def Gang.openTail (g : Gang) (pc : DWord) : Gang :=
  if g.crawl || g.tail.isSome then g
  else { g with tail := some ⟨g.ckpt, pc, [], [], [], [], [], 0, false, false, none, []⟩ }

/-- The gang cannot issue for the rest of this clk (R46). -/
def State.stall (s : State) (g : Nat) : State := s.updGang g fun G => { G with stalled := true }

/-- The gang's tail closes by a condition of R209, counted under a source of R378. -/
def State.closeTail (s : State) (g src : Nat) : State :=
  match s.gangs[g]? with
  | some G =>
    match G.tail, s.groups[G.grp]? with
    | some t, some gr =>
      if t.closed then s
      else (s.updGang g fun G => { G with tail := some { t with closed := true } }).count G.part gr.ctx src 1
    | _, _ => s
  | none => s

/-- The gangs that share a partition with gang `g` and are resident. -/
def State.mates (s : State) (g : Nat) : List Gang :=
  match s.gangs[g]? with
  | some G => (s.gangs.zipIdx.filter fun e => e.2 != g && e.1.stand == .resident && e.1.part == G.part).map (·.1)
  | none => []

/-- Whether `mine` entries held and `need` more fit a pool of `cap` shared by a partition's gangs, each of which always
has one (R206, R207). -/
def poolFits (cap mine need : Nat) (others : List Nat) : Bool :=
  need = 0 || (mine = 0 && need = 1)
  || mine + need + others.foldl (fun n k => n + max k 1) 0 ≤ cap

/-- The undo entries of a gang. -/
def Gang.undoUsed (g : Gang) : Nat := match g.tail with | some t => t.log.length | none => 0
/-- The 128-byte lines that stores in a store buffer occupy, each once (R207). -/
def bufLines (ls : List SbStore) : List Nat := ls.foldl (fun l e => e.bytes.foldl (fun l b => insNat l (b.1 / 128)) l) []
/-- The store-buffer lines of a gang. -/
def Gang.linesUsed (g : Gang) : Nat := match g.tail with | some t => (bufLines t.sbuf).length | none => 0
/-- The lines of a read set (R208). -/
def readLines (ws : List Nat) : List Nat := ws.foldl (fun l w => insNat l (w / 32)) []
/-- The read-set lines of a gang. -/
def Gang.readsUsed (g : Gang) : Nat := match g.tail with | some t => (readLines t.reads).length | none => 0

/-- What an instruction needs of the tail: registers to log, store-buffer lines, words to enter in the read set. -/
structure Need where
  regs : List RegId
  lines : List Nat
  reads : List Nat
  deriving DecidableEq, Repr

/-- Whether an instruction can issue in the tail (R209): yes, not now, or only after the tail closes by a source. -/
inductive Room where
  | ok | busy | close (src : Nat)
  deriving DecidableEq, Repr

/-- Whether a line that a core's L1 does not hold would need a set that holds only pinned lines (R209): lines of memory that tails
on the core have read. -/
def State.setPinned (s : State) (core line : Nat) : Bool :=
  let pins := (s.gangs.flatMap fun g => if g.part / 8 = core then (match g.tail with | some t => readLines t.reads | none => []) else []).filter
    fun k => k < 2 ^ 45 && Config.l1Set k == Config.l1Set line
  !pins.isEmpty && Config.l1Ways ≤ pins.eraseDups.length && !(s.l1.any fun c => c.unit = core && c.line = line)

/-- The close conditions of R209 for the next instruction of gang `g`. -/
def State.room (s : State) (g : Nat) (G : Gang) (n : Need) : Room :=
  if G.crawl then (if 256 ≤ G.crawlCnt then .busy else .ok)
  else
    let t := G.tail
    let stuck : Bool := match t with | some t => t.closed || t.conflict || 256 ≤ t.count | none => false
    let log : List RegId := match t with | some t => t.log.map UndoEntry.reg | none => []
    let lines : List Nat := match t with | some t => bufLines t.sbuf | none => []
    let reads : List Nat := match t with | some t => readLines t.reads | none => []
    let newRegs := (n.regs.filter fun r => !log.contains r).length
    let newLines := (n.lines.filter fun l => !lines.contains l).length
    let newReads := (readLines n.reads).filter fun l => !reads.contains l
    let m := s.mates g
    let full (src : Nat) : Room := if t.isSome then .close src else .busy
    if stuck then .busy
    else if !poolFits 128 G.undoUsed newRegs (m.map Gang.undoUsed) then full 0x14
    else if !poolFits 64 G.linesUsed newLines (m.map Gang.linesUsed) then full 0x15
    else if !newReads.isEmpty && 128 < reads.length + newReads.length + (m.map Gang.readsUsed).sum then full 0x16
    else if newReads.any fun l => l < 2 ^ 45 && s.setPinned (G.part / 8) l then full 0x16
    else .ok

/-- The accounts of one issue (R46, R47, R378): the partition's slot and run count, the gang's place in the order of
issue, the counters, the instructions of the tail or of the crawl. A word of which only some lanes act counts with the last. A slot in which
no gang issues neither adds to the holder's run nor breaks it: R47 restarts the count only when another gang issues (DESIGN CHOICE:
notes/assumptions 64). -/
def State.account (s : State) (g : Nat) (pair : Bool) : State :=
  match s.gangs[g]? with
  | none => s
  | some G =>
    if G.midway.isSome then s.updPart G.part fun P => { P with issued := true } else
    let ctx := match s.groups[G.grp]? with | some gr => gr.ctx | none => 0
    let s := s.count G.part ctx 0x02 1
    let s := if pair then s.count G.part ctx 0x03 1 else s
    let s := if G.crawl then s.count G.part ctx 0x12 1 else s
    let s := s.updPart G.part fun P =>
      { P with issued := true, yield := P.yield && P.token == some g, run := if P.token == some g then P.run + 1 else 0 }
    let s := s.updGang g fun G =>
      { G with
        lastIssue := s.stamp + 1
        crawlCnt := if G.crawl then G.crawlCnt + 1 else G.crawlCnt
        tail := match G.tail with | some t => some { t with count := t.count + 1 } | none => none }
    { s with stamp := s.stamp + 1 }

/-- An instruction that is not irrevocable issues: in the open tail, in a tail that opens at it (R204), or directly in
crawl mode (R215); it waits where R209 holds it back. -/
def State.speculate (s : State) (g : Nat) (G : Gang) (pc : DWord) (pair : Bool) (n : Need) (f : State → State) : State :=
  match s.room g G n with
  | .busy => s.stall g
  | .close src => (s.closeTail g src).stall g
  | .ok => (f (s.updGang g fun G => G.openTail pc)).account g pair

/-- The crawl ends (R215). -/
def Gang.endCrawl (g : Gang) : Gang := if g.crawl then { g with crawl := false, crawlCnt := 0, sheds := 0 } else g

/-- An irrevocable operation (R212): it waits for the tail to commit, then its body runs; a body that is not ready
answers none, and the gang waits. A word that R68 refuses counts as an instruction issued like any other that ends in a trap:
R69 says that it changes no counter, R378 counts what issues (DESIGN CHOICE: notes/assumptions 51). -/
def State.irrevocable (s : State) (g : Nat) (G : Gang) (f : State → Option State) : State :=
  match G.tail with
  | some t => if t.closed then s.stall g else (s.closeTail g 0x17).stall g
  | none =>
    if !G.pend.isEmpty || (G.crawl && 256 ≤ G.crawlCnt) then s.stall g
    else
      match f s with
      | none => s.stall g
      | some s => (s.account g false).updGang g fun G => { G.endCrawl with irr := s.stamp + 1 }

/-- The undo log applied in reverse order (R214). -/
def Gang.undo (g : Gang) (log : List UndoEntry) : Gang :=
  log.reverse.foldl (fun g e => match e.reg with
    | .v n => (List.range 32).zip e.old |>.foldl (fun g x => g.putV (32 * n + x.1, x.2.setWidth 32)) g
    | .s n => e.old.foldl (fun g x => g.putS (n, x)) g
    | .xt _ => g) g

/-- A shed (R214) of the gang's tail; the caller says what becomes of the consecutive-shed count. -/
def Gang.shedTail (g : Gang) (preempt : Bool) : Gang :=
  match g.tail with
  | none => g
  | some t =>
    let n := if preempt then 0 else if g.sheds != 0 && g.shedPc == t.ckptPc then g.sheds + 1 else 1
    { g.undo t.log with
      slices := t.ckpt.slices, nest := t.ckpt.nest, flags := t.ckpt.flags, tail := none, pend := [],
      sheds := n, shedPc := t.ckptPc, crawl := 3 ≤ n, crawlCnt := 0 }

/-- A gang's tail sheds, and the counters of sheds and of entries into crawl step (R214, R215, R378). -/
def State.shed (s : State) (g : Nat) (preempt : Bool) : State :=
  match s.gangs[g]? with
  | none => s
  | some G =>
    if G.tail.isNone then s
    else
      let G' := G.shedTail preempt
      let ctx := match s.groups[G.grp]? with | some gr => gr.ctx | none => 0
      let s := (s.updGang g fun _ => G').count G.part ctx 0x10 1
      if G'.crawl then s.count G.part ctx 0x11 1 else s

/-! ### Where gangs wait on page faults -/

/-- The cluster of a core (R1). -/
def clusterOf (core : Nat) : Nat := core / Config.clusterCores

/-- The core a gang runs on. -/
def Gang.core (g : Gang) : Nat := g.part / Config.partitions

/-- The context of a group. -/
def State.ctxOf (s : State) (grp : Nat) : Nat := match s.groups[grp]? with | some gr => gr.ctx | none => 0

/-- A gang that waits on an unresolved unit stands in its core's filter, as far as the filter has room (R362). -/
def State.fillFilter (s : State) (g core ctx unit acc : Nat) : State :=
  let same (f : FilterEntry) : Bool := f.core = core && f.ctx = ctx && f.unit = unit
  if s.filters.any same then
    { s with filters := s.filters.map fun f =>
        if same f then { f with acc := f.acc ||| acc, waiters := insNat f.waiters g } else f }
  else if (s.filters.filter fun f => f.core = core).length < 64 then
    { s with filters := s.filters ++ [⟨core, ctx, unit, acc, [g]⟩] }
  else s

/-- The lowest free entry of a cluster's stage. -/
def State.freeStage (s : State) (cl : Nat) : Option Nat :=
  (List.range 256).find? fun i => !(s.stages.any fun e => e.cluster = cl && e.slot = i)

/-- An entry of a filter stands in its cluster's stage, as far as the stage has room (R362); `ws` are the gangs and
`ds` the deferred elements that wait. -/
def State.fillStage (s : State) (cl ctx unit acc : Nat) (ws ds : List Nat) : State :=
  let same (e : StageEntry) : Bool := e.cluster = cl && e.ctx = ctx && e.unit = unit
  if s.stages.any same then
    { s with stages := s.stages.map fun e =>
        if same e then { e with acc := e.acc ||| acc, waiters := ws.foldl insNat e.waiters, defers := ds.foldl insNat e.defers }
        else e }
  else match s.freeStage cl with
    | some i => { s with stages := s.stages ++ [⟨cl, i, ctx, unit, acc, ws, ds, false, false⟩] }
    | none => s

/-- Waiting gangs move up as far as filters and stages have room (R362). -/
def State.gather (s : State) : State :=
  let s := (List.range s.gangs.length).foldl (fun s g =>
    match s.gangs[g]? with
    | some G =>
      match G.fwait with
      | some w => w.units.foldl (fun s u =>
          if u.2.2 = 0 then s.fillFilter g G.core (s.ctxOf G.grp) u.1 w.trap.acc else s) s
      | none => s
    | none => s) s
  s.filters.foldl (fun s f => s.fillStage (clusterOf f.core) f.ctx f.unit f.acc f.waiters []) s

/-! ### Barriers and the end of a gang -/

/-- The numbers of a group's gangs. -/
def Group.members (gr : Group) : List Nat := (List.range gr.gangs).map (gr.first + ·)

/-- Whether a gang has ended. -/
def State.gangEnded (s : State) (g : Nat) : Bool := match s.gangs[g]? with | some G => G.stand == .ended | none => true

/-- A barrier whose phase every participant has reached or left by ending moves to its next phase (R144). -/
def State.settle (s : State) (who : List Nat) (b : Barrier) : Barrier :=
  if !b.arrived.isEmpty && who.all fun g => b.arrived.contains g || s.gangEnded g then ⟨b.phase + 1, []⟩ else b

/-- The gangs of every member of a crew. -/
def State.crewGangs (s : State) (c : Crew) : List Nat :=
  c.members.flatMap fun m => match s.groups[m]? with | some gr => gr.members | none => []

/-- The barriers of a group and of its crew settle (R144). -/
def State.settleAll (s : State) (grp : Nat) : State :=
  match s.groups[grp]? with
  | none => s
  | some gr =>
    let s := s.updGroup grp fun gr => { gr with bars := gr.bars.map (s.settle gr.members) }
    s.updCrew gr.crew fun c => { c with bars := c.bars.map (s.settle (s.crewGangs c)) }

/-- The partner of a gang (R37, R44): with PAIRING 1, gang 2i and gang 2i + 1. -/
def State.partner (s : State) (g : Nat) : Option Nat :=
  match s.gangs[g]? with
  | none => none
  | some G =>
    match s.groups[G.grp]? with
    | none => none
    | some gr =>
      match s.nodes[gr.node]? with
      | some n => if n.lr.pairing = 1 then some (gr.first + (if G.idx % 2 = 0 then G.idx + 1 else G.idx - 1)) else none
      | none => none

/-- Whether a gang is resident. -/
def State.resident (s : State) (g : Nat) : Bool :=
  match s.gangs[g]? with | some G => G.stand == .resident | none => false

/-- The token of a partition goes to a gang, or to none: its run count and what its run asked for start anew (R47). -/
def Part.handTo (P : Part) (t : Option Nat) : Part := { P with token := t, run := 0, yield := false }

/-- The token of a gang that leaves passes to its resident partner or becomes unheld (R47). -/
def State.passToken (s : State) (g : Nat) : State :=
  match s.gangs[g]? with
  | none => s
  | some G =>
    if (s.part G.part).token = some g then
      let t := match s.partner g with | some q => if s.resident q then some q else none | none => none
      s.updPart G.part fun P => P.handTo t
    else s

/-- A gang no longer waits anywhere: fault filters, stages, queues (R363, R146). -/
def State.unwait (s : State) (g : Nat) : State :=
  { s with
    filters := (s.filters.map fun f => { f with waiters := f.waiters.filter (· != g) }).filter fun f => !f.waiters.isEmpty
    stages := s.stages.map fun f => { f with waiters := f.waiters.filter (· != g) }
    queues := s.queues.map fun q => { q with blocked := q.blocked.filter (·.1 != g) } }

/-- The accumulators of a partition whose owner has ended and has no operation queued return to the free zero state
(R139, R288). -/
def State.freeAccs (s : State) (p : Nat) : State :=
  let P := s.part p
  let gone (a : Acc) : Bool :=
    match a.owner with | some g => s.gangEnded g && !P.mq.any (·.gang == g) | none => false
  if P.accs.any gone then s.setPart p { P with accs := P.accs.map fun a => if gone a then Acc.zero else a } else s

/-- A gang ends (R139): its tail sheds, which counts (R378), nothing waits for it, its accumulators are free, its token passes, barriers
count it as arrived; a group ends with its last gang (R139), a crew's scratchpads are released with the last gang of
the last member (R165). -/
def State.endGang (s : State) (g : Nat) : State :=
  match s.gangs[g]? with
  | none => s
  | some G =>
    if G.stand = .ended then s
    else
      let s := s.passToken g
      let s := if G.tail.isSome then s.count G.part (match s.groups[G.grp]? with | some gr => gr.ctx | none => 0) 0x10 1 else s
      let s := s.updGang g fun G =>
        { (G.shedTail true) with
          stand := .ended, slices := G.slices.map fun sl => { sl with live := false }
          fwait := none, deferred := [] }
      let s := (s.unwait g).gather.freeAccs G.part
      let s := s.settleAll G.grp
      match s.groups[G.grp]? with
      | none => s
      | some gr =>
        if gr.members.all s.gangEnded then
          let s := s.updGroup G.grp fun gr => { gr with stand := .ended }
          match s.crews[gr.crew]? with
          | some c => if (s.crewGangs c).all s.gangEnded then s.updCrew gr.crew fun c => { c with released := true } else s
          | none => s
        else s

/-- Every gang of a group ends (R158). -/
def State.endGroup (s : State) (grp : Nat) : State :=
  match s.groups[grp]? with
  | none => s
  | some gr => gr.members.foldl State.endGang s

/-- The fragments that wait at a REGANG join when every live slice has stopped (R26). -/
def Gang.rejoin (g : Gang) : Gang :=
  if !(g.slices.any (·.live)) || g.slices.any (fun sl => sl.live && !sl.stopped) then g
  else
    let best := g.slices.foldl (fun (b : Option Slice) sl =>
      if !sl.live then b
      else match b with
        | none => some sl
        | some x => if sl.pc.toNat < x.pc.toNat || (sl.pc == x.pc && sl.frag < x.frag) then some sl else b) none
    match best with
    | none => g
    | some x =>
      let joins (sl : Slice) : Bool := sl.live && sl.regang == x.regang
      let low := (g.slices.findIdx? joins).getD 0
      { g with slices := g.slices.map fun sl =>
          if joins sl then { sl with pc := x.pc + 8, stopped := false, frag := low, replay := none } else sl }

/-- Some slices of a gang stop being live (R139); the last one ends the gang, and another may complete the condition
of a REGANG (R26). -/
def State.exitSlices (s : State) (g : Nat) (m : BitVec 8) : State :=
  let s := s.updGang g fun G =>
    { G with slices := G.slices.mapIdx fun i sl => if m.getLsbD i then { sl with live := false, replay := none } else sl }
  match s.gangs[g]? with
  | some G => if G.slices.any (·.live) then s.updGang g Gang.rejoin else s.endGang g
  | none => s

/-! ### Traps -/

/-- A trap report with nothing but its cause and lanes. -/
def TrapInfo.plain (c : Cause) (lanes : BitVec 32) (frag : BitVec 8) (pc : DWord) : TrapInfo :=
  ⟨c, 0, 0, pc, lanes, 0, frag, false, [], []⟩

/-- The TRAPCAUSE value of a report (R163). -/
def TrapInfo.causeWord (t : TrapInfo) : DWord :=
  BitVec.ofNat 64 (t.info * 2 ^ 16 + (match t.cause with | .pagefault | .prot | .poison => t.acc % 16 * 2 ^ 8 | _ => 0) + t.cause.code)

/-- The TRAPMASK value of a report (R381). -/
def TrapInfo.maskWord (t : TrapInfo) : DWord := t.retry ++ t.lanes

/-- A malformed entry that a walk for a partition's group met is recorded (R173, R240): KIND 0x0A, UNIT the partition. -/
def State.recordWalk (s : State) (p ctx grp pte : Nat) : State :=
  s.logErr ctx 0x0A .pagefault 0 (unitCode 0 p) pte (s.nodeAddr grp)

/-- The same for an access that failed. -/
def State.recordFail (s : State) (p ctx grp : Nat) (f : XFail) : State :=
  match f.badPte with
  | some pte => s.recordWalk p ctx grp pte
  | none => s

/-- What a fetch at TRAPVEC fails with, if it is not an 8-byte aligned address of a valid executable page (R160); a malformed
entry is recorded (R173). -/
def State.vecFault (s : State) (p ctx grp va : Nat) : Option Cause × State :=
  if !s.check1 grp va then (some .prot, s)
  else if va % 8 != 0 then (some .align, s)
  else match s.resolve p ctx grp va false true false with
    | (.ok _, s) => (none, s)
    | (.error f, s) => (some f.cause, s.recordFail p ctx grp f)

/-- A double trap (R158): the open tails of the group are shed, its gangs end, the log records the cause. -/
def State.doubleTrap (s : State) (G : Gang) (gr : Group) (t : TrapInfo) : State :=
  let node := s.nodeAddr G.grp
  (s.endGroup G.grp).logErr gr.ctx 1 t.cause t.info (unitCode 0 G.part) t.addr.toNat node

/-- The divergence state at trap entry (R155, steps 2, 3 and 5). The spec does not say what a SLEEP in progress or a BAR that has
arrived does over a trap: the sleep timers and the BAR are held aside with the fragments, and the handler runs awake
(DESIGN CHOICE: notes/assumptions 50). -/
def Gang.enterTrap (g : Gang) (t : TrapInfo) (vec : DWord) : Gang :=
  let sl := g.slices.map fun x => { x with epc := x.pc }
  let low := (sl.findIdx? (·.live)).getD 0
  { g with
    aside := sl, asideNest := g.nest, asideSleep := g.sleep, faultSlices := t.frag, faultOnce := t.once
    trapcause := t.causeWord, trapaddr := t.addr, trapmask := t.maskWord
    super := true, nest := [], sleep := List.replicate 8 0, asideBar := g.inBar, inBar := none
    slices := sl.map fun x => if x.live then { x with pc := vec, stopped := false, frag := low, replay := none } else x }

/-- Taking a trap (R155) for a gang that has no open tail: PCs to EPCs, divergence state aside, TRAPCAUSE, TRAPADDR
and TRAPMASK written, the supervisor bank switched in, one fragment at TRAPVEC. In supervisor mode, or with a
TRAPVEC that cannot run, it is a double trap (R158, R160), the latter with the cause and address of the fetch that fails
(DEDUCED: notes/assumptions 36). -/
def State.takeTrap (s : State) (g : Nat) (t : TrapInfo) : State :=
  match s.gangs[g]? with
  | none => s
  | some G =>
    match s.groups[G.grp]? with
    | none => s
    | some gr =>
      let vec := (s.ctx gr.ctx).trapvec
      if G.super then s.doubleTrap G gr t
      else
        match s.vecFault G.part gr.ctx G.grp vec.toNat with
        | (none, s) => s.updGang g fun G => G.enterTrap t vec
        | (some c, s) => s.doubleTrap G gr (TrapInfo.plain c t.lanes t.frag vec)

/-- The slices after a return (R157, step 1): each PC its EPC, fragments divided by EPC, never merged; a slice that
exited in the handler stays so. -/
def Gang.restored (g : Gang) : List Slice :=
  g.aside.mapIdx fun i a =>
    match g.slices[i]? with
    | none => a
    | some c =>
      let same (j : Nat) : Bool :=
        match g.aside[j]?, g.slices[j]? with
        | some a', some c' => c'.live && a'.frag == a.frag && c'.epc == c.epc
        | _, _ => false
      { a with pc := c.epc, epc := c.epc, live := c.live, frag := ((List.range 8).find? same).getD a.frag }

/-- The return from a trap (R157): divergence state restored, and the slices of the faulting fragment that still stand
at TRAPADDR replay in the active lanes of TRAPMASK, or go on at TRAPADDR + 8 when no such lane is left. Where the instruction
may act once per issue, any lane of the fragment in TRAPMASK keeps the slices at TRAPADDR: what the word is shows when it issues
again (`State.runWord`). A replay restarts a fragment as one: its slices at one EPC decide together. A slice that has not moved and has
another replay before it keeps its lanes. Where the trap named its fragment's lanes as a whole and not those that failed, lanes that had
completed before it, in a replay that was still pending, do not run again (R157, R381). A BAR that had arrived goes on waiting only where
its word replays. -/
def Gang.returnTrap (g : Gang) : Gang :=
  let sls := g.restored
  let mask : BitVec 32 := g.trapmask.setWidth 32 ||| (g.trapmask >>> 32).setWidth 32
  let at_ (i : Nat) : Bool :=
    g.faultSlices.getLsbD i && (match sls[i]? with | some sl => sl.live && sl.pc == g.trapaddr | none => false)
  let left (l : Nat) : Bool := match (g.aside[l / 4]?).bind (·.replay) with
    | some r => !g.faultOnce || r.getLsbD (l % 4)
    | none => true
  let lanes := maskOf fun l => at_ (l / 4) && left l
  let frag := maskOf fun l => g.faultSlices.getLsbD (l / 4)
  let act := maskOf fun l => lanes.getLsbD l && mask.getLsbD l && stGet g.asideNest l == 0
  let any := if g.faultOnce then maskAny (frag &&& mask) else maskAny act
  { g with
    super := false, nest := g.asideNest, sleep := g.asideSleep, aside := [], asideNest := [], asideSleep := []
    inBar := if any && (List.range 8).any at_ then g.asideBar else none, asideBar := none
    slices := sls.mapIdx fun i sl =>
      if !at_ i then { sl with replay := if ((g.aside[i]?).map (·.pc)) = some sl.pc then sl.replay else none }
      else if !any then { sl with pc := g.trapaddr + 8, replay := none }
      else { sl with replay := some (BitVec.ofNat 4 (bitsOf act.toNat (4 * i + 3) (4 * i))) } }

/-- ERET for a gang (R157); a REGANG condition may hold again after it. -/
def State.returnTrap (s : State) (g : Nat) : State := s.updGang g fun G => G.returnTrap.rejoin

end Sys2Proof.Machine
end

