-- ==== Sys2Proof/Machine/BankOps.lean ====
section
/-! DEFINITION. The end of a bank work item (R326, R331, R349): its addition to the arrival counter, its record when it
failed, and the end of its command. -/
namespace Sys2Proof.Machine

/-- The command a work item belongs to, by its number. -/
def State.cmd (s : State) (id : Nat) : Option BankCmd := s.cmds.find? (·.id == id)

/-- The addition of `n` bytes and an error to an arrival counter (R326), one read-write event; dropped when the
issuing group has ended. -/
def State.addCounter (s : State) (c : BankCmd) (n : Nat) (err : Bool) : State :=
  match s.groups[c.grp]? with
  | some gr =>
    if gr.stand = .ended then s
    else
      let old := memNat s.mem c.counter 8
      let bytes := (old % 2 ^ 63 + n) % 2 ^ 63
      s.writeNat none none c.counter 8 (bytes + if err || bitOf old 63 then 2 ^ 63 else 0)
  | none => s

/-- A command whose items are all done releases its range (R347), leaves the bank level and completes in class bk. -/
def State.settleCmd (s : State) (id : Nat) : State :=
  if (s.items.filter (·.cmd == id)).all (·.stand == .done) then
    { s with
      cmds := s.cmds.filter (·.id != id)
      items := s.items.filter (·.cmd != id)
      ops := s.ops.map fun o => if o.id == id then { o with busy := false } else o }
  else s

/-- Whether a kernel's segment holds a malformed tile, which sets the error of its addition (R257). -/
def BankItem.malformed (it : BankItem) (c : BankCmd) : Bool :=
  it.kern.isSome && c.bad.any fun e => e.2.1 == .prot && it.pieces.any fun p => p.pa < e.1 + 256 && e.1 < p.pa + p.lo

/-- Work item `i` is complete with an addition of `n` bytes (R331). -/
def State.finishItem (s : State) (i n : Nat) (err : Bool) : State :=
  match s.items[i]? with
  | none => s
  | some it =>
    let s := { s with items := updAt s.items i fun it => { it with stand := .done, kern := none } }
    match s.cmd it.cmd with
    | none => s
    | some c => (s.addCounter c n (err || it.malformed c)).settleCmd it.cmd

/-- The record of a bank fault (R349): cause, bank core, the issuing node, the address. -/
def State.logBank (s : State) (c : BankCmd) (core : Nat) (cause : Cause) (addr : Nat) : State :=
  s.logErr c.ctx 5 cause 0 (unitCode 2 core) addr (s.nodeAddr c.grp)

/-- The kernel on a bank core is aborted (R72, R349): it adds 0, sets ERR and leaves a record. -/
def State.abortKernel (s : State) (b : Nat) (cause : Cause) (addr : Nat) : State :=
  match s.running b with
  | none => s
  | some i =>
    match s.items[i]? with
    | none => s
    | some it =>
      match s.cmd it.cmd with
      | none => s
      | some c => (s.logBank c b cause addr).finishItem i 0 true

/-- The kernel on a bank core changes. -/
def State.updKernel (s : State) (b : Nat) (f : Kernel → Kernel) : State :=
  match s.running b with
  | none => s
  | some i => { s with items := updAt s.items i fun it => { it with kern := it.kern.map f } }

end Sys2Proof.Machine
end

