-- ==== Sys2Proof/Machine/Operands.lean ====
section
/-! DEFINITION. Operand forms (R56 to R60): how each position is checked and read, and the issue of an instruction that
touches only registers, on a gang and on a bank core. -/
namespace Sys2Proof.Machine

/-- One use of an operand field: whether it is written, how many consecutive vector and scalar registers it stands for,
and how the first of them must be aligned (R57, R224, R233). -/
structure Use where
  op : Operand
  wr : Bool
  vn : Nat
  va : Nat
  sn : Nat
  sa : Nat
  deriving DecidableEq, Repr

/-- A 32-bit source. -/
def Use.r (o : Operand) : Use := ⟨o, false, 1, 1, 1, 1⟩
/-- A 64-bit source (R60). -/
def Use.q (o : Operand) : Use := ⟨o, false, 2, 2, 1, 1⟩
/-- A 32-bit destination. -/
def Use.w (o : Operand) : Use := ⟨o, true, 1, 1, 1, 1⟩
/-- A 64-bit destination. -/
def Use.wq (o : Operand) : Use := ⟨o, true, 2, 2, 1, 1⟩

/-- Whether a vector register can be named (R36, R156). -/
def Issuer.names (i : Issuer) (n : Nat) : Bool := n < i.regs || (i.super && 624 ≤ n && n < 640)

/-- Check 6 of R68 for one use (R57). -/
def Use.bad (i : Issuer) (u : Use) : Bool :=
  match u.op with
  | .bad _ => true
  | .sp _ => u.wr
  | .v n => n.val % u.va != 0 || !((List.range u.vn).all fun k => i.names (n.val + k))
  | .s n => n.val % u.sa != 0 || 64 < n.val + u.sn

/-- The operand rule of a bank core for one use (R71, R72): v0 to v63 below the kernel's count, s0 to s15. An odd register in a 64-bit
position aborts the kernel like any other bad operand (DESIGN CHOICE: notes/assumptions 62). -/
def Use.badBank (i : Issuer) (u : Use) : Bool :=
  match u.op with
  | .bad _ => true
  | .sp _ => true
  | .v n => n.val % u.va != 0 || 64 < n.val + u.vn || i.regs < n.val + u.vn
  | .s n => 15 < n.val

/-- The registers of the uses. -/
def Use.regs (u : Use) : List RegId :=
  match u.op with
  | .v n => (List.range u.vn).map fun k => .v (n.val + k)
  | .s n => (List.range u.sn).map fun k => .s (n.val + k)
  | _ => []

/-- A special value as a lane reads it (R34). -/
def Issuer.special (i : Issuer) (x : Special) (l : Nat) : DWord :=
  let yard (f : YardEntry → Nat) : DWord := match i.yard[l]? with | some e => BitVec.ofNat 64 (f e) | none => 0
  let n (k : Nat) : DWord := BitVec.ofNat 64 k
  match x with
  | .zero => 0
  | .lane => n l
  | .slice => n (l / 4)
  | .gang => n i.gang
  | .groupX => n (i.gx % 2 ^ 32)
  | .groupY => n i.gy
  | .groupZ => n i.gz
  | .stage => n i.stage
  | .crank => n i.crank
  | .ngang => n i.ngang
  | .clock => (i.clock.setWidth 32).setWidth 64
  | .context => n i.context
  | .yardkey => yard fun e => e.key.toNat
  | .yardp0 => yard fun e => ((e.words[0]?).getD 0).toNat
  | .yardp1 => yard fun e => ((e.words[1]?).getD 0).toNat
  | .yardp2 => yard fun e => ((e.words[2]?).getD 0).toNat
  | .yardp3 => yard fun e => ((e.words[3]?).getD 0).toNat

/-- A special value on the scalar pipe (R34, last column). -/
def Issuer.specialS (i : Issuer) (x : Special) : DWord :=
  match x with
  | .lane | .slice => 0
  | .clock => i.clock
  | _ => i.special x 0

/-- A vector element, in the bank the mode selects. -/
def Issuer.getV (i : Issuer) (n l : Nat) : Word :=
  if i.super && 624 ≤ n then stGet i.sv (32 * n + l) else stGet i.v (32 * n + l)

/-- A scalar register, in the bank the mode selects. -/
def Issuer.getS (i : Issuer) (n : Nat) : DWord := if i.super && 56 ≤ n then stGet i.ss n else stGet i.s n

/-- An operand in a 32-bit position of lane `l` (R60). -/
def Issuer.rd (i : Issuer) (o : Operand) (l : Nat) : Word :=
  match o with
  | .v n => i.getV n.val l
  | .s n => (i.getS n.val).setWidth 32
  | .sp x => (i.special x l).setWidth 32
  | .bad _ => 0

/-- An operand in a 64-bit position of lane `l` (R60). -/
def Issuer.rdq (i : Issuer) (o : Operand) (l : Nat) : DWord :=
  match o with
  | .v n => i.getV (n.val + 1) l ++ i.getV n.val l
  | .s n => i.getS n.val
  | .sp x => i.special x l
  | .bad _ => 0

/-- An operand on the scalar pipe (R59, R60). -/
def Issuer.rds (i : Issuer) (o : Operand) : DWord :=
  match o with
  | .v n => (i.getV n.val 0).setWidth 64
  | .s n => i.getS n.val
  | .sp x => i.specialS x
  | .bad _ => 0

/-- The lanes in which a vector instruction acts, rising (R60). -/
def Issuer.acts (i : Issuer) : List Nat := maskLanes i.active

/-- A result in one vector register: one value per active lane. -/
def Issuer.vec (i : Issuer) (n : Nat) (f : Nat → Word) : List (Nat × Word) := i.acts.map fun l => (32 * n + l, f l)

/-- A 64-bit result in a register pair, the low word in the even register (R60). -/
def Issuer.vecq (i : Issuer) (n : Nat) (f : Nat → DWord) : List (Nat × Word) :=
  i.acts.flatMap fun l => [(32 * n + l, (f l).setWidth 32), (32 * (n + 1) + l, ((f l) >>> 32).setWidth 32)]

/-- The result of a 32-bit operation whose value on the scalar pipe is 64 bits (R59): lane values by `f`, the scalar
value by `g`. -/
def Issuer.put (i : Issuer) (d : Operand) (f : Nat → Word) (g : Unit → DWord) : Res :=
  match d with
  | .v n => ⟨i.vec n.val f, [], 0⟩
  | .s n => ⟨[], [(n.val, g ())], 0⟩
  | _ => .none

/-- The result of an operation with sticky flags and a 32-bit value: in a scalar zero-extended (R59); the flags of the
active lanes joined (R87). -/
def Issuer.putF (i : Issuer) (d : Operand) (f : Nat → Word × BitVec 5) (g : Unit → Word × BitVec 5) : Res :=
  match d with
  | .v n =>
    let r := i.acts.map fun l => (l, f l)
    ⟨r.map fun (e : Nat × Word × BitVec 5) => (32 * n.val + e.1, e.2.1), [], r.foldl (fun a e => a ||| e.2.2) 0⟩
  | .s n => let (x, fl) := g (); ⟨[], [(n.val, x.setWidth 64)], fl⟩
  | _ => .none

/-- The same with a 64-bit value (R115). -/
def Issuer.putFq (i : Issuer) (d : Operand) (f : Nat → DWord × BitVec 5) (g : Unit → DWord × BitVec 5) : Res :=
  match d with
  | .v n =>
    let r := i.acts.map fun l => (l, f l)
    ⟨r.flatMap fun (e : Nat × DWord × BitVec 5) => [(32 * n.val + e.1, e.2.1.setWidth 32), (32 * (n.val + 1) + e.1, (e.2.1 >>> 32).setWidth 32)], [],
     r.foldl (fun a e => a ||| e.2.2) 0⟩
  | .s n => let (x, fl) := g (); ⟨[], [(n.val, x)], fl⟩
  | _ => .none

/-- A gang takes the trap of a word that fails a check (R69), as an irrevocable operation: TRAPADDR the PC, LANES every
lane of the fragment, RETRY 0; a replay reissues the word. -/
def State.wordTrap (s : State) (g : Nat) (G : Gang) (i : Issuer) (c : Cause) : State :=
  s.irrevocable g G fun s => some (s.takeTrap g { TrapInfo.plain c i.lanes i.frag i.pc with once := true })

/-- A check of a word that the decoder cannot make: its cause. -/
abbrev WordCheck := Issuer → Option Cause

/-- Checks 5 and 6 of R68 for an instruction that is not privileged. -/
def usesCheck (us : List Use) : WordCheck := fun i => if us.any (Use.bad i) then some .badopnd else none

/-- Checks 5 and 6 of R68 for a privileged instruction. -/
def privCheck (us : List Use) : WordCheck := fun i => if !i.super then some .priv else usesCheck us i

/-- The first check that fails (R68). -/
def WordCheck.then_ (a b : WordCheck) : WordCheck := fun i => match a i with | some c => some c | none => b i

/-- Whether a register of the uses waits for a load (R226). -/
def Gang.interlocked (g : Gang) (us : List Use) : Bool := us.any fun u => u.regs.any g.pending

/-- An instruction of a gang, after its word checks: `body` runs when no register of the uses waits for a load. -/
def State.onGang (s : State) (chk : WordCheck) (us : List Use) (body : Nat → Gang → Group → Issuer → State) :
    Host.Outcome State Fault Refusal :=
  match s.issue with
  | .none => .fault .noIssuer
  | .gang g G gr i =>
    .next (match chk i with
      | some c => s.wordTrap g G i c
      | none => if G.interlocked us then s.stall g else body g G gr i)
  | .bank b _ i => .next (s.abortKernel b .illop i.pc.toNat)

/-- A gang commits a result of an instruction that is not irrevocable and goes on at PC + 8. -/
def State.finish (s : State) (g : Nat) (G : Gang) (i : Issuer) (pair : Bool) (r : Res) : State :=
  s.speculate g G i.pc pair ⟨r.regs, [], []⟩ fun s => s.updGang g fun G => (G.commitRes r).advance i.frag

/-- A kernel commits a result and goes on at PC + 8 (R330: no flags are kept). -/
def Kernel.commitRes (k : Kernel) (r : Res) : Kernel :=
  { k with v := stSetAll k.v r.vw, s := stSetAll k.s r.sw, pc := k.pc + 8 }

/-- An instruction that touches only registers, is not irrevocable, and runs on gangs and (where `bank`) on bank cores:
its checks, then its result. -/
def State.plain (s : State) (bank : Bool) (chk : WordCheck) (us : List Use) (f : Issuer → Res) :
    Host.Outcome State Fault Refusal :=
  match s.issue with
  | .none => .fault .noIssuer
  | .gang g G _ i =>
    .next (match (chk.then_ (usesCheck us)) i with
      | some c => s.wordTrap g G i c
      | none => if G.interlocked us then s.stall g else s.finish g G i false (f i))
  | .bank b _ i =>
    .next (if !bank || us.any (Use.badBank i) then s.abortKernel b .illop i.pc.toNat
      else s.updKernel b fun k => k.commitRes (f i))

/-- No check beyond the operands. -/
def noCheck : WordCheck := fun _ => none

end Sys2Proof.Machine
end

