-- ==== Sys2Proof/Machine/Float.lean ====
section
/-! DEFINITION. Floating point (R74 to R93): formats, exact values, one rounding function, the arithmetic operations and
the correctly rounded special functions (R112), all over integers. -/
namespace Sys2Proof.Machine

/-- A binary format (R74 to R80): exponent bits, fraction bits, and whether the highest exponent holds infinities and
NaNs; the 8-bit formats have neither. -/
structure Fmt where
  eb : Nat
  fb : Nat
  ieee : Bool
  deriving DecidableEq, Repr

/-- binary32 (R74). -/
def fp32 : Fmt := ⟨8, 23, true⟩
/-- binary64 (R74). -/
def fp64 : Fmt := ⟨11, 52, true⟩
/-- BF16 (R75). -/
def bf16 : Fmt := ⟨8, 7, true⟩
/-- KF8 (R76). -/
def kf8 : Fmt := ⟨4, 3, false⟩
/-- KF8W (R77). -/
def kf8w : Fmt := ⟨5, 2, false⟩
/-- KA26 (R80). -/
def ka26 : Fmt := ⟨8, 17, true⟩

/-- The exponent bias. -/
def Fmt.bias (f : Fmt) : Nat := 2 ^ (f.eb - 1) - 1
/-- The exponent of the smallest normal magnitude. -/
def Fmt.emin (f : Fmt) : Int := 1 - (f.bias : Int)
/-- The code of +Inf, and one above the largest code of a format without infinities. -/
def Fmt.inf (f : Fmt) : Nat := if f.ieee then (2 ^ f.eb - 1) * 2 ^ f.fb else 2 ^ (f.eb + f.fb)
/-- The sign bit of a code. -/
def Fmt.sign (f : Fmt) (neg : Bool) : Nat := if neg then 2 ^ (f.eb + f.fb) else 0
/-- The canonical NaN (R74, R75, R80). -/
def Fmt.nan (f : Fmt) : Nat := f.inf + 2 ^ (f.fb - 1)

/-- The sticky flag NV (bit 8 of MODE, R84). -/
def fNV : BitVec 5 := 1
/-- The sticky flag DZ. -/
def fDZ : BitVec 5 := 2
/-- The sticky flag OF. -/
def fOF : BitVec 5 := 4
/-- The sticky flag UF. -/
def fUF : BitVec 5 := 8
/-- The sticky flag NX. -/
def fNX : BitVec 5 := 16

/-- A value read from a format: NaN (signalling or not), an infinity, or the exact value m x 2^e with a sign. -/
inductive FVal where
  | nan (sig : Bool)
  | inf (neg : Bool)
  | fin (neg : Bool) (m : Nat) (e : Int)
  deriving DecidableEq, Repr

/-- The value of a code. -/
def Fmt.decode (f : Fmt) (c : Nat) : FVal :=
  let neg := c.testBit (f.eb + f.fb)
  let ex := (c >>> f.fb) % 2 ^ f.eb
  let fr := c % 2 ^ f.fb
  if f.ieee && ex = 2 ^ f.eb - 1 then
    if fr = 0 then .inf neg else .nan (!fr.testBit (f.fb - 1))
  else if ex = 0 then .fin neg fr (f.emin - f.fb)
  else .fin neg (2 ^ f.fb + fr) (f.emin + ((ex - 1 : Nat) : Int) - f.fb)

/-- A subnormal code read as a zero of its sign (R88). -/
def Fmt.flush (f : Fmt) (ftz : Bool) (c : Nat) : Nat :=
  if ftz && (c >>> f.fb) % 2 ^ f.eb = 0 then f.sign (c.testBit (f.eb + f.fb)) else c

/-- A source operand read with R88 in force or not. -/
def Fmt.read (f : Fmt) (ftz : Bool) (c : Nat) : FVal := f.decode (f.flush ftz c)

/-- Whether a magnitude n + rem / den, exact or with something below it (`sticky`), rounds up from n (R86): modes 0 nearest
even, 1 toward zero, 2 down, 3 up, 4 nearest with ties away. -/
def roundsUp (rm : Nat) (neg : Bool) (n rem half : Nat) (sticky : Bool) : Bool :=
  let inexact := rem != 0 || sticky
  match rm with
  | 0 => half < rem || (rem = half && half != 0 && (sticky || n % 2 = 1))
  | 1 => false
  | 2 => neg && inexact
  | 3 => !neg && inexact
  | _ => half ≤ rem && half != 0

/-- The magnitude m x 2^e (with something below it when `sticky`) in units of 2^q, rounded, and whether that is inexact. -/
def roundUnits (rm : Nat) (neg : Bool) (m : Nat) (e q : Int) (sticky : Bool) : Nat × Bool :=
  if q ≤ e then (m <<< (e - q).toNat, sticky)
  else
    let k := (q - e).toNat
    let n := m >>> k
    let rem := m % 2 ^ k
    (if roundsUp rm neg n rem (2 ^ (k - 1)) sticky then n + 1 else n, rem != 0 || sticky)

/-- A nonzero exact magnitude m x 2^e rounded to a format (R86 to R89): the code and the flags. Overflow gives an
infinity or the largest value by mode, and the largest value in a format without infinities; tininess is detected
after rounding; `ftz` flushes a subnormal result (R88). -/
def Fmt.round (f : Fmt) (rm : Nat) (ftz neg : Bool) (m : Nat) (e : Int) (sticky : Bool) : Nat × BitVec 5 :=
  if m = 0 then (f.sign neg, 0)
  else
    let top : Int := (m.log2 : Int) + e
    let q : Int := (if top < f.emin then f.emin else top) - f.fb
    let (n, nx) := roundUnits rm neg m e q sticky
    let code := ((q + f.fb - f.emin).toNat) * 2 ^ f.fb + n
    let (u, _) := roundUnits rm neg m e (top - f.fb) sticky
    let tiny := top < f.emin && !(top + 1 = f.emin && u = 2 ^ (f.fb + 1))
    if f.inf ≤ code then
      let toInf := match rm with | 1 => false | 2 => neg | 3 => !neg | _ => true
      ((if f.ieee && toInf then f.inf else f.inf - 1) + f.sign neg, fOF ||| fNX)
    else if ftz && code != 0 && code < 2 ^ f.fb then (f.sign neg, fUF ||| fNX)
    else (code + f.sign neg, (if nx then fNX else 0) ||| (if nx && tiny then fUF else 0))

/-- The canonical NaN of an invalid operation. -/
def Fmt.invalid (f : Fmt) : Nat × BitVec 5 := (f.nan, fNV)

/-- The NaN result for NaN operands; a signalling one sets NV (R87). -/
def Fmt.nanOf (f : Fmt) (xs : List FVal) : Nat × BitVec 5 :=
  (f.nan, if xs.any (fun x => match x with | .nan s => s | _ => false) then fNV else 0)

/-- Whether a value is a NaN. -/
def FVal.isNan : FVal → Bool
  | .nan _ => true
  | _ => false

/-- The sign of a value; a NaN counts as positive. -/
def FVal.neg : FVal → Bool
  | .nan _ => false
  | .inf n => n
  | .fin n _ _ => n

/-- The sum of two signed magnitudes in units of the smaller exponent. -/
def addExact (n1 : Bool) (m1 : Nat) (e1 : Int) (n2 : Bool) (m2 : Nat) (e2 : Int) : Int × Int :=
  let e := if e1 < e2 then e1 else e2
  let a : Int := ((m1 <<< (e1 - e).toNat : Nat) : Int)
  let b : Int := ((m2 <<< (e2 - e).toNat : Nat) : Int)
  ((if n1 then -a else a) + (if n2 then -b else b), e)

/-- A sum of two values rounded once (R86, R107): Inf - Inf is invalid, an exact zero of unlike signs is +0 but -0 in
the mode down. -/
def Fmt.add (f : Fmt) (rm : Nat) (ftz : Bool) (x y : FVal) : Nat × BitVec 5 :=
  match x, y with
  | .nan _, _ => f.nanOf [x, y]
  | _, .nan _ => f.nanOf [x, y]
  | .inf a, .inf b => if a = b then (f.inf + f.sign a, 0) else f.invalid
  | .inf a, _ => (f.inf + f.sign a, 0)
  | _, .inf b => (f.inf + f.sign b, 0)
  | .fin n1 m1 e1, .fin n2 m2 e2 =>
    let (t, e) := addExact n1 m1 e1 n2 m2 e2
    if t = 0 then (f.sign (if n1 = n2 then n1 else rm == 2), 0)
    else f.round rm ftz (decide (t < 0)) t.natAbs e false

/-- The negative of a value. -/
def FVal.negate : FVal → FVal
  | .nan s => .nan s
  | .inf n => .inf !n
  | .fin n m e => .fin (!n) m e

/-- The exact product of two values; none where it is invalid (0 x Inf) or a NaN. -/
def FVal.mul (x y : FVal) : Option FVal :=
  match x, y with
  | .nan _, _ => none
  | _, .nan _ => none
  | .inf a, .inf b => some (.inf (a != b))
  | .inf a, .fin b m _ => if m = 0 then none else some (.inf (a != b))
  | .fin b m _, .inf a => if m = 0 then none else some (.inf (a != b))
  | .fin a m d, .fin b n e => some (.fin (a != b) (m * n) (d + e))

/-- A value rounded into a format. -/
def Fmt.put (f : Fmt) (rm : Nat) (ftz : Bool) (x : FVal) : Nat × BitVec 5 :=
  match x with
  | .nan s => (f.nan, if s then fNV else 0)
  | .inf n => if f.ieee then (f.inf + f.sign n, 0) else (f.inf - 1 + f.sign n, fNX)
  | .fin n m e => f.round rm ftz n m e false

/-- A product rounded once (R107). -/
def Fmt.mulR (f : Fmt) (rm : Nat) (ftz : Bool) (x y : FVal) : Nat × BitVec 5 :=
  if x.isNan || y.isNan then f.nanOf [x, y]
  else match x.mul y with | some p => f.put rm ftz p | none => f.invalid

/-- a x b + c rounded once (R107); 0 x Inf is invalid even beside a NaN (R108). -/
def Fmt.fma (f : Fmt) (rm : Nat) (ftz : Bool) (x y z : FVal) : Nat × BitVec 5 :=
  if x.isNan || y.isNan then f.nanOf [x, y, z]
  else match x.mul y with
    | none => f.invalid
    | some p => if z.isNan then f.nanOf [z] else f.add rm ftz p z

/-- Whether x < y as numbers, with -0 below +0 when `zeros` (R109). -/
def FVal.lt (zeros : Bool) (x y : FVal) : Bool :=
  match x, y with
  | .nan _, _ => false
  | _, .nan _ => false
  | .inf a, .inf b => a && !b
  | .inf a, .fin _ _ _ => a
  | .fin _ _ _, .inf b => !b
  | .fin n1 m1 e1, .fin n2 m2 e2 =>
    if m1 = 0 && m2 = 0 then zeros && n1 && !n2
    else (addExact n1 m1 e1 (!n2) m2 e2).1 < 0

/-- Minimum and maximum (R109): the result is one of the codes as read; a NaN operand gives the other one. -/
def Fmt.minmax (f : Fmt) (max ftz : Bool) (a b : Nat) : Nat × BitVec 5 :=
  let a := f.flush ftz a
  let b := f.flush ftz b
  let x := f.decode a
  let y := f.decode b
  let nv : BitVec 5 := (f.nanOf [x, y]).2
  if x.isNan && y.isNan then (f.nan, nv)
  else if x.isNan then (b, nv)
  else if y.isNan then (a, nv)
  else if max then (if x.lt true y then b else a, 0)
  else (if y.lt true x then b else a, 0)

/-- A comparison under condition `cc` (R102, R110): the result and the flags. -/
def fcompare (cc : Nat) (x y : FVal) : Bool × BitVec 5 :=
  let un := x.isNan || y.isNan
  let lt := x.lt false y
  let gt := y.lt false x
  let eq := !un && !lt && !gt
  let sig := [x, y].any fun v => match v with | .nan s => s | _ => false
  let r := match cc with
    | 0 => eq
    | 1 => !eq
    | 2 => lt
    | 3 => lt || eq
    | 4 => gt
    | 5 => gt || eq
    | 6 => un
    | _ => !un
  (r, if sig || (un && 2 ≤ cc && cc ≤ 5) then fNV else 0)

/-- NEG and ABS on a code: the absolute value first, then the negation (R51, R108). -/
def Fmt.modify (f : Fmt) (neg abs : Bool) (c : Nat) : Nat :=
  let s := 2 ^ (f.eb + f.fb)
  let c := if abs then c % s else c
  if neg then (if c.testBit (f.eb + f.fb) then c - s else c + s) else c

/-- The class mask of FCLASS (R111). -/
def Fmt.classMask (f : Fmt) (c : Nat) : Nat :=
  match f.decode c with
  | .nan s => if s then 2 ^ 8 else 2 ^ 9
  | .inf n => if n then 2 ^ 0 else 2 ^ 7
  | .fin n m _ =>
    if m = 0 then (if n then 2 ^ 3 else 2 ^ 4)
    else if m < 2 ^ f.fb then (if n then 2 ^ 2 else 2 ^ 5)
    else if n then 2 ^ 1 else 2 ^ 6

/-! ### The special functions -/

/-- The integer square root, one bit of the root at a time from bit `k` - 1 down. -/
def isqrtFrom (n : Nat) : Nat → Nat → Nat
  | 0, r => r
  | k + 1, r =>
    let t := r + 2 ^ k
    isqrtFrom n k (if t * t ≤ n then t else r)

/-- The integer square root of a number. -/
def isqrt (n : Nat) : Nat := isqrtFrom n (n.log2 / 2 + 1) 0

/-- Fraction bits of the fixed-point work below; far more than any FP32 argument needs (the closest a result comes to a
rounding boundary is about 2^-300, for cosines of the smallest arguments). -/
def fixBits : Nat := 512

/-- ln 2 in 512 fraction bits, from 560. -/
def fixLn2 : Nat := 0xb17217f7d1cf79abc9e3b39803f2f6af40f343267298b62d8a0d175b8baafa2be7b876206debac98559552fb4afa1b10ed2eae35c138214427573b291169b8253e96ca16224a >>> 48

/-- pi in 512 fraction bits, from 560. -/
def fixPi : Nat := 0x3243f6a8885a308d313198a2e03707344a4093822299f31d0082efa98ec4e6c89452821e638d01377be5466cf34e90c6cc0ac29b7c97c50dd3f84d5b5b54709179216d5d98979 >>> 48

/-- The power series t + t x / (k+1) + t x x / ((k+1)(k+2)) + ... in fixed point. -/
def fixSeries (x : Nat) : Nat → Nat → Nat → Nat
  | 0, _, _ => 0
  | n + 1, k, t => t + fixSeries x n (k + 1) ((t * x) >>> fixBits / (k + 1))

/-- exp of a fixed-point number below 1, from below. -/
def fixExp (x : Nat) : Nat := fixSeries x 128 0 (2 ^ fixBits)

/-- The alternating series of sine and cosine: t - t xx / ((k+1)(k+2)) + ... -/
def fixAlt (xx : Nat) : Nat → Nat → Int → Int
  | 0, _, _ => 0
  | n + 1, k, t => t + fixAlt xx n (k + 2) (-(t * xx / (2 ^ fixBits * (k + 1) * (k + 2) : Nat)))

/-- sin (pi/2 x r), r a fixed-point number in (0, 1]. -/
def fixSin (r : Nat) : Nat :=
  let x := (fixPi * r) >>> (fixBits + 1)
  (fixAlt ((x * x) >>> fixBits) 80 1 x).toNat

/-- cos (pi/2 x r), r a fixed-point number in [0, 1). -/
def fixCos (r : Nat) : Nat :=
  let x := (fixPi * r) >>> (fixBits + 1)
  (fixAlt ((x * x) >>> fixBits) 80 0 (2 ^ fixBits : Nat)).toNat

/-- `n` binary digits of the logarithm of y in [1, 2), by squaring. -/
def fixLog : Nat → Nat → Nat → Nat
  | 0, _, acc => acc
  | n + 1, y, acc =>
    let z := (y * y) >>> fixBits
    if 2 ^ (fixBits + 1) ≤ z then fixLog n (z >>> 1) (2 * acc + 1) else fixLog n z (2 * acc)

/-- An approximation in fixed point, never exact, rounded: the last 40 bits hold its error. -/
def Fmt.roundFix (f : Fmt) (rm : Nat) (ftz neg : Bool) (x : Nat) (e : Int) : Nat × BitVec 5 :=
  f.round rm ftz neg ((x - 2 ^ 20) >>> 40) (e + 40) true

/-- The value n + r of 2^512 fixed point as a signed magnitude and a fraction: the floor, and the fraction bits. -/
def floorFix (neg : Bool) (m : Nat) (e : Int) : Int × Nat :=
  let t : Int := if 0 ≤ e then ((m <<< (e + fixBits).toNat : Nat) : Int)
    else if (fixBits : Int) + e < 0 then ((m >>> (-(e + fixBits)).toNat : Nat) : Int) else ((m <<< (e + fixBits).toNat : Nat) : Int)
  let t := if neg then -t else t
  (t.fdiv (2 ^ fixBits : Nat), (t.fmod (2 ^ fixBits : Nat)).toNat)

/-- 2 to the power of a finite value (R112). -/
def Fmt.exp2Fin (f : Fmt) (rm : Nat) (ftz neg : Bool) (m : Nat) (e : Int) : Nat × BitVec 5 :=
  let (n, r) := floorFix neg m e
  let n := if 4096 < n then 4096 else if n < -4096 then -4096 else n
  if r = 0 then f.round rm ftz false 1 n false
  else f.roundFix rm ftz false (fixExp ((r * fixLn2) >>> fixBits)) (n - fixBits)

/-- FEXP2 (R112). -/
def Fmt.exp2 (f : Fmt) (rm : Nat) (ftz : Bool) (x : FVal) : Nat × BitVec 5 :=
  match x with
  | .nan _ => f.nanOf [x]
  | .inf n => (if n then 0 else f.inf, 0)
  | .fin n m e => f.exp2Fin rm ftz n m e

/-- FLOG2 (R112). -/
def Fmt.log2 (f : Fmt) (rm : Nat) (ftz : Bool) (x : FVal) : Nat × BitVec 5 :=
  match x with
  | .nan _ => f.nanOf [x]
  | .inf n => if n then f.invalid else (f.inf, 0)
  | .fin n m e =>
    if m = 0 then (f.inf + f.sign true, fDZ)
    else if n then f.invalid
    else
      let k := m.log2
      let top : Int := (k : Int) + e
      if m = 2 ^ k then f.round rm ftz (decide (top < 0)) top.natAbs 0 false
      else
        let y := m <<< (fixBits - k)
        let d := fixLog 400 y 0
        let t : Int := top * (2 ^ 400 : Nat) + d
        if 0 ≤ t then f.round rm ftz false (t.natAbs >>> 20) (20 - 400) true
        else f.round rm ftz true ((t.natAbs - 2 ^ 15) >>> 20) (20 - 400) true

/-- FRCP (R112). -/
def Fmt.rcp (f : Fmt) (rm : Nat) (ftz : Bool) (x : FVal) : Nat × BitVec 5 :=
  match x with
  | .nan _ => f.nanOf [x]
  | .inf n => (f.sign n, 0)
  | .fin n m e =>
    if m = 0 then (f.inf + f.sign n, fDZ)
    else
      let k := m.log2 + 64
      f.round rm ftz n (2 ^ k / m) (-(k : Int) - e) (decide (2 ^ k % m ≠ 0))

/-- FSQRT (R112). -/
def Fmt.sqrt (f : Fmt) (rm : Nat) (ftz : Bool) (x : FVal) : Nat × BitVec 5 :=
  match x with
  | .nan _ => f.nanOf [x]
  | .inf n => if n then f.invalid else (f.inf, 0)
  | .fin n m e =>
    if m = 0 then (f.sign n, 0)
    else if n then f.invalid
    else
      let m := if e % 2 = 0 then m else 2 * m
      let e := if e % 2 = 0 then e else e - 1
      let a := m <<< 80
      let r := isqrt a
      f.round rm ftz false r (e / 2 - 40) (decide (r * r ≠ a))

/-- FRSQ (R112). -/
def Fmt.rsq (f : Fmt) (rm : Nat) (ftz : Bool) (x : FVal) : Nat × BitVec 5 :=
  match x with
  | .nan _ => f.nanOf [x]
  | .inf n => if n then f.invalid else (0, 0)
  | .fin n m e =>
    if m = 0 then (f.inf + f.sign n, fDZ)
    else if n then f.invalid
    else
      let m := if e % 2 = 0 then m else 2 * m
      let e := if e % 2 = 0 then e else e - 1
      let k := m.log2 / 2 + 64
      let r := isqrt (2 ^ (2 * k) / m)
      f.round rm ftz false r (-(k : Int) - e / 2) (decide (r * r * m ≠ 2 ^ (2 * k)))

/-- The quadrant of a turn (0 to 3) and the place in it, in fixed point: the fraction of 4x for a finite x. -/
def quadrant (neg : Bool) (m : Nat) (e : Int) : Nat × Nat :=
  let (n, r) := floorFix neg m (e + 2)
  ((n % 4).toNat, r)

/-- A sine or cosine of a quadrant rounded: `c` takes the cosine of the place in the quadrant. -/
def Fmt.wave (f : Fmt) (rm : Nat) (ftz neg c : Bool) (r : Nat) : Nat × BitVec 5 :=
  f.roundFix rm ftz neg (if c then fixCos r else fixSin r) (-(fixBits : Int))

/-- FSINP (R112, R113): sin(2 pi x). -/
def Fmt.sinp (f : Fmt) (rm : Nat) (ftz : Bool) (x : FVal) : Nat × BitVec 5 :=
  match x with
  | .nan _ => f.nanOf [x]
  | .inf _ => f.invalid
  | .fin n m e =>
    let (q, r) := quadrant n m e
    if r = 0 then
      (match q with
       | 1 => f.round rm ftz false 1 0 false
       | 3 => f.round rm ftz true 1 0 false
       | _ => (f.sign n, 0))
    else
      match q with
      | 0 => f.wave rm ftz false false r
      | 1 => f.wave rm ftz false true r
      | 2 => f.wave rm ftz true false r
      | _ => f.wave rm ftz true true r

/-- FCOSP (R112, R113): cos(2 pi x). -/
def Fmt.cosp (f : Fmt) (rm : Nat) (ftz : Bool) (x : FVal) : Nat × BitVec 5 :=
  match x with
  | .nan _ => f.nanOf [x]
  | .inf _ => f.invalid
  | .fin n m e =>
    let (q, r) := quadrant n m e
    if r = 0 then
      (match q with
       | 0 => f.round rm ftz false 1 0 false
       | 2 => f.round rm ftz true 1 0 false
       | _ => (0, 0))
    else
      match q with
      | 0 => f.wave rm ftz false true r
      | 1 => f.wave rm ftz true false r
      | 2 => f.wave rm ftz true true r
      | _ => f.wave rm ftz false false r

/-! ### Conversions -/

/-- A finite value rounded to an integer (R90, R117), and whether that is inexact. -/
def roundInt (rm : Nat) (neg : Bool) (m : Nat) (e : Int) : Nat × Bool := roundUnits rm neg m e 0 false

/-- A value converted to an integer range by R90. -/
def toIntRange (rm : Nat) (lo hi : Int) (x : FVal) : Int × BitVec 5 :=
  match x with
  | .nan _ => (0, fNV)
  | .inf n => (if n then lo else hi, fNV)
  | .fin n m e =>
    let (k, nx) := roundInt rm n m e
    let v : Int := if n then -(k : Int) else k
    if v < lo then (lo, fNV) else if hi < v then (hi, fNV) else (v, if nx then fNX else 0)

/-- A conversion to KF8 or KF8W by R89: saturation, NaN to +0 with NV. -/
def Fmt.narrow (f : Fmt) (rm : Nat) (x : FVal) : Nat × BitVec 5 :=
  match x with
  | .nan _ => (0, fNV)
  | _ => f.put rm false x

/-- The exact value of an integer. -/
def FVal.ofInt (x : Int) : FVal := .fin (decide (x < 0)) x.natAbs 0

/-- A value rounded to an integral value in its own format (R117): the sign of a zero stays. -/
def Fmt.integral (f : Fmt) (rm : Nat) (ftz : Bool) (x : FVal) : Nat × BitVec 5 :=
  match x with
  | .fin n m e =>
    let (k, nx) := roundInt rm n m e
    ((f.round rm ftz n k 0 false).1, if nx then fNX else 0)
  | _ => f.put rm ftz x

end Sys2Proof.Machine
end

