-- ==== Sys2Proof/Machine/Flags.lean ====
section
/-! DEFINITION. The rules that decide a result's mode or a condition: saturation (R99), rounding mode (R86), the
comparisons of R102 and the conditions of R132. -/
namespace Sys2Proof.Machine

/-- An exact integer result reduced to width `w` (R99): clamped when `sat`, else its low bits. -/
def reduceInt (w : Nat) (sat : Bool) (x : Int) : BitVec w := BitVec.ofInt w (if sat then clampS w x else x)

/-- Whether a saturable instruction saturates (R99). -/
def Issuer.sat (i : Issuer) (s : Bool) : Bool := s || i.isat

/-- The rounding mode of an RND field (R51, R86): 0 nearest even, 1 toward zero, 2 down, 3 up, 4 ties away. -/
def Issuer.round (i : Issuer) (r : Rnd) : Nat :=
  match r with
  | .mode => i.rm
  | .rn => 0
  | .rz => 1
  | .ra => 4

/-- An integer comparison (R102). -/
def icompare {w : Nat} (cc : Nat) (a b : BitVec w) : Bool :=
  match cc with
  | 0 => a == b
  | 1 => a != b
  | 2 => a.slt b
  | 3 => a.sle b
  | 4 => b.slt a
  | 5 => b.sle a
  | 6 => a.ult b
  | _ => a.ule b

/-- A condition of R132 on a signed value. -/
def condHolds {w : Nat} (cond : Nat) (c : BitVec w) : Bool :=
  match cond with
  | 0 => c == 0
  | 1 => c != 0
  | 2 => c.slt 0
  | 3 => (0 : BitVec w).sle c
  | 4 => (0 : BitVec w).slt c
  | _ => c.sle 0

/-- The shift count of R101. -/
def shiftCount {w : Nat} (b : BitVec w) : Nat := b.toNat % w

/-- The number of one bits. -/
def popCount (x : Nat) : Nat → Nat
  | 0 => 0
  | n + 1 => (if x.testBit n then 1 else 0) + popCount x n

/-- The leading zero bits of a word of `w` bits; `w` for zero (R100). -/
def leadZeros {w : Nat} (x : BitVec w) : Nat := if x = 0 then w else w - 1 - x.toNat.log2

/-- The trailing zero bits from bit `k` on, `n` bits left to look at. -/
def trailFrom (x : Nat) : Nat → Nat → Nat
  | 0, k => k
  | n + 1, k => if x.testBit k then k else trailFrom x n (k + 1)

/-- The trailing zero bits of a word (R100). -/
def trailZeros {w : Nat} (x : BitVec w) : Nat := trailFrom x.toNat w 0

/-- The bits of a word in reverse (R100). -/
def bitRev {w : Nat} (x : BitVec w) : BitVec w :=
  BitVec.ofNat w ((List.range w).foldl (fun n i => if x.getLsbD i then n + 2 ^ (w - 1 - i) else n) 0)

/-- Position and length of a bit field (R103), the length cut at the width. -/
def fieldOf {w : Nat} (b : BitVec w) : Nat × Nat :=
  let pos := b.toNat % w
  let len := if w = 32 then bitsOf b.toNat 13 8 else bitsOf b.toNat 14 8
  (pos, min len (w - pos))

/-- BFX (R103). -/
def fieldExtract {w : Nat} (signed : Bool) (a b : BitVec w) : BitVec w :=
  let (pos, len) := fieldOf b
  if len = 0 then 0
  else
    let x := (a.toNat >>> pos) % 2 ^ len
    if signed then BitVec.ofInt w (sxNat x len) else BitVec.ofNat w x

/-- BFI (R103). -/
def fieldInsert {w : Nat} (a b c : BitVec w) : BitVec w :=
  let (pos, len) := fieldOf b
  if len = 0 then c
  else
    let m := BitVec.ofNat w ((2 ^ len - 1) <<< pos)
    (c &&& ~~~m) ||| (BitVec.ofNat w (a.toNat <<< pos) &&& m)

/-- An integer accumulation of products in ascending order (R97, R106). -/
def dotAccum (sat : Bool) (c : Int) : List Int → Int
  | [] => c
  | p :: r => dotAccum sat (if sat then clampS 32 (c + p) else (BitVec.ofInt 32 (c + p)).toInt) r

end Sys2Proof.Machine
end

