-- ==== Sys2Proof/Machine/Int.lean ====
section
/-! DEFINITION. The integer, logic and address instructions (R98 to R106) and NOP (R67). -/
namespace Sys2Proof.Machine

/-- The uses of an arithmetic word with a 32-bit destination and the sources `src`. -/
def arithUses (d : Operand) (src : List Operand) : List Use := Use.w d :: src.map Use.r

/-- An instruction of the integer family on a gang and, where `bank`, on a bank core: the lane value at width 32, the
scalar value at width 64 (R99). -/
def Issuer.int (i : Issuer) (d : Operand) (f : (w : Nat) → (Operand → BitVec w) → BitVec w) : Res :=
  i.put d (fun l => f 32 fun o => i.rd o l) fun _ => f 64 fun o => i.rds o

/-- A two-source integer operation by its exact value (R99, R100). -/
def Issuer.intExact (i : Issuer) (x : Arith) (f : Int → Int → Int → Int) : Res :=
  i.int x.d fun w rd => reduceInt w (i.sat x.sat) (f (rd x.a).toInt (rd x.b).toInt (rd x.c).toInt)

/-- The meaning of NOP (R67): the PC advances. -/
def execNop (s : State) : Host.Outcome State Fault Refusal := s.plain true noCheck [] fun _ => .none

/-- What IADD computes. -/
def resIadd (x : Arith) (i : Issuer) : Res :=
  i.intExact x fun a b _ => a + b

/-- The meaning of IADD (R100). -/
def execIadd (x : Arith) (s : State) : Host.Outcome State Fault Refusal :=
  s.plain true noCheck (arithUses x.d [x.a, x.b]) (resIadd x)

/-- What ISUB computes. -/
def resIsub (x : Arith) (i : Issuer) : Res :=
  i.intExact x fun a b _ => a - b

/-- The meaning of ISUB (R100). -/
def execIsub (x : Arith) (s : State) : Host.Outcome State Fault Refusal :=
  s.plain true noCheck (arithUses x.d [x.a, x.b]) (resIsub x)

/-- What IMUL computes. -/
def resImul (x : Arith) (i : Issuer) : Res :=
  i.intExact x fun a b _ => a * b

/-- The meaning of IMUL (R100). -/
def execImul (x : Arith) (s : State) : Host.Outcome State Fault Refusal :=
  s.plain true noCheck (arithUses x.d [x.a, x.b]) (resImul x)

/-- The meaning of IMULH (R100). -/
def execImulh (x : Arith) (s : State) : Host.Outcome State Fault Refusal :=
  s.plain true noCheck (arithUses x.d [x.a, x.b]) fun i =>
    i.int x.d fun w rd => BitVec.ofInt w (((rd x.a).toInt * (rd x.b).toInt) >>> w)

/-- The meaning of IMULHU (R100). -/
def execImulhu (x : Arith) (s : State) : Host.Outcome State Fault Refusal :=
  s.plain true noCheck (arithUses x.d [x.a, x.b]) fun i =>
    i.int x.d fun w rd => BitVec.ofNat w (((rd x.a).toNat * (rd x.b).toNat) >>> w)

/-- The meaning of IMAD (R100). -/
def execImad (x : Arith) (s : State) : Host.Outcome State Fault Refusal :=
  s.plain true noCheck (arithUses x.d [x.a, x.b, x.c]) fun i =>
    i.intExact x fun a b c => a * b + c

/-- What IMIN computes. -/
def resImin (x : Arith) (i : Issuer) : Res :=
  i.int x.d fun _ rd => if (rd x.b).slt (rd x.a) then rd x.b else rd x.a

/-- The meaning of IMIN (R100). -/
def execImin (x : Arith) (s : State) : Host.Outcome State Fault Refusal :=
  s.plain true noCheck (arithUses x.d [x.a, x.b]) (resImin x)

/-- What IMAX computes. -/
def resImax (x : Arith) (i : Issuer) : Res :=
  i.int x.d fun _ rd => if (rd x.a).slt (rd x.b) then rd x.b else rd x.a

/-- The meaning of IMAX (R100). -/
def execImax (x : Arith) (s : State) : Host.Outcome State Fault Refusal :=
  s.plain true noCheck (arithUses x.d [x.a, x.b]) (resImax x)

/-- The meaning of UMIN (R100). -/
def execUmin (x : Arith) (s : State) : Host.Outcome State Fault Refusal :=
  s.plain true noCheck (arithUses x.d [x.a, x.b]) fun i =>
    i.int x.d fun _ rd => if (rd x.b).ult (rd x.a) then rd x.b else rd x.a

/-- The meaning of UMAX (R100). -/
def execUmax (x : Arith) (s : State) : Host.Outcome State Fault Refusal :=
  s.plain true noCheck (arithUses x.d [x.a, x.b]) fun i =>
    i.int x.d fun _ rd => if (rd x.a).ult (rd x.b) then rd x.b else rd x.a

/-- The meaning of IABS (R100). -/
def execIabs (x : Arith) (s : State) : Host.Outcome State Fault Refusal :=
  s.plain true noCheck (arithUses x.d [x.a]) fun i =>
    i.intExact x fun a _ _ => if a < 0 then -a else a

/-- What AND computes. -/
def resAnd (x : Arith) (i : Issuer) : Res :=
  i.int x.d fun _ rd => rd x.a &&& rd x.b

/-- The meaning of AND (R100). -/
def execAnd (x : Arith) (s : State) : Host.Outcome State Fault Refusal :=
  s.plain true noCheck (arithUses x.d [x.a, x.b]) (resAnd x)

/-- What OR computes. -/
def resOr (x : Arith) (i : Issuer) : Res :=
  i.int x.d fun _ rd => rd x.a ||| rd x.b

/-- The meaning of OR (R100). -/
def execOr (x : Arith) (s : State) : Host.Outcome State Fault Refusal :=
  s.plain true noCheck (arithUses x.d [x.a, x.b]) (resOr x)

/-- What XOR computes. -/
def resXor (x : Arith) (i : Issuer) : Res :=
  i.int x.d fun _ rd => rd x.a ^^^ rd x.b

/-- The meaning of XOR (R100). -/
def execXor (x : Arith) (s : State) : Host.Outcome State Fault Refusal :=
  s.plain true noCheck (arithUses x.d [x.a, x.b]) (resXor x)

/-- The meaning of ANDN (R100). -/
def execAndn (x : Arith) (s : State) : Host.Outcome State Fault Refusal :=
  s.plain true noCheck (arithUses x.d [x.a, x.b]) fun i =>
    i.int x.d fun _ rd => rd x.a &&& ~~~(rd x.b)

/-- What SHL computes. -/
def resShl (x : Arith) (i : Issuer) : Res :=
  i.int x.d fun _ rd => rd x.a <<< shiftCount (rd x.b)

/-- The meaning of SHL (R100, R101). -/
def execShl (x : Arith) (s : State) : Host.Outcome State Fault Refusal :=
  s.plain true noCheck (arithUses x.d [x.a, x.b]) (resShl x)

/-- What SHR computes. -/
def resShr (x : Arith) (i : Issuer) : Res :=
  i.int x.d fun _ rd => rd x.a >>> shiftCount (rd x.b)

/-- The meaning of SHR (R100, R101). -/
def execShr (x : Arith) (s : State) : Host.Outcome State Fault Refusal :=
  s.plain true noCheck (arithUses x.d [x.a, x.b]) (resShr x)

/-- What SRA computes. -/
def resSra (x : Arith) (i : Issuer) : Res :=
  i.int x.d fun _ rd => (rd x.a).sshiftRight (shiftCount (rd x.b))

/-- The meaning of SRA (R100, R101). -/
def execSra (x : Arith) (s : State) : Host.Outcome State Fault Refusal :=
  s.plain true noCheck (arithUses x.d [x.a, x.b]) (resSra x)

/-- The meaning of ROL (R100, R101). -/
def execRol (x : Arith) (s : State) : Host.Outcome State Fault Refusal :=
  s.plain true noCheck (arithUses x.d [x.a, x.b]) fun i =>
    i.int x.d fun _ rd => (rd x.a).rotateLeft (shiftCount (rd x.b))

/-- The meaning of POPC (R100). -/
def execPopc (x : Arith) (s : State) : Host.Outcome State Fault Refusal :=
  s.plain true noCheck (arithUses x.d [x.a]) fun i =>
    i.int x.d fun w rd => BitVec.ofNat w (popCount (rd x.a).toNat w)

/-- The meaning of CLZ (R100). -/
def execClz (x : Arith) (s : State) : Host.Outcome State Fault Refusal :=
  s.plain true noCheck (arithUses x.d [x.a]) fun i =>
    i.int x.d fun w rd => BitVec.ofNat w (leadZeros (rd x.a))

/-- The meaning of CTZ (R100). -/
def execCtz (x : Arith) (s : State) : Host.Outcome State Fault Refusal :=
  s.plain true noCheck (arithUses x.d [x.a]) fun i =>
    i.int x.d fun w rd => BitVec.ofNat w (trailZeros (rd x.a))

/-- The meaning of BREV (R100). -/
def execBrev (x : Arith) (s : State) : Host.Outcome State Fault Refusal :=
  s.plain true noCheck (arithUses x.d [x.a]) fun i =>
    i.int x.d fun _ rd => bitRev (rd x.a)

/-- The meaning of BFX (R103). -/
def execBfx (x : Arith) (s : State) : Host.Outcome State Fault Refusal :=
  s.plain true noCheck (arithUses x.d [x.a, x.b]) fun i =>
    i.int x.d fun _ rd => fieldExtract (x.sub == 1) (rd x.a) (rd x.b)

/-- The meaning of BFI (R103). -/
def execBfi (x : Arith) (s : State) : Host.Outcome State Fault Refusal :=
  s.plain true noCheck (arithUses x.d [x.a, x.b, x.c]) fun i =>
    i.int x.d fun _ rd => fieldInsert (rd x.a) (rd x.b) (rd x.c)

/-- The meaning of SEL (R100). -/
def execSel (x : Arith) (s : State) : Host.Outcome State Fault Refusal :=
  s.plain true noCheck (arithUses x.d [x.a, x.b, x.c]) fun i =>
    i.int x.d fun _ rd => if rd x.c != 0 then rd x.a else rd x.b

/-- The meaning of ICMP (R100, R102). -/
def execIcmp (x : Arith) (s : State) : Host.Outcome State Fault Refusal :=
  s.plain true noCheck (arithUses x.d [x.a, x.b]) fun i =>
    i.int x.d fun w rd => BitVec.ofNat w (boolNat (icompare x.sub.toNat (rd x.a) (rd x.b)))

/-- The uses of a 64-bit word (R105). -/
def wideUses (d : Operand) (src : List Operand) : List Use := Use.wq d :: src.map Use.q

/-- A 64-bit integer operation in register pairs or scalars (R105). -/
def Issuer.int64 (i : Issuer) (d : Operand) (f : (Operand → DWord) → DWord) : Res :=
  match d with
  | .v n => ⟨i.vecq n.val fun l => f fun o => i.rdq o l, [], 0⟩
  | .s n => ⟨[], [(n.val, f fun o => i.rds o)], 0⟩
  | _ => .none

/-- The meaning of IADD64 (R105). -/
def execIadd64 (x : Arith) (s : State) : Host.Outcome State Fault Refusal :=
  s.plain false noCheck (wideUses x.d [x.a, x.b]) fun i =>
    i.int64 x.d fun rd => reduceInt 64 (i.sat x.sat) ((rd x.a).toInt + (rd x.b).toInt)

/-- The meaning of ISUB64 (R105). -/
def execIsub64 (x : Arith) (s : State) : Host.Outcome State Fault Refusal :=
  s.plain false noCheck (wideUses x.d [x.a, x.b]) fun i =>
    i.int64 x.d fun rd => reduceInt 64 (i.sat x.sat) ((rd x.a).toInt - (rd x.b).toInt)

/-- The meaning of IMUL64 (R105). -/
def execImul64 (x : Arith) (s : State) : Host.Outcome State Fault Refusal :=
  s.plain false noCheck (wideUses x.d [x.a, x.b]) fun i =>
    i.int64 x.d fun rd => reduceInt 64 (i.sat x.sat) ((rd x.a).toInt * (rd x.b).toInt)

/-- LEA: a + (zx(b, 32) << n), wrapping (R105). -/
def leaValue (n : Nat) (a : DWord) (b : Word) : DWord := a + (b.setWidth 64 <<< n)

/-- The meaning of LEA (R105): b is read in a 32-bit position. -/
def execLea (x : Arith) (s : State) : Host.Outcome State Fault Refusal :=
  s.plain true noCheck [Use.wq x.d, Use.q x.a, Use.r x.b] fun i =>
    match x.d with
    | .v n => ⟨i.vecq n.val fun l => leaValue x.sub.toNat (i.rdq x.a l) (i.rd x.b l), [], 0⟩
    | .s n => ⟨[], [(n.val, leaValue x.sub.toNat (i.rds x.a) ((i.rds x.b).setWidth 32))], 0⟩
    | _ => .none

/-- What MOV computes. -/
def resMov (x : Arith) (i : Issuer) : Res :=
  if x.sub = 1 then i.int64 x.d fun rd => rd x.a else i.int x.d fun _ rd => rd x.a

/-- The meaning of MOV and MOV.D (R100). -/
def execMov (x : Arith) (s : State) : Host.Outcome State Fault Refusal :=
  s.plain true noCheck (if x.sub = 1 then [Use.wq x.d, Use.q x.a] else [Use.w x.d, Use.r x.a]) (resMov x)

/-- The uses of the I-form (R104). -/
def iUses (x : IForm) : List Use := [Use.w x.d, Use.r x.a]

/-- The meaning of MOVI (R104); MOVI.HI keeps the low word of its scalar. -/
def execMovi (x : IForm) (s : State) : Host.Outcome State Fault Refusal :=
  s.plain true noCheck [Use.w x.d] fun i =>
    i.put x.d (fun _ => x.imm) fun _ =>
      match x.sub.toNat with
      | 0 => x.imm.setWidth 64
      | 1 => x.imm.signExtend 64
      | _ => x.imm ++ (i.rds x.d).setWidth 32

/-- The meaning of IADDI (R104): saturable through MODE.ISAT only. -/
def execIaddi (x : IForm) (s : State) : Host.Outcome State Fault Refusal :=
  s.plain true noCheck (iUses x) fun i =>
    i.int x.d fun w rd => reduceInt w i.isat ((rd x.a).toInt + x.imm.toInt)

/-- The immediate of a logic instruction: sign-extended, or zero-extended with `.U` (R104). -/
def logicImm (x : IForm) (w : Nat) : BitVec w := if x.sub = 1 then x.imm.setWidth w else x.imm.signExtend w

/-- The meaning of ANDI (R104). -/
def execAndi (x : IForm) (s : State) : Host.Outcome State Fault Refusal :=
  s.plain true noCheck (iUses x) fun i => i.int x.d fun w rd => rd x.a &&& logicImm x w

/-- The meaning of ORI (R104). -/
def execOri (x : IForm) (s : State) : Host.Outcome State Fault Refusal :=
  s.plain true noCheck (iUses x) fun i => i.int x.d fun w rd => rd x.a ||| logicImm x w

/-- The meaning of XORI (R104). -/
def execXori (x : IForm) (s : State) : Host.Outcome State Fault Refusal :=
  s.plain true noCheck (iUses x) fun i => i.int x.d fun w rd => rd x.a ^^^ logicImm x w

/-- The meaning of SHIFTI (R104): the count is below the width by check 2. -/
def execShifti (x : IForm) (s : State) : Host.Outcome State Fault Refusal :=
  s.plain true noCheck (iUses x) fun i =>
    i.int x.d fun w rd =>
      let n := x.imm.toNat % w
      match x.sub.toNat with
      | 0 => rd x.a <<< n
      | 1 => rd x.a >>> n
      | 2 => (rd x.a).sshiftRight n
      | _ => (rd x.a).rotateLeft n

/-- The meaning of ICMPI (R104, R102). -/
def execIcmpi (x : IForm) (s : State) : Host.Outcome State Fault Refusal :=
  s.plain true noCheck (iUses x) fun i =>
    i.int x.d fun w rd => BitVec.ofNat w (boolNat (icompare x.sub.toNat (rd x.a) (x.imm.signExtend w)))

/-- The products of a dot product over `n` elements of `w` bits (R106). -/
def dotTerms (signed : Bool) (w n : Nat) (a b : Word) : List Int :=
  (List.range n).map fun k =>
    let ea := bitsOf a.toNat (w * k + w - 1) (w * k)
    let eb := bitsOf b.toNat (w * k + w - 1) (w * k)
    if signed then sxNat ea w * sxNat eb w else ((ea * eb : Nat) : Int)

/-- A dot product into INT32, sign-extended on the scalar pipe (R106). -/
def Issuer.dot (i : Issuer) (x : Arith) (signed : Bool) (w n : Nat) : Res :=
  let f (a b c : Word) : Int := dotAccum (i.sat x.sat) c.toInt (dotTerms signed w n a b)
  i.put x.d (fun l => BitVec.ofInt 32 (f (i.rd x.a l) (i.rd x.b l) (i.rd x.c l))) fun _ =>
    BitVec.ofInt 64 (f ((i.rds x.a).setWidth 32) ((i.rds x.b).setWidth 32) ((i.rds x.c).setWidth 32))

/-- The meaning of IDP4 and IDP4.I4 (R106). -/
def execIdp4 (x : Arith) (s : State) : Host.Outcome State Fault Refusal :=
  s.plain true noCheck (arithUses x.d [x.a, x.b, x.c]) fun i =>
    if x.sub = 1 then i.dot x true 4 8 else i.dot x true 8 4

/-- The meaning of IDP4U (R106). -/
def execIdp4u (x : Arith) (s : State) : Host.Outcome State Fault Refusal :=
  s.plain true noCheck (arithUses x.d [x.a, x.b, x.c]) fun i => i.dot x false 8 4

end Sys2Proof.Machine
end

