-- ==== Sys2Proof/Machine/Fp.lean ====
section
/-! DEFINITION. The FP32, packed BF16 and FP64 instructions (R107 to R115). -/
namespace Sys2Proof.Machine

/-- The code of an operand at position `k` (2 = A, 1 = B, 0 = C) after ABS and NEG (R51, R108). -/
def signed (x : Arith) (f : Fmt) (k c : Nat) : Nat := f.modify (x.neg.getLsbD k) (x.abs.getLsbD k) c

/-- An FP32 result as a word. -/
def w32 (r : Nat × BitVec 5) : Word × BitVec 5 := (BitVec.ofNat 32 r.1, r.2)

/-- An FP64 result as a double word. -/
def w64 (r : Nat × BitVec 5) : DWord × BitVec 5 := (BitVec.ofNat 64 r.1, r.2)

/-- An FP32 instruction from the codes of its operands after NEG and ABS (R107, R108): in each active lane, or once on
bits 31:0 of scalars. -/
def Issuer.fp (i : Issuer) (x : Arith) (f : Nat → Nat → Nat → Nat × BitVec 5) : Res :=
  i.putF x.d
    (fun l => w32 (f (signed x fp32 2 (i.rd x.a l).toNat) (signed x fp32 1 (i.rd x.b l).toNat) (signed x fp32 0 (i.rd x.c l).toNat)))
    fun _ => w32 (f (signed x fp32 2 ((i.rds x.a).toNat % 2 ^ 32)) (signed x fp32 1 ((i.rds x.b).toNat % 2 ^ 32))
      (signed x fp32 0 ((i.rds x.c).toNat % 2 ^ 32)))

/-- What FADD computes. -/
def resFadd (x : Arith) (i : Issuer) : Res :=
  i.fp x fun a b _ => fp32.add (i.round x.rnd) i.ftz (fp32.read i.ftz a) (fp32.read i.ftz b)

/-- The meaning of FADD (R107). -/
def execFadd (x : Arith) (s : State) : Host.Outcome State Fault Refusal :=
  s.plain true noCheck (arithUses x.d [x.a, x.b]) (resFadd x)

/-- What FSUB computes. -/
def resFsub (x : Arith) (i : Issuer) : Res :=
  i.fp x fun a b _ => fp32.add (i.round x.rnd) i.ftz (fp32.read i.ftz a) (fp32.read i.ftz b).negate

/-- The meaning of FSUB (R107). -/
def execFsub (x : Arith) (s : State) : Host.Outcome State Fault Refusal :=
  s.plain true noCheck (arithUses x.d [x.a, x.b]) (resFsub x)

/-- What FMUL computes. -/
def resFmul (x : Arith) (i : Issuer) : Res :=
  i.fp x fun a b _ => fp32.mulR (i.round x.rnd) i.ftz (fp32.read i.ftz a) (fp32.read i.ftz b)

/-- The meaning of FMUL (R107). -/
def execFmul (x : Arith) (s : State) : Host.Outcome State Fault Refusal :=
  s.plain true noCheck (arithUses x.d [x.a, x.b]) (resFmul x)

/-- The meaning of FFMA (R107). -/
def execFfma (x : Arith) (s : State) : Host.Outcome State Fault Refusal :=
  s.plain true noCheck (arithUses x.d [x.a, x.b, x.c]) fun i =>
    i.fp x fun a b c =>
      fp32.fma (i.round x.rnd) i.ftz (fp32.read i.ftz a) (fp32.read i.ftz b) (fp32.read i.ftz c)

/-- What FMIN computes. -/
def resFmin (x : Arith) (i : Issuer) : Res :=
  i.fp x fun a b _ => fp32.minmax false i.ftz a b

/-- The meaning of FMIN (R109). -/
def execFmin (x : Arith) (s : State) : Host.Outcome State Fault Refusal :=
  s.plain true noCheck (arithUses x.d [x.a, x.b]) (resFmin x)

/-- What FMAX computes. -/
def resFmax (x : Arith) (i : Issuer) : Res :=
  i.fp x fun a b _ => fp32.minmax true i.ftz a b

/-- The meaning of FMAX (R109). -/
def execFmax (x : Arith) (s : State) : Host.Outcome State Fault Refusal :=
  s.plain true noCheck (arithUses x.d [x.a, x.b]) (resFmax x)

/-- A comparison's result as a code with its flags. -/
def cmpCode (r : Bool × BitVec 5) : Nat × BitVec 5 := (boolNat r.1, r.2)

/-- The meaning of FCMP (R102, R110). -/
def execFcmp (x : Arith) (s : State) : Host.Outcome State Fault Refusal :=
  s.plain false noCheck (arithUses x.d [x.a, x.b]) fun i =>
    i.fp x fun a b _ => cmpCode (fcompare x.sub.toNat (fp32.read i.ftz a) (fp32.read i.ftz b))

/-- The meaning of FCLASS (R111): R88 does not act. -/
def execFclass (x : Arith) (s : State) : Host.Outcome State Fault Refusal :=
  s.plain false noCheck (arithUses x.d [x.a]) fun i => i.fp x fun a _ _ => (fp32.classMask a, 0)

/-- The meaning of FRCP (R112). -/
def execFrcp (x : Arith) (s : State) : Host.Outcome State Fault Refusal :=
  s.plain false noCheck (arithUses x.d [x.a]) fun i =>
    i.fp x fun a _ _ => fp32.rcp (i.round x.rnd) i.ftz (fp32.read i.ftz a)

/-- The meaning of FRSQ (R112). -/
def execFrsq (x : Arith) (s : State) : Host.Outcome State Fault Refusal :=
  s.plain false noCheck (arithUses x.d [x.a]) fun i =>
    i.fp x fun a _ _ => fp32.rsq (i.round x.rnd) i.ftz (fp32.read i.ftz a)

/-- The meaning of FSQRT (R112). -/
def execFsqrt (x : Arith) (s : State) : Host.Outcome State Fault Refusal :=
  s.plain false noCheck (arithUses x.d [x.a]) fun i =>
    i.fp x fun a _ _ => fp32.sqrt (i.round x.rnd) i.ftz (fp32.read i.ftz a)

/-- The meaning of FEXP2 (R112). -/
def execFexp2 (x : Arith) (s : State) : Host.Outcome State Fault Refusal :=
  s.plain false noCheck (arithUses x.d [x.a]) fun i =>
    i.fp x fun a _ _ => fp32.exp2 (i.round x.rnd) i.ftz (fp32.read i.ftz a)

/-- The meaning of FLOG2 (R112). -/
def execFlog2 (x : Arith) (s : State) : Host.Outcome State Fault Refusal :=
  s.plain false noCheck (arithUses x.d [x.a]) fun i =>
    i.fp x fun a _ _ => fp32.log2 (i.round x.rnd) i.ftz (fp32.read i.ftz a)

/-- The meaning of FSINP (R112, R113). -/
def execFsinp (x : Arith) (s : State) : Host.Outcome State Fault Refusal :=
  s.plain false noCheck (arithUses x.d [x.a]) fun i =>
    i.fp x fun a _ _ => fp32.sinp (i.round x.rnd) i.ftz (fp32.read i.ftz a)

/-- The meaning of FCOSP (R112, R113). -/
def execFcosp (x : Arith) (s : State) : Host.Outcome State Fault Refusal :=
  s.plain false noCheck (arithUses x.d [x.a]) fun i =>
    i.fp x fun a _ _ => fp32.cosp (i.round x.rnd) i.ftz (fp32.read i.ftz a)

/-- An I-form FP32 instruction: rounding by MODE.RM (R104). -/
def Issuer.fpImm (i : Issuer) (x : IForm) (f : FVal → FVal → Nat × BitVec 5) : Res :=
  let b := fp32.read i.ftz x.imm.toNat
  i.putF x.d (fun l => w32 (f (fp32.read i.ftz (i.rd x.a l).toNat) b))
    fun _ => w32 (f (fp32.read i.ftz ((i.rds x.a).toNat % 2 ^ 32)) b)

/-- The meaning of FADDI (R104). -/
def execFaddi (x : IForm) (s : State) : Host.Outcome State Fault Refusal :=
  s.plain false noCheck (iUses x) fun i => i.fpImm x fun a b => fp32.add i.rm i.ftz a b

/-- The meaning of FMULI (R104). -/
def execFmuli (x : IForm) (s : State) : Host.Outcome State Fault Refusal :=
  s.plain false noCheck (iUses x) fun i => i.fpImm x fun a b => fp32.mulR i.rm i.ftz a b

/-- The two BF16 halves of one element (R114). -/
def packed (f : Nat → Nat → Nat → Nat × BitVec 5) (a b c : Nat) : Word × BitVec 5 :=
  let lo := f (a % 2 ^ 16) (b % 2 ^ 16) (c % 2 ^ 16)
  let hi := f (a / 2 ^ 16) (b / 2 ^ 16) (c / 2 ^ 16)
  (BitVec.ofNat 32 (lo.1 + 2 ^ 16 * hi.1), lo.2 ||| hi.2)

/-- A packed BF16 instruction; NEG and ABS act on both halves (R114). -/
def Issuer.packedFp (i : Issuer) (x : Arith) (f : Nat → Nat → Nat → Nat × BitVec 5) : Res :=
  let g (a b c : Nat) : Nat × BitVec 5 := f (signed x bf16 2 a) (signed x bf16 1 b) (signed x bf16 0 c)
  i.putF x.d (fun l => packed g (i.rd x.a l).toNat (i.rd x.b l).toNat (i.rd x.c l).toNat)
    fun _ => packed g ((i.rds x.a).toNat % 2 ^ 32) ((i.rds x.b).toNat % 2 ^ 32) ((i.rds x.c).toNat % 2 ^ 32)

/-- What HADD2 computes. -/
def resHadd2 (x : Arith) (i : Issuer) : Res :=
  i.packedFp x fun a b _ => bf16.add (i.round x.rnd) i.ftz (bf16.read i.ftz a) (bf16.read i.ftz b)

/-- The meaning of HADD2 (R114). -/
def execHadd2 (x : Arith) (s : State) : Host.Outcome State Fault Refusal :=
  s.plain true noCheck (arithUses x.d [x.a, x.b]) (resHadd2 x)

/-- What HMUL2 computes. -/
def resHmul2 (x : Arith) (i : Issuer) : Res :=
  i.packedFp x fun a b _ => bf16.mulR (i.round x.rnd) i.ftz (bf16.read i.ftz a) (bf16.read i.ftz b)

/-- The meaning of HMUL2 (R114). -/
def execHmul2 (x : Arith) (s : State) : Host.Outcome State Fault Refusal :=
  s.plain true noCheck (arithUses x.d [x.a, x.b]) (resHmul2 x)

/-- The meaning of HFMA2 (R114). -/
def execHfma2 (x : Arith) (s : State) : Host.Outcome State Fault Refusal :=
  s.plain true noCheck (arithUses x.d [x.a, x.b, x.c]) fun i =>
    i.packedFp x fun a b c =>
      bf16.fma (i.round x.rnd) i.ftz (bf16.read i.ftz a) (bf16.read i.ftz b) (bf16.read i.ftz c)

/-- What HMAX2 computes. -/
def resHmax2 (x : Arith) (i : Issuer) : Res :=
  i.packedFp x fun a b _ => bf16.minmax true i.ftz a b

/-- The meaning of HMAX2 (R114). -/
def execHmax2 (x : Arith) (s : State) : Host.Outcome State Fault Refusal :=
  s.plain true noCheck (arithUses x.d [x.a, x.b]) (resHmax2 x)

/-- The meaning of HMIN2 (R114). -/
def execHmin2 (x : Arith) (s : State) : Host.Outcome State Fault Refusal :=
  s.plain true noCheck (arithUses x.d [x.a, x.b]) fun i => i.packedFp x fun a b _ => bf16.minmax false i.ftz a b

/-- An FP64 instruction in 64-bit positions (R115). -/
def Issuer.dp (i : Issuer) (x : Arith) (f : Nat → Nat → Nat → Nat × BitVec 5) : Res :=
  let g (rd : Operand → DWord) : DWord × BitVec 5 :=
    w64 (f (signed x fp64 2 (rd x.a).toNat) (signed x fp64 1 (rd x.b).toNat) (signed x fp64 0 (rd x.c).toNat))
  i.putFq x.d (fun l => g fun o => i.rdq o l) fun _ => g fun o => i.rds o

/-- The meaning of DADD (R115). -/
def execDadd (x : Arith) (s : State) : Host.Outcome State Fault Refusal :=
  s.plain false noCheck (wideUses x.d [x.a, x.b]) fun i =>
    i.dp x fun a b _ => fp64.add (i.round x.rnd) i.ftz (fp64.read i.ftz a) (fp64.read i.ftz b)

/-- The meaning of DSUB (R115). -/
def execDsub (x : Arith) (s : State) : Host.Outcome State Fault Refusal :=
  s.plain false noCheck (wideUses x.d [x.a, x.b]) fun i =>
    i.dp x fun a b _ => fp64.add (i.round x.rnd) i.ftz (fp64.read i.ftz a) (fp64.read i.ftz b).negate

/-- The meaning of DMUL (R115). -/
def execDmul (x : Arith) (s : State) : Host.Outcome State Fault Refusal :=
  s.plain false noCheck (wideUses x.d [x.a, x.b]) fun i =>
    i.dp x fun a b _ => fp64.mulR (i.round x.rnd) i.ftz (fp64.read i.ftz a) (fp64.read i.ftz b)

/-- The meaning of DFMA (R115). -/
def execDfma (x : Arith) (s : State) : Host.Outcome State Fault Refusal :=
  s.plain false noCheck (wideUses x.d [x.a, x.b, x.c]) fun i =>
    i.dp x fun a b c => fp64.fma (i.round x.rnd) i.ftz (fp64.read i.ftz a) (fp64.read i.ftz b) (fp64.read i.ftz c)

/-- The meaning of DMIN (R115). -/
def execDmin (x : Arith) (s : State) : Host.Outcome State Fault Refusal :=
  s.plain false noCheck (wideUses x.d [x.a, x.b]) fun i => i.dp x fun a b _ => fp64.minmax false i.ftz a b

/-- The meaning of DMAX (R115). -/
def execDmax (x : Arith) (s : State) : Host.Outcome State Fault Refusal :=
  s.plain false noCheck (wideUses x.d [x.a, x.b]) fun i => i.dp x fun a b _ => fp64.minmax true i.ftz a b

/-- The meaning of DCMP (R115): a 32-bit D. -/
def execDcmp (x : Arith) (s : State) : Host.Outcome State Fault Refusal :=
  s.plain false noCheck [Use.w x.d, Use.q x.a, Use.q x.b] fun i =>
    let g (rd : Operand → DWord) : Word × BitVec 5 :=
      w32 (cmpCode (fcompare x.sub.toNat (fp64.read i.ftz (signed x fp64 2 (rd x.a).toNat))
        (fp64.read i.ftz (signed x fp64 1 (rd x.b).toNat))))
    i.putF x.d (fun l => g fun o => i.rdq o l) fun _ => g fun o => i.rds o

end Sys2Proof.Machine
end

