-- ==== Sys2Proof/Machine/Cvt.lean ====
section
/-! DEFINITION. The conversions: CVT, CVTS, DBQ and DBX (R116 to R120, R89 to R91). -/
namespace Sys2Proof.Machine

/-- The binary format of a floating-point format code (R81). -/
def fmtOf (code : Nat) : Fmt :=
  match code with
  | 0x2 => bf16
  | 0x3 => kf8
  | 0x4 => kf8w
  | 0xB => fp64
  | _ => fp32

/-- Whether a format code stands in a 64-bit position (R117). -/
def wideCode (code : Nat) : Bool := code == 0xB || code == 0xC

/-- The width of a format's element in bits (R81, R116). -/
def codeBits (code : Nat) : Nat :=
  match code with
  | 0x2 => 16 | 0x3 => 8 | 0x4 => 8 | 0x7 => 8 | 0x8 => 4 | 0xB => 64 | 0xC => 64 | 0x5 => 8 | 0x6 => 4 | _ => 32

/-- The range of an integer format (R73). -/
def intRange (code : Nat) : Int × Int :=
  match code with
  | 0x7 => (-128, 127)
  | 0x8 => (-8, 7)
  | 0xA => (0, 4294967295)
  | 0xC => (-9223372036854775808, 9223372036854775807)
  | _ => (-2147483648, 2147483647)

/-- The integer that a code of an integer format holds. -/
def intOf (code x : Nat) : Int := if code = 0xA then ((x % 2 ^ 32 : Nat) : Int) else sxNat x (codeBits code)

/-- The exact value of a source code (R117): R88 acts on FP64, FP32 and BF16. -/
def sourceVal (code : Nat) (ftz : Bool) (x : Nat) : FVal :=
  if intCode code then .ofInt (intOf code x)
  else (fmtOf code).read (ftz && (fmtOf code).ieee) x

/-- A value converted to a format code that is no integer (R86, R89). -/
def toFloatCode (code rm : Nat) (ftz : Bool) (x : FVal) : Nat × BitVec 5 :=
  if code = 0x3 || code = 0x4 then (fmtOf code).narrow rm x else (fmtOf code).put rm ftz x

/-- The low bits of an integer in a format's width. -/
def intCodeOf (code : Nat) (v : Int) : Nat := (v.emod ((2 ^ codeBits code : Nat) : Int)).toNat

/-- The conversion of CVT from one code to another (R117): the destination's code and the flags. `sat` is SAT or
MODE.ISAT. R90 speaks of a wider integer source only; for one that is not wider (I32 to U32, I8 to U32 and the like) the model
does the same: clamped under `sat`, else the low bits (DESIGN CHOICE: notes/assumptions 49). -/
def convert (df sf rm : Nat) (ftz sat : Bool) (x : Nat) : Nat × BitVec 5 :=
  if df = sf then (fmtOf df).integral rm ftz ((fmtOf df).read ftz x)
  else if intCode df then
    if intCode sf then
      let v := intOf sf x
      let (lo, hi) := intRange df
      (intCodeOf df (if sat then (if v < lo then lo else if hi < v then hi else v) else v), 0)
    else
      let r := toIntRange rm (intRange df).1 (intRange df).2 (sourceVal sf ftz x)
      (intCodeOf df r.1, r.2)
  else toFloatCode df rm ftz (sourceVal sf ftz x)

/-- Element `n` of a word in a narrow format. -/
def elementOf (code n x : Nat) : Nat := (x >>> (n * codeBits code)) % 2 ^ codeBits code

/-- A word with element `n` replaced (R117). -/
def setElement (code n : Nat) (c : Word) (y : Nat) : Word :=
  let w := codeBits code
  let m := BitVec.ofNat 32 ((2 ^ w - 1) <<< (n * w))
  (c &&& ~~~m) ||| (BitVec.ofNat 32 (y <<< (n * w)) &&& m)

/-- The uses of CVT (R116, R117): 64-bit positions for F64 and I64, C only for a narrow destination. -/
def cvtUses (x : CvtArgs) : List Use :=
  [if wideCode x.df.toNat then Use.wq x.d else Use.w x.d, if wideCode x.sf.toNat then Use.q x.a else Use.r x.a]
  ++ if narrowBits x.df.toNat != 0 then [Use.r x.c] else []

/-- The code that CVT converts: element `n` of a narrow source (R117). -/
def cvtSource (sf n x : Nat) : Nat := if narrowBits sf != 0 then elementOf sf n x else x % 2 ^ codeBits sf

/-- The meaning of CVT (R116, R117). -/
def execCvt (x : CvtArgs) (s : State) : Host.Outcome State Fault Refusal :=
  let df := x.df.toNat
  let sf := x.sf.toNat
  let n := x.sub.toNat
  s.plain (!wideCode df && !wideCode sf) noCheck (cvtUses x) fun i =>
    let go (a : Nat) : Nat × BitVec 5 := convert df sf (i.round x.rnd) i.ftz (i.sat x.sat) (cvtSource sf n a)
    let lane (l : Nat) : Nat × BitVec 5 := go (if wideCode sf then (i.rdq x.a l).toNat else (i.rd x.a l).toNat)
    if narrowBits df != 0 then
      i.putF x.d (fun l => let r := lane l; (setElement df n (i.rd x.c l) r.1, r.2))
        fun _ => let r := go (i.rds x.a).toNat; (setElement df n ((i.rds x.c).setWidth 32) r.1, r.2)
    else if wideCode df then
      i.putFq x.d (fun l => w64 (lane l)) fun _ => w64 (go (i.rds x.a).toNat)
    else
      match x.d with
      | .s k =>
        let r := go (i.rds x.a).toNat
        ⟨[], [(k.val, if df = 0x9 then BitVec.ofInt 64 (sxNat r.1 32) else BitVec.ofNat 64 r.1)], r.2⟩
      | _ => i.putF x.d (fun l => w32 (lane l)) fun _ => w32 (go 0)

/-! ### Format slots -/

/-- Format slot `k` of the launch (R39). -/
def Issuer.slot (i : Issuer) (k : Nat) : Nat := match i.slots[k]? with | some b => b.toNat | none => 0
/-- The FMT field of a slot. -/
def slotFmt (b : Nat) : Nat := bitsOf b 7 0
/-- The K field of a slot. -/
def slotK (b : Nat) : Nat := bitsOf b 15 8
/-- The LAYOUT field of a slot. -/
def slotLayout (b : Nat) : Nat := bitsOf b 23 16
/-- The SPARSE field of a slot. -/
def slotSparse (b : Nat) : Nat := bitsOf b 31 24
/-- The TSCALE field of a slot. -/
def slotTscale (b : Nat) : Nat := bitsOf b 63 32
/-- The SCALES field of a slot. -/
def slotScales (b : Nat) : Nat := bitsOf b 127 64

/-- The slot formats CVTS accepts (R118), and its limit on the element index. -/
def cvtsCheck (x : CvtsArgs) : WordCheck := fun i =>
  let f := slotFmt (i.slot x.slot.toNat)
  let w := narrowBits f
  if w = 0 || 32 / w ≤ x.sub.toNat then some .illop else none

/-- The exact product of two values; an invalid one is a NaN that sets NV. -/
def scaledVal (x y : FVal) : FVal :=
  if x.isNan || y.isNan then
    .nan ([x, y].any fun v => match v with | .nan s => s | _ => false)
  else match x.mul y with | some p => p | none => .nan true

/-- CVTS.Q of one value (R118): the exact product with TSCALE, converted once, integers saturating. -/
def quantise (f rm : Nat) (ftz : Bool) (ts a : Nat) : Nat × BitVec 5 :=
  let p := scaledVal (fp32.read ftz a) (fp32.decode ts)
  if intCode f then
    let r := toIntRange rm (intRange f).1 (intRange f).2 p
    (intCodeOf f r.1, r.2)
  else toFloatCode f rm ftz p

/-- CVTS.DQ of one element (R118): a zero has the sign of the product, so integer 0 under a negative TSCALE gives -0 (DESIGN CHOICE:
notes/assumptions 25). -/
def dequantise (f rm : Nat) (ftz : Bool) (ts e : Nat) : Nat × BitVec 5 :=
  fp32.put rm ftz (scaledVal (sourceVal f ftz e) (fp32.decode ts))

/-- The meaning of CVTS (R118). -/
def execCvts (x : CvtsArgs) (s : State) : Host.Outcome State Fault Refusal :=
  let n := x.sub.toNat
  s.plain false (cvtsCheck x) ([Use.w x.d, Use.r x.a] ++ if x.dq then [] else [Use.r x.c]) fun i =>
    let b := i.slot x.slot.toNat
    let f := slotFmt b
    let rm := i.round x.rnd
    let go (a c : Word) : Word × BitVec 5 :=
      if x.dq then w32 (dequantise f rm i.ftz (slotTscale b) (elementOf f n a.toNat))
      else let r := quantise f rm i.ftz (slotTscale b) a.toNat; (setElement f n c r.1, r.2)
    i.putF x.d (fun l => go (i.rd x.a l) (i.rd x.c l)) fun _ => go ((i.rds x.a).setWidth 32) ((i.rds x.c).setWidth 32)

/-! ### Block formats -/

/-- The slot formats of DBQ and DBX (R119, R120). -/
def blockCheck (k : BitVec 3) : WordCheck := fun i =>
  let f := slotFmt (i.slot k.toNat)
  if f = 5 || f = 6 then none else some .illop

/-- The bias and the largest q of a block format (R91). -/
def blockBias (f : Nat) : Nat × Nat := if f = 5 then (132, 63) else (128, 3)

/-- q for one magnitude and one shared exponent, and the error it leaves (R91). -/
def blockQ (f e : Nat) (m : Nat) (ex : Int) : Nat × FVal :=
  let (bias, qmax) := blockBias f
  let step : Int := (e : Int) - bias
  let q := min (roundUnits 0 false m ex step false).1 qmax
  let d := addExact false m ex true q step
  (q, .fin false d.1.natAbs d.2)

/-- One element of a block (R91): its code, and whether its value differs from the input. -/
def blockElement (f e0 e1 : Nat) (x : Nat) : Nat × Bool :=
  match fp32.decode x with
  | .fin neg m ex =>
    let r0 := blockQ f e0 m ex
    let r1 := blockQ f e1 m ex
    let one := r1.2.lt false r0.2
    let r := if one then r1 else r0
    let w := codeBits f
    (boolNat neg * 2 ^ (w - 1) + boolNat one * 2 ^ (w - 2) + r.1, match r.2 with | .fin _ d _ => d != 0 | _ => false)
  | _ => (0, false)

/-- A block of 32 FP32 codes quantised (R91): element codes, E0, E1, flags. -/
def quantiseBlock (f k : Nat) (xs : List Nat) : List Nat × Nat × Nat × BitVec 5 :=
  let vs := xs.map fp32.decode
  if vs.any (fun v => match v with | .fin _ _ _ => false | _ => true) then (xs.map fun _ => 0, 255, 255, fNV)
  else
    let tops := vs.filterMap fun v => match v with
      | .fin _ m e => if m = 0 then none else some ((m.log2 : Int) + e + 127)
      | _ => none
    let e0 := (tops.foldl (fun (a b : Int) => if a < b then b else a) 0).toNat
    let e1 := e0 - k
    let es := xs.map (blockElement f e0 e1)
    (es.map (·.1), e0, e1, if es.any (·.2) then fNX else 0)

/-- The 32 FP32 inputs of a block: lane i's element, +0 from a lane that is not active (R119). -/
def Issuer.blockInputs (i : Issuer) (a : Operand) : List Nat :=
  (List.range 32).map fun l => if i.active.getLsbD l then (i.rd a l).toNat else 0

/-- Packed codes as one word. -/
def packCodes (w : Nat) (cs : List Nat) : Nat := cs.foldr (fun c n => c + 2 ^ w * n) 0

/-- What lane `l` receives from DBQ (R119). -/
def blockLane (f : Nat) (packedOut : Bool) (r : List Nat × Nat × Nat × BitVec 5) (l : Nat) : Word :=
  let (cs, e0, e1, _) := r
  let w := codeBits f
  let n := 32 / w
  BitVec.ofNat 32
    (if !packedOut then (cs[l]?).getD 0 + e0 * 2 ^ 16 + e1 * 2 ^ 24
     else if l < w then packCodes w ((cs.drop (n * l)).take n)
     else if l = 31 then e0 + e1 * 2 ^ 8 else 0)

/-- The meaning of DBQ (R119). -/
def execDbq (x : Arith) (s : State) : Host.Outcome State Fault Refusal :=
  s.plain false (blockCheck x.slot) (arithUses x.d [x.a]) fun i =>
    let b := i.slot x.slot.toNat
    let r := quantiseBlock (slotFmt b) (slotK b) (i.blockInputs x.a)
    match x.d with
    | .v n => if i.acts.isEmpty then .none else ⟨i.vec n.val fun l => blockLane (slotFmt b) (x.sub == 1) r l, [], r.2.2.2⟩
    | _ => .none

/-- The FP32 value of a block element (R78, R79, R120). -/
def blockValue (f code e0 e1 : Nat) : FVal :=
  let w := codeBits f
  if e0 = 255 || e1 = 255 then .nan false
  else .fin (code.testBit (w - 1)) (code % 2 ^ (w - 2))
        (((if code.testBit (w - 2) then e1 else e0 : Nat) : Int) - (blockBias f).1)

/-- The meaning of DBX (R120). -/
def execDbx (x : Arith) (s : State) : Host.Outcome State Fault Refusal :=
  s.plain false (blockCheck x.slot) (arithUses x.d [x.a, x.b]) fun i =>
    let f := slotFmt (i.slot x.slot.toNat)
    let go (a b : Word) : Word × BitVec 5 :=
      (BitVec.ofNat 32 (fp32.put 0 false (blockValue f (a.toNat % 2 ^ codeBits f) (bitsOf b.toNat 23 16) (bitsOf b.toNat 31 24))).1, 0)
    i.putF x.d (fun l => go (i.rd x.a l) (i.rd x.b l)) fun _ => go ((i.rds x.a).setWidth 32) ((i.rds x.b).setWidth 32)

end Sys2Proof.Machine
end

