-- ==== Sys2Proof/Machine/Far.lean ====
section
/-! DEFINITION. Host and peer memory behind the links (R169, R373, R374): requests that go out, and what becomes of them. -/
namespace Sys2Proof.Machine

/-- Whether a physical address is host or peer memory (R169). -/
def isFar (pa : Nat) : Bool := paTier pa = some 2

/-- The peer port of an address of a peer range (R169); none for the host's. -/
def peerPort (pa : Nat) : Option Nat :=
  if 0x100000000000 ≤ pa then some ((pa - 0x100000000000) / 0x10000000000) else none

/-- The address on the link (R373, R374): none through a port that is down or a disabled aperture. -/
def State.linkAddr (s : State) (pa : Nat) : Option Nat :=
  match peerPort pa with
  | none => some (pa - 0x20000000000)
  | some p =>
    let o := (pa - 0x100000000000) % 0x10000000000
    if s.peerDown.contains p then none
    else (Config.aperture s.config p (o / 0x100000000)).map fun b => b * 0x100000000 + o % 0x100000000

/-- The page under which ATS knows an address (R373, R374): of host memory that of the link, of a peer's that of the device, which the
first never reach. -/
def atsPage (pa a : Nat) : Nat := if (peerPort pa).isSome then pa / 4096 else a / 4096

/-- A request to host or peer memory, marked translated where ATS has given its page (R373, R374). -/
def State.farReq (s : State) (pa : Nat) (k : FarKind) : Option FarReq :=
  (s.linkAddr pa).map fun a =>
    ⟨a, (s.ats.find? (·.1 == atsPage pa a)).map fun e => e.2 * 4096 + a % 4096, peerPort pa, k⟩

/-- A request goes out; whether it fails is free (R373), and certain through a port that is down or a disabled aperture (R374). -/
def State.farSend (s : State) (pa : Nat) (k : FarKind) : Bool × State :=
  match s.farReq pa k with
  | none => (true, s)
  | some r => { s with farOut := s.farOut ++ [r] }.drawBool

/-- A read of a word of host or peer memory: whether it fails. -/
def State.farRead (s : State) (pa : Nat) : Bool × State := s.farSend pa .read

/-- A write that has gone out waits for its acknowledgement (R199), and changes memory unless it fails (R373). -/
def State.farSettle (s t : State) (bad : Bool) (go : State → State) : State :=
  let t := if s.farOut.length < t.farOut.length then { t with farPend := t.farPend + 1 } else t
  if bad then t else go t

/-- The bytes of one word written to host or peer memory. -/
def State.farWord (s : State) (w : Nat) (bs : List (Nat × Byte)) : State :=
  let at_ (i : Nat) : Option Byte := (bs.reverse.find? fun e => e.1 = 4 * w + i).map (·.2)
  let v := leNat ((List.range 4).map fun i => (at_ i).getD 0)
  let m := (List.range 4).foldl (fun n i => if (at_ i).isSome then n + 2 ^ i else n) 0
  let (bad, t) := s.farSend (4 * w) (.write (BitVec.ofNat 32 v) (BitVec.ofNat 4 m))
  s.farSettle t bad fun t => t.writeMem none none (bs.filter fun e => e.1 / 4 = w)

/-- Writes of bytes to host or peer memory go out, one request for each word (R373). -/
def State.farWrite (s : State) (bs : List (Nat × Byte)) : State := (wordsOf bs).foldl (fun s w => s.farWord w bs) s

/-- A frame of host or peer memory filled with zeros (R185). -/
def State.farZero (s : State) (pa n : Nat) : State :=
  let (bad, t) := s.farSend pa (.zero n)
  s.farSettle t bad fun t => { t with mem := stClear (w := 8) t.mem pa (pa + n) }

end Sys2Proof.Machine
end

