-- ==== Sys2Proof/Machine/Faults.lean ====
section
/-! DEFINITION. Faults of speculative instructions (R216) and gathered page faults (R362, R363): a fault is held in the
tail, taken when the tail has committed up to it, and a gathered one waits in the core's filter and the cluster's
stage first. -/
namespace Sys2Proof.Machine

/-- A gang begins to wait on its gathered faults (R362). -/
def State.startWait (s : State) (g : Nat) (t : TrapInfo) : State :=
  match s.gangs[g]? with
  | some G =>
    let s := s.count G.part (s.ctxOf G.grp) 0x23 t.gather.length
    (s.updGang g fun G => { G with fwait := some ⟨t, t.gather.map fun u => (u.1, u.2, 0)⟩ }).gather
  | none => s

/-- Malformed entries that a gang's walks met are recorded (R173). -/
def State.recordWalks (s : State) (g : Nat) (l : List Nat) : State :=
  match s.gangs[g]? with
  | some G => l.foldl (fun s pte => s.recordWalk G.part (s.ctxOf G.grp) G.grp pte) s
  | none => s

/-- A malformed entry that an instruction's walk met without a trap (R240): its record belongs to the open tail, so that a shed
leaves none (R192), or is written at once. -/
def State.noteWalk (s : State) (g pte : Nat) : State :=
  match s.gangs[g]? with
  | some G =>
    match G.tail with
    | some t => s.updGang g fun G => { G with tail := some { t with walks := t.walks ++ [pte] } }
    | none => s.recordWalks g [pte]
  | none => s

/-- A fault is taken: the malformed entries of its walks are recorded (R173), and it waits where it is gathered (R362), else the
trap is entered (R155). -/
def State.fault (s : State) (g : Nat) (t : TrapInfo) : State :=
  let s := s.recordWalks g t.walks
  if t.gather.isEmpty then s.takeTrap g t else s.startWait g t

/-- The lanes of a wait's units in one state. -/
def FaultWait.lanesIn (w : FaultWait) (st : Nat) : BitVec 32 :=
  w.units.foldl (fun m u => if u.2.2 = st then m ||| u.2.1 else m) 0

/-- The faulting lanes of a gathered fault replay when its gang issues again, and no other lane (R157, R362, R363). -/
def Gang.replayFault (g : Gang) (t : TrapInfo) : Gang :=
  let m := t.lanes ||| t.retry
  { g with slices := g.slices.mapIdx fun i sl =>
      if t.frag.getLsbD i && !t.once then { sl with replay := some (BitVec.ofNat 4 (bitsOf m.toNat (4 * i + 3) (4 * i))) } else sl }

/-- A gang whose units are all settled goes on (R363): a replay of the faulting lanes when all resolved, else PAGEFAULT
with the failed lanes in LANES and the resolved ones in RETRY. -/
def State.settleWait (s : State) (g : Nat) : State :=
  match s.gangs[g]? with
  | none => s
  | some G =>
    match G.fwait with
    | none => s
    | some w =>
      if w.units.any fun u => u.2.2 = 0 then s
      else
        let s := s.updGang g fun G => { G with fwait := none }
        if w.units.any fun u => u.2.2 = 2 then
          s.takeTrap g { w.trap with lanes := w.lanesIn 2, retry := w.trap.retry ||| w.lanesIn 1, gather := [] }
        else s.updGang g fun G => G.replayFault w.trap

/-- A fault held in the open tail, with the gang as it stands (R216); the earliest one stays. -/
def Gang.hold (g : Gang) (t : TrapInfo) : Gang :=
  match g.tail with
  | some tl =>
    match tl.held with
    | some _ => g
    | none => { g with tail := some { tl with held := some ⟨t, g.ckpt, g.v, g.s, g.sv, g.ss, tl.xts, tl.sbuf, g.pend, tl.walks⟩ } }
  | none => g

/-- The end of an instruction that is not irrevocable: on to PC + 8, or its fault held in the tail with the gang going
on (R216), or taken at once in crawl mode (R215). -/
def State.conclude (s : State) (g : Nat) (m : BitVec 8) (t : Option TrapInfo) : State :=
  match t with
  | none => s.updGang g fun G => G.advance m
  | some t =>
    match s.gangs[g]? with
    | some G => if G.tail.isNone then s.fault g t else s.updGang g fun G => (G.hold t).advance m
    | none => s

end Sys2Proof.Machine
end

