-- ==== Sys2Proof/Machine/Tile.lean ====
section
/-! DEFINITION. Mapped tiles (R254 to R263): headers, reading through them, composing edits, materialisation, and the
tile events over memory. -/
namespace Sys2Proof.Machine

/-- A tile header (R255): FP32 codes, the permutation, the element format and the flags. -/
structure Hdr where
  a : Nat
  b : Nat
  lo : Nat
  hi : Nat
  r : Nat
  m : Nat
  efmt : Nat
  ident : Bool
  filled : Bool
  seq : Nat
  deriving DecidableEq, Repr

/-- +Inf, -Inf and 1.0 in FP32. -/
def cPInf : Nat := 0x7F800000
def cNInf : Nat := 0xFF800000
def cOne : Nat := 0x3F800000

/-- The identity header (R256). -/
def Hdr.identity (efmt seq : Nat) : Hdr := ⟨cOne, 0, cNInf, cPInf, 0, 0, efmt, true, false, seq % 2 ^ 16⟩

/-- The 256 bits of a header as fields (R255). -/
def Hdr.ofNat (x : Nat) : Hdr :=
  { a := bitsOf x 31 0, b := bitsOf x 63 32, lo := bitsOf x 95 64, hi := bitsOf x 127 96, r := bitsOf x 131 128,
    m := bitsOf x 139 132, efmt := bitsOf x 163 160, ident := bitOf x 168, filled := bitOf x 169, seq := bitsOf x 191 176 }

/-- The 256 bits of a header (R255). -/
def Hdr.toNat (h : Hdr) : Nat :=
  h.a + h.b * 2 ^ 32 + h.lo * 2 ^ 64 + h.hi * 2 ^ 96 + h.r * 2 ^ 128 + h.m * 2 ^ 132 + h.efmt * 2 ^ 160
  + boolNat h.ident * 2 ^ 168 + boolNat h.filled * 2 ^ 169 + h.seq * 2 ^ 176

/-- The index width n of an element format (R255). -/
def indexWidth (efmt : Nat) : Nat := match efmt with | 1 => 6 | 2 => 7 | _ => 8

/-- Whether an FP32 code is a NaN. -/
def isNan32 (c : Nat) : Bool := (fp32.decode c).isNan

/-- FP32 order with -0 below +0. -/
def lt32 (a b : Nat) : Bool := (fp32.decode a).lt true (fp32.decode b)

/-- Whether the 256 bits of a header are malformed (R257). -/
def hdrMalformed (x : Nat) : Bool :=
  let h := Hdr.ofNat x
  bitsOf x 255 192 != 0 || bitsOf x 175 170 != 0 || bitsOf x 167 164 != 0 || bitsOf x 159 144 != 0 || bitsOf x 143 140 != 0
  || h.efmt = 0 || 4 < h.efmt || indexWidth h.efmt ≤ h.r || 2 ^ indexWidth h.efmt ≤ h.m
  || (h.ident && h != Hdr.identity h.efmt h.seq)
  || (!h.filled && (isNan32 h.a || isNan32 h.b || isNan32 h.lo || isNan32 h.hi || lt32 h.hi h.lo))

/-- The index rotation of R259. -/
def rotIdx (i r n : Nat) : Nat := (i * 2 ^ r) % 2 ^ n + i / 2 ^ (n - r)

/-- The larger and the smaller of two FP32 codes that are no NaN, -0 below +0. -/
def max32 (a b : Nat) : Nat := (fp32.minmax true false a b).1
def min32 (a b : Nat) : Nat := (fp32.minmax false false a b).1

/-- fma into FP32, to nearest even, subnormals kept (R258, R260). -/
def fma32 (a x b : Nat) : Nat := (fp32.fma 0 false (fp32.decode a) (fp32.decode x) (fp32.decode b)).1

/-- A value clamped; a NaN passes (R258, R261). -/
def clamp32 (y lo hi : Nat) : Nat := if isNan32 y then y else min32 (max32 y lo) hi

/-- The element format's binary format (R81). -/
def efmtOf (e : Nat) : Fmt := match e with | 2 => bf16 | 3 => kf8 | 4 => kf8w | _ => fp32

/-- An element widened exactly to FP32 (R258). -/
def widen (efmt c : Nat) : Nat := if efmt = 1 then c else (fp32.put 0 false ((efmtOf efmt).decode c)).1

/-- An FP32 code in the element format (R258); a NaN is canonical (R74). -/
def narrowTo (efmt y : Nat) : Nat :=
  match efmt with
  | 1 => if (fp32.decode y).isNan then fp32.nan else y
  | 2 => (bf16.put 0 false (fp32.decode y)).1
  | _ => ((efmtOf efmt).narrow 0 (fp32.decode y)).1

/-- The bytes of an element. -/
def elemBytes (efmt : Nat) : Nat := match efmt with | 1 => 4 | 2 => 2 | _ => 1

/-- The elements of a payload. -/
def elements (efmt : Nat) (bs : List Byte) : List Nat :=
  let w := elemBytes efmt
  (List.range (2 ^ indexWidth efmt)).map fun j => leNat ((bs.drop (w * j)).take w)

/-- A payload from its elements. -/
def payloadOf (efmt : Nat) (es : List Nat) : List Byte := es.flatMap fun e => leBytes (elemBytes efmt) e

/-- One logical element of a header over a payload (R258). -/
def Hdr.element (h : Hdr) (es : List Nat) (j : Nat) : Nat :=
  if h.ident then (es[j]?).getD 0
  else if h.filled then narrowTo h.efmt h.b
  else
    let x := widen h.efmt ((es[rotIdx j h.r (indexWidth h.efmt) ^^^ h.m]?).getD 0)
    narrowTo h.efmt (clamp32 (fma32 h.a x h.b) h.lo h.hi)

/-- The logical image of a tile (R227, R258). -/
def Hdr.image (h : Hdr) (bs : List Byte) : List Byte :=
  if h.ident then bs
  else
    let es := elements h.efmt bs
    payloadOf h.efmt ((List.range (2 ^ indexWidth h.efmt)).map (h.element es))

/-- The payload words (0 to 63) that a read of `n` bytes at offset `off` of the image reads. -/
def Hdr.readWords (h : Hdr) (off n : Nat) : List Nat :=
  if h.ident then (List.range n).foldl (fun l i => insNat l ((off + i) / 4)) []
  else if h.filled then []
  else
    let w := elemBytes h.efmt
    (List.range n).foldl (fun l i =>
      insNat l ((rotIdx ((off + i) / w) h.r (indexWidth h.efmt) ^^^ h.m) * w / 4)) []

/-- A map that an edit applies (R260). -/
structure Edit where
  a : Nat
  b : Nat
  lo : Nat
  hi : Nat
  r : Nat
  m : Nat
  deriving DecidableEq, Repr

/-- A header made a fill (R261). -/
def Hdr.fill (h : Hdr) (v : Nat) : Hdr :=
  { h with a := 0, b := v, lo := cNInf, hi := cPInf, r := 0, m := 0, filled := true, ident := false, seq := (h.seq + 1) % 2 ^ 16 }

/-- Whether an FP32 code is a zero. -/
def isZero32 (c : Nat) : Bool := c % 2 ^ 31 = 0

/-- Whether an FP32 code is an infinity or a NaN, or a magnitude below 2^-126. -/
def notFinite32 (c : Nat) : Bool := cPInf ≤ c % 2 ^ 31
def tiny32 (c : Nat) : Bool := c % 2 ^ 31 < 0x800000

/-- An edit composed into a header (R260, R261); none where the tile must be materialised first (R262). -/
def Hdr.compose (h : Hdr) (e : Edit) : Option Hdr :=
  let n := indexWidth h.efmt
  if h.filled then
    let v := if isZero32 e.a then clamp32 e.b e.lo e.hi else clamp32 (fma32 e.a h.b e.b) e.lo e.hi
    some { h with b := v, ident := false, seq := (h.seq + 1) % 2 ^ 16 }
  else if isZero32 e.a then some (h.fill (clamp32 e.b e.lo e.hi))
  else
    let a' := (fp32.mulR 0 false (fp32.decode e.a) (fp32.decode h.a)).1
    let b' := fma32 e.a h.b e.b
    if notFinite32 a' || notFinite32 b' || tiny32 a' then none
    else
      let pos := lt32 0 e.a
      let l := fma32 e.a (if pos then h.lo else h.hi) e.b
      let u := fma32 e.a (if pos then h.hi else h.lo) e.b
      let lo' := max32 l e.lo
      let hi' := min32 u e.hi
      if lt32 hi' lo' then some (h.fill (if lt32 u e.lo then e.lo else e.hi))
      else some { h with a := a', b := b', lo := lo', hi := hi', r := (h.r + e.r) % n, m := rotIdx e.m h.r n ^^^ h.m,
                         ident := false, seq := (h.seq + 1) % 2 ^ 16 }

/-- The payload that R262 writes: the edit's own map over the materialised payload. -/
def Hdr.applied (h : Hdr) (e : Edit) (bs : List Byte) : List Byte :=
  let flat := Hdr.mk e.a e.b e.lo e.hi e.r e.m h.efmt false false 0
  flat.image (h.image bs)

/-! ### Tile events over memory -/

/-- Where a tile lies: its first payload byte, its header, and the leaf. -/
structure Tile where
  pa : Nat
  hpa : Nat
  leaf : Leaf
  deriving DecidableEq, Repr

/-- The tile of an address on a mapped page (R254). The spec does not say whether an HFRAME outside populated stack or bulk memory
counts as a frame that R169 refuses: the model never refuses it, and reads and writes its bytes as memory (DESIGN CHOICE:
notes/assumptions 53). -/
def tileOf (l : Leaf) (pa : Nat) : Tile :=
  ⟨pa / 256 * 256, l.hframe + 32 * ((pa - l.frame) / 256), l⟩

/-- The words of a tile: 64 of payload and 8 of header, one unit for the directory (R265). -/
def Tile.words (t : Tile) : List Nat :=
  ((List.range 64).map fun i => t.pa / 4 + i) ++ (List.range 8).map fun i => t.hpa / 4 + i

/-- The header of a tile on a discarded page (R185, R274): the identity with the format that its place holds. -/
def discardedHdr (x : Nat) : Nat :=
  let e := bitsOf x 163 160
  (Hdr.identity (if 1 ≤ e && e ≤ 4 then e else 1) 0).toNat

/-- The header bits of a tile; on a discarded page the identity with the EFMT its place holds (R185). -/
def State.tileHdr (s : State) (t : Tile) : Nat :=
  let x := memNat s.mem t.hpa 32
  if leafDiscard s.mem t.leaf then discardedHdr x else x

/-- The payload bytes of a tile; zeros on a discarded page. -/
def State.tilePayload (s : State) (t : Tile) : List Byte :=
  if leafDiscard s.mem t.leaf then List.replicate 256 0 else memBytes s.mem t.pa 256

/-- The logical image of a tile as memory holds it. -/
def State.tileImage (s : State) (t : Tile) : List Byte := (Hdr.ofNat (s.tileHdr t)).image (s.tilePayload t)

/-- Whether a word is poisoned. -/
def State.isPoisoned (s : State) (w : Nat) : Bool := s.poison.contains w

/-- Whether a header word of a tile is poisoned. -/
def State.hdrPoisoned (s : State) (t : Tile) : Bool := (List.range 8).any fun i => s.isPoisoned (t.hpa / 4 + i)

/-- Whether the frame, the headers and the entry of a page are ready (R375). -/
def State.leafReady (s : State) (l : Leaf) : Bool :=
  s.memReady l.frame l.size && s.memReady l.pte 16 && (!l.mapped || s.memReady l.hframe (l.size / 8))

/-- The access waits where memory that it reaches is not ready (R375). -/
def State.needReady (s : State) (ok : Bool) : State := if ok then s else { s with blocked := true }

/-- A page comes back from DISCARD (R185): zero frame, identity headers, DISCARD cleared, for every TLB that holds the entry too;
poison of frame and headers goes; only the written words count as written. A frame of host or peer memory is zeroed over the
link. It waits until all of that memory is ready (R375). -/
def State.revive (s : State) (l : Leaf) : State :=
  let l := s.nowLeaf l
  if !leafDiscard s.mem l then s
  else
    let s := s.needReady (s.leafReady l)
    let s := if l.tier = 2 then s.farZero l.frame l.size else s
    let hdr (k : Nat) : Nat := discardedHdr (memNat s.mem (l.hframe + 32 * k) 32)
    let m := if l.tier = 2 then s.mem else stClear (w := 8) s.mem l.frame (l.frame + l.size)
    let inside (a n w : Nat) : Bool := a ≤ 4 * w && 4 * w < a + n
    let m := if l.mapped then (List.range (l.size / 256)).foldl (fun m k => memPut m (l.hframe + 32 * k) (leBytes 32 (hdr k))) m else m
    { s with
      poison := s.poison.filter fun w => !inside l.frame l.size w && !(l.mapped && inside l.hframe (l.size / 8) w)
      tlb := s.tlb.map fun (e : TlbEntry) => if e.leaf.pte = l.pte then { e with leaf := { e.leaf with disc := some false } } else e
      mem := stSet (w := 8) m (l.pte + 1) (stGet (w := 8) m (l.pte + 1) &&& 0xFE) }

/-- A page's leaf after its page has come back (R185): not discarded any more. -/
def Leaf.revived (l : Leaf) : Leaf := if l.disc = some true then { l with disc := Option.none } else l

/-- The bytes of a header where it lies. -/
def Tile.hdrBytes (t : Tile) (h : Hdr) : List (Nat × Byte) :=
  (List.range 32).zip (leBytes 32 h.toNat) |>.map fun e => (t.hpa + e.1, e.2)

/-- A header alone written, as one event (R191): the directory holds header and payload as one unit (R265). -/
def State.putHdr (s : State) (t : Tile) (h : Hdr) : State := (s.writeMem none none (t.hdrBytes h)).own none t.words

/-- A tile written whole: payload and header in one event (R191), for the directory one unit (R265). The payload of a page in host
or peer memory goes out over the link. -/
def State.putTile (s : State) (who own : Option Nat) (t : Tile) (bs : List Byte) (h : Hdr) : State :=
  let pay := (List.range 256).zip bs |>.map fun e => (t.pa + e.1, e.2)
  if t.leaf.tier = 2 then ((s.writeMem who own (t.hdrBytes h)).own own t.words).farWrite pay
  else (s.writeMem who own (pay ++ t.hdrBytes h)).own own t.words

/-- The home slice's count of materialisations (R378); `die` is that of the issuing core, which says where host and peer memory has
its home (R181). -/
def State.countTile (s : State) (t : Tile) (src : Nat) (die : Nat := 0) : State := s.countSlice (homeSlice t.pa die) src 1

/-- A tile materialised (R263): nothing when its header is the identity. -/
def State.materialise (s : State) (who : Option Nat) (t : Tile) (die : Nat := 0) : State :=
  let h := Hdr.ofNat (s.tileHdr t)
  if h.ident then s
  else (s.putTile who none t (s.tileImage t) (Hdr.identity h.efmt (h.seq + 1))).countTile t 0x44 die

/-- An edit's element event on a tile (R260 to R262). -/
def State.editTile (s : State) (t : Tile) (e : Edit) : State :=
  let h := Hdr.ofNat (s.tileHdr t)
  match h.compose e with
  | some h' => s.putHdr t h'
  | none => (s.putTile none none t (h.applied e (s.tilePayload t)) (Hdr.identity h.efmt (h.seq + 1))).countTile t 0x44

/-- The bytes of a list of writes that fall in one tile. -/
def inTile (pa : Nat) (bs : List (Nat × Byte)) : List (Nat × Byte) := bs.filter fun e => pa ≤ e.1 && e.1 < pa + 256

/-- Whether writes cover a whole tile. -/
def coversTile (pa : Nat) (bs : List (Nat × Byte)) : Bool := (List.range 256).all fun i => bs.any fun e => e.1 = pa + i

/-- The header that a store of the whole tile leaves (R229): the identity, with SEQ one more where it was not that; a place that names
no format takes FP32. -/
def resetHdr (x : Nat) : Hdr :=
  let h := Hdr.ofNat x
  Hdr.identity (if 1 ≤ h.efmt && h.efmt ≤ 4 then h.efmt else 1) (if hdrMalformed x || !h.ident then h.seq + 1 else h.seq)

/-- Bytes of a tile written under an identity header, and no others (R186, R229). -/
def State.putPart (s : State) (who own : Option Nat) (t : Tile) (bs : List (Nat × Byte)) : State :=
  if t.leaf.tier = 2 then (s.own own t.words).farWrite bs else (s.writeMem who own bs).own own t.words

/-- A store's tile event (R229): a whole tile is written as given and its header reset; a part is written as it stands under an
identity header, else over the materialised tile, with SEQ one more. -/
def State.storeTile (s : State) (who own : Option Nat) (t : Tile) (bs : List (Nat × Byte)) (die : Nat := 0) : State :=
  let x := s.tileHdr t
  let h := Hdr.ofNat x
  let put (base : List Byte) : List Byte :=
    (List.range 256).zip base |>.map fun e =>
      bs.foldl (fun v b => if b.1 = t.pa + e.1 then b.2 else v) e.2
  if coversTile t.pa bs then s.putTile who own t (put (List.replicate 256 0)) (resetHdr x)
  else if h.ident then s.putPart who own t bs
  else (s.putTile who own t (put (s.tileImage t)) (Hdr.identity h.efmt (h.seq + 1))).countTile t 0x44 die

/-- The tiles (first addresses) that a list of writes touches. -/
def tilesOf (bs : List (Nat × Byte)) : List Nat := bs.foldl (fun l e => insNat l (e.1 / 256 * 256)) []

/-- Whether a crew is saved: one of its members is. -/
def State.crewSaved (s : State) (c : Nat) : Bool := s.groups.any fun g => g.crew = c && g.stand == .saved

/-- The core that holds what a leaf reaches (R164): a scratchpad word is performed at the core of its group, if that is not saved. -/
def State.holder (s : State) (own : Option Nat) (l : Leaf) : Option Nat :=
  if l.crew then (s.groups[(l.frame - 2 ^ 52) / 2 ^ 21]?).bind fun g => if s.crewSaved g.crew then none else some g.core else own

/-- Coherent stores to one page (R185, R228, R229): a discarded page is revived, tiles take tile events, other words are
written, those of host or peer memory over the link; `die` as for `State.countTile`. -/
def State.storePage (s : State) (who own : Option Nat) (l : Leaf) (bs : List (Nat × Byte)) (die : Nat := 0) : State :=
  if bs.isEmpty then s
  else
    let l := s.nowLeaf l
    let s := s.revive l
    let l := l.revived
    if l.mapped then (tilesOf bs).foldl (fun s pa => s.storeTile who own (tileOf l pa) (inTile pa bs) die) s
    else if l.tier = 2 then s.farWrite bs
    else s.writeMem who (s.holder own l) bs

/-! ### A gang's view through its store buffer -/

/-- The byte that a list of stores leaves at an address: the newest counts. -/
def bufAt (ls : List SbStore) (pa : Nat) : Option Byte :=
  ls.reverse.findSome? fun e => (e.bytes.reverse.find? fun b => b.1 = pa).map (·.2)

/-- A byte of a tail's store buffer (R207): none where it holds nothing. -/
def bufByte (t : Option Tail) (pa : Nat) : Option Byte := t.bind fun t => bufAt t.sbuf pa

/-- Whether a store writes the tile at `pa` whole through a mapped page (R211, R229). -/
def SbStore.whole (e : SbStore) (pa : Nat) : Bool := e.leaf.mapped && 256 ≤ e.bytes.length && coversTile pa e.bytes

/-- Whether a tail has stored a whole tile through a mapped page. -/
def bufTile (t : Option Tail) (pa : Nat) : Bool := match t with | some t => t.sbuf.any (·.whole pa) | none => false

/-- The bits of a tile's header place, and whether its page is still discarded, after one store of a tail (R185, R229, R267): a store
through the mapped page brings it back, one of the whole tile resets the header, and one to the header's own words changes them. -/
def SbStore.onHdr (t : Tile) (x : Nat × Bool) (e : SbStore) : Nat × Bool :=
  if e.leaf.mapped then
    let same := e.leaf.pte = t.leaf.pte
    let h := if x.2 && same then discardedHdr x.1 else x.1
    (if e.whole t.pa then (resetHdr h).toNat else h, x.2 && !same)
  else
    let at_ (i : Nat) : Nat := match bufAt [e] (t.hpa + i) with | some b => b.toNat | none => x.1 / 2 ^ (8 * i) % 256
    (if e.bytes.any fun b => t.hpa ≤ b.1 && b.1 < t.hpa + 32 then leNat ((List.range 32).map fun i => BitVec.ofNat 8 (at_ i)) else x.1, x.2)

/-- The header bits of a tile as a gang sees them (R229, R267): after its own stores, in program order. -/
def State.viewHdr (s : State) (b : Option Tail) (t : Tile) : Nat :=
  let x := ((b.map (·.sbuf)).getD []).foldl (SbStore.onHdr t) (memNat s.mem t.hpa 32, leafDiscard s.mem t.leaf)
  if x.2 then discardedHdr x.1 else x.1

/-- The payload bytes of a tile as a gang sees them. -/
def State.viewPayload (s : State) (b : Option Tail) (t : Tile) : List Byte :=
  (List.range 256).map fun i =>
    (bufByte b (t.pa + i)).getD (if leafDiscard s.mem t.leaf then 0 else stGet (w := 8) s.mem (t.pa + i))

/-- Whether a word is poisoned for a gang: one that it has stored whole is not (R186). -/
def State.poisonIn (s : State) (b : Option Tail) (w : Nat) : Bool :=
  s.isPoisoned w && !([0, 1, 2, 3].all fun i => (bufByte b (4 * w + i)).isSome)

/-- Whether a header word of a tile is poisoned for a gang: a store of the whole tile writes the header too. -/
def State.hdrPoisonIn (s : State) (b : Option Tail) (t : Tile) : Bool :=
  !bufTile b t.pa && (List.range 8).any fun i => s.poisonIn b (t.hpa / 4 + i)

end Sys2Proof.Machine
end

