-- ==== Sys2Proof/Machine/Cache.lean ====
section
/-! DEFINITION. The caches (R179 to R184, R199): the coherent lines and the window copies of the L1s and the home slices, their
capacity with the lent scratchpad, which line leaves first, and the write-back of window copies. No coherent line holds a value of
its own. -/
namespace Sys2Proof.Machine

/-- The die of a core (R1). -/
def dieOf (core : Nat) : Nat := core / 96

/-! ### Scratchpad in use, and what is lent -/

/-- Whether a group's scratchpad stands on its core (R165): it is resident, or has ended in a resident crew that is not
released. -/
def State.keepsScratch (s : State) (g : Group) : Bool :=
  g.stand == .resident || (g.stand == .ended && !s.crewSaved g.crew && match s.crews[g.crew]? with | some c => !c.released | none => false)

/-- Whether a group shares a queue instance (R33). -/
def State.sharesQueue (s : State) (q : Queue) (g : Group) : Bool :=
  let crew := match s.nodes[q.node]? with | some n => n.lr.crew | none => 1
  g.node = q.node && (g.stage = q.decl.pstage || g.stage = q.decl.cstage) && g.y = q.y && g.z = q.z
  && q.x = if q.decl.scope = 5 then g.x / crew else g.x

/-- Scratchpad bytes that stand on cores, of groups and of queues: core and bytes, without the groups that satisfy `skip`. The spec
does not say when the storage of a queue instance is released: it stands while a group that shares the instance is resident (DESIGN CHOICE:
notes/assumptions 64). -/
def State.scratchOn (s : State) (skip : Group → Bool) : List (Nat × Nat) :=
  ((s.groups.filter fun g => s.keepsScratch g && !skip g).map fun g => (g.core, g.scratch))
  ++ (s.queues.filter fun q => s.groups.any fun g => s.sharesQueue q g && g.stand == .resident && !skip g).map
      fun q => (q.core, 64 + 8 * q.decl.depth)

/-- The granules of a core's scratchpad that hold no allocation and no queue storage (R184), which its L1 borrows: allocations lie
side by side (DEDUCED: notes/assumptions 54). -/
def State.lent (s : State) (core : Nat) : Nat :=
  Config.granules - ((((s.scratchOn fun _ => false).filter (·.1 == core)).map (·.2)).sum + 65535) / 65536

/-- The lines that a core's L1 holds at most (R180, R184). -/
def State.l1Room (s : State) (core : Nat) : Nat := Config.l1Lines + Config.granuleLines * s.lent core

/-! ### Lines and copies -/

/-- A window copy of a line. -/
def copyOf (l : List WinCopy) (unit line : Nat) : Option WinCopy := l.find? fun c => c.unit = unit && c.line = line

/-- A coherent line of a cache. -/
def lineOf (l : List CacheLine) (unit line : Nat) : Option CacheLine := l.find? fun c => c.unit = unit && c.line = line

/-- The MOESI states of a word in a core's L1 (R182). -/
inductive Moesi where
  | m | o | e | s | i
  deriving DecidableEq, Repr

/-- Whether a line of an L1 holds a valid copy of a word: of its own, or of the header of its tile, one unit with it (R265). -/
def CacheLine.holds (c : CacheLine) (w : Nat) : Bool :=
  (c.line = w / 32 && c.valid.getLsbD (w % 32))
  || match c.hdr with | some h => c.valid != 0 && h / 4 ≤ w && w < h / 4 + 8 | none => false

/-- Whether a core's L1 holds a valid copy of a word. -/
def State.hasWord (s : State) (core w : Nat) : Bool := s.l1.any fun c => c.unit = core && c.holds w

/-- The state in which the directory has a word of a core's L1 (R182): modified or owned where the core is its owner, exclusive or
shared where it only holds a copy. -/
def State.moesi (s : State) (core w : Nat) : Moesi :=
  let others := s.l1.any fun c => c.unit != core && c.holds w
  if tabGet s.owner Config.cores w = core then (if others then .o else .m)
  else if !s.hasWord core w then .i
  else if others then .s else .e

/-- Whether a tail of a gang on a core has read a word of a line, which stays until commit (R208). -/
def State.pins (s : State) (core line : Nat) : Bool :=
  s.gangs.any fun g => g.core = core && (match g.tail with | some t => t.reads.any fun w => w / 32 = line | none => false)

/-- The order in which lines leave an L1 (R183): stream first; a sticky line is allocated there as a default one is. -/
def leaveRank1 (kept : Nat) : Nat := if kept = 1 then 0 else 1

/-- The order in which lines leave a home slice (R183): stream before default before sticky. -/
def leaveRank2 (kept : Nat) : Nat := match kept with | 1 => 0 | 2 => 2 | _ => 1

/-- The lines of a list of the lowest rank. -/
def lowestRank (rank : Nat → Nat) (l : List (Nat × Nat × Bool)) : List (Nat × Nat × Bool) :=
  let low := l.foldl (fun m e => min m (rank e.1)) 2
  l.filter fun e => rank e.1 = low

/-- The lines of one cache that may leave without a write-back: retention class, line, whether it is a coherent one. Dirty window
copies leave by DIRTY_WINDOW_WRITEBACK. -/
def leavable (coh : List CacheLine) (win : List WinCopy) (unit : Nat) : List (Nat × Nat × Bool) :=
  (coh.filter (·.unit == unit)).map (fun c => (c.kept, c.line, true))
  ++ (win.filter fun c => c.unit = unit && c.dirty = 0).map fun c => (c.kept, c.line, false)

/-- A coherent line leaves a core's L1, and with a line of a mapped tile the whole tile and its header (R265): what was modified in them
is at its home. -/
def State.dropCoh (s : State) (core line : Nat) : State :=
  let hdr := (lineOf s.l1 core line).bind (·.hdr)
  let goes (k : Nat) : Bool := k = line || (hdr.isSome && k / 2 = line / 2)
  let word (w : Nat) : Bool := goes (w / 32) || (match hdr with | some h => h / 4 ≤ w && w < h / 4 + 8 | none => false)
  { s with
    l1 := s.l1.filter fun c => !(c.unit = core && goes c.line)
    owner := s.owner.filter fun e => !(e.2 = core && word e.1) }

/-- A window line is dropped from an L1 or from a slice. -/
def State.dropL1 (s : State) (core line : Nat) : State :=
  { s with l1win := s.l1win.filter fun d => !(d.unit = core && d.line = line) }
def State.dropL2 (s : State) (slice line : Nat) : State :=
  { s with l2win := s.l2win.filter fun d => !(d.unit = slice && d.line = line) }

/-- Room for one line more in a core's L1 (R183): where it is full, a line leaves, any of the lowest rank; none where every line
is pinned or dirty in a window. -/
def State.admit1 (s : State) (core : Nat) : Option State :=
  if (s.l1.filter (·.unit == core)).length + (s.l1win.filter (·.unit == core)).length < s.l1Room core then some s
  else
    let l := lowestRank leaveRank1 ((leavable s.l1 s.l1win core).filter fun e => !(e.2.2 && s.pins core e.2.1))
    let (n, s) := s.drawNat
    (l[n % l.length]?).map fun e => if e.2.2 then s.dropCoh core e.2.1 else s.dropL1 core e.2.1

/-- The same for a home slice, for a line of retention class `kept`: a sticky line leaves for another sticky one only (R183). The sets
that R183 names are not laid out: the whole slice is one (DESIGN CHOICE: notes/assumptions 54). -/
def State.admit2 (s : State) (slice kept : Nat) : Option State :=
  if (s.l2.filter (·.unit == slice)).length + (s.l2win.filter (·.unit == slice)).length < Config.l2Lines then some s
  else
    let l := lowestRank leaveRank2 ((leavable s.l2 s.l2win slice).filter fun e => kept = 2 || e.1 != 2)
    let (n, s) := s.drawNat
    (l[n % l.length]?).map fun e =>
      if e.2.2 then { s with l2 := s.l2.filter fun c => !(c.unit = slice && c.line = e.2.1) } else s.dropL2 slice e.2.1

/-- The retention class of a line that a home slice holds as `old` after an access with `kept` (R183): a sticky one stays so until it is
evicted. -/
def keptNow (old kept : Nat) : Nat := if old = 2 then 2 else kept

/-- A coherent line is read into a slice that is its home (R180), or takes the retention of the access where the slice has it (R183). -/
def State.fillHome (s : State) (slice kept line : Nat) : State :=
  match lineOf s.l2 slice line with
  | some _ => { s with l2 := s.l2.map fun (c : CacheLine) => if c.unit = slice && c.line = line then { c with kept := keptNow c.kept kept } else c }
  | none => match s.admit2 slice kept with
    | some s => { s with l2 := s.l2 ++ [⟨slice, line, kept, 0xFFFFFFFF, 0, none⟩] }
    | none => s

/-- A coherent line is read into a core's L1, and into its home slice (R180, R183): `hint` 3 allocates in the slice only. `hdr` is the
header of the mapped tile to which it belongs. -/
def State.fillCoh (s : State) (core hint line : Nat) (hdr : Option Nat) : State :=
  let s := s.fillHome (homeSlice (128 * line) (dieOf core)) (hint % 3) line
  if hint = 3 then s
  else match lineOf s.l1 core line with
    | some _ => { s with l1 := s.l1.map fun c => if c.unit = core && c.line = line then { c with valid := 0xFFFFFFFF, kept := hint % 3, hdr } else c }
    | none => match s.admit1 core with
      | some s => { s with l1 := s.l1 ++ [⟨core, line, hint % 3, 0xFFFFFFFF, 0, hdr⟩] }
      | none => s

/-- A core's L1 takes a tile whole, both its lines and its header, or nothing of it (R265). -/
def State.fillTile (s : State) (core hint : Nat) (t : Tile) : State :=
  let s := (s.fillCoh core hint (t.pa / 128) (some t.hpa)).fillCoh core hint (t.pa / 128 + 1) (some t.hpa)
  if (lineOf s.l1 core (t.pa / 128)).isSome && (lineOf s.l1 core (t.pa / 128 + 1)).isSome then s
  else (s.dropCoh core (t.pa / 128)).dropCoh core (t.pa / 128 + 1)

/-- What an access leaves in the caches (R180, R183): its line, or its tile with the header, which is homed with the payload (R254), in
the home slice and in the issuing core's L1. Window accesses make their own copies; scratchpads are not cached. -/
def State.allocate (s : State) (core hint : Nat) (x : Xlat) : State :=
  if x.leaf.crew then s
  else if x.leaf.mapped then
    let t := tileOf x.leaf x.pa
    let s := s.fillHome (homeSlice x.pa (dieOf core)) (hint % 3) (t.hpa / 128)
    if x.window then s else s.fillTile core hint t
  else if x.window then s else s.fillCoh core hint (x.pa / 128) none

/-! ### Window copies -/

/-- A sparse table from a list of bytes. -/
def bytesStore (bs : List Byte) : Store 8 := stSetAll [] ((List.range bs.length).zip bs)

/-- The poisoned words of a line. -/
def State.lineBad (s : State) (line : Nat) : BitVec 32 := maskOf fun k => s.isPoisoned (32 * line + k)

/-- A home slice's window copy of a line, where it has one, takes the retention of an access (R183). -/
def State.keepCopy (s : State) (slice kept line : Nat) : State :=
  { s with l2win := s.l2win.map fun (c : WinCopy) => if c.unit = slice && c.line = line then { c with kept := keptNow c.kept kept } else c }

/-- The home slice reads a window line, where it has no copy, and keeps one, where it has room (R179). One of host or peer memory comes
over the link; the answer is whether that read fails, which leaves no copy (R373, R374). -/
def State.fillL2 (s : State) (slice hint line : Nat) : Bool × State :=
  match copyOf s.l2win slice line with
  | some _ => (false, s.keepCopy slice (hint % 3) line)
  | none =>
    let (bad, s) := if isFar (128 * line) then s.farRead (128 * line) else (false, s)
    if bad then (true, s)
    else match s.admit2 slice (hint % 3) with
      | some s => (false, { s with l2win := s.l2win ++ [⟨slice, line, bytesStore (memBytes s.mem (128 * line) 128), 0, s.lineBad line, hint % 3⟩] })
      | none => (false, s)

/-- A core's L1 holds a copy of a window line (R179), from the home slice, where they have room; the answer is that of
`State.fillL2`. -/
def State.fillL1 (s : State) (core slice hint line : Nat) : Bool × State :=
  match copyOf s.l1win core line with
  | some _ =>
    (false, { s.keepCopy slice (hint % 3) line with
      l1win := s.l1win.map fun (c : WinCopy) => if c.unit = core && c.line = line then { c with kept := hint % 3 } else c })
  | none =>
    let (bad, s) := s.fillL2 slice hint line
    match copyOf s.l2win slice line, s.admit1 core with
    | some c, some s => (bad, { s with l1win := s.l1win ++ [⟨core, line, c.data, 0, c.bad, hint % 3⟩] })
    | _, _ => (bad, s)

/-- A window access of a core fetches its line (R179, R183): into the L1, or with the bypass hint into the home slice only, where the
L1 has no copy. -/
def State.fetchCopy (s : State) (core hint line : Nat) : Bool × State :=
  let slice := homeSlice (128 * line) (dieOf core)
  if hint = 3 && (copyOf s.l1win core line).isNone then s.fillL2 slice hint line else s.fillL1 core slice hint line

/-- The copy that serves a core: its L1's, else its home slice's. -/
def State.windowCopy (s : State) (core line : Nat) : Option WinCopy :=
  match copyOf s.l1win core line with
  | some c => some c
  | none => copyOf s.l2win (homeSlice (128 * line) (dieOf core)) line

/-- A window read of `n` bytes (R179, R183): from the L1 copy, or the home slice's with the bypass hint, and the copies
it leaves; none where a word was poisoned when the copy was read (R186), or the read over the link fails (R373). -/
def State.readWindow (s : State) (core hint pa n : Nat) : Option (List Byte) × State :=
  let line := pa / 128
  let (bad, s) := s.fetchCopy core hint line
  if bad then (none, s)
  else match s.windowCopy core line with
  | some c =>
    if (List.range n).any fun i => c.bad.getLsbD ((pa + i) % 128 / 4) then (none, s)
    else (some ((List.range n).map fun i => stGet c.data ((pa + i) % 128)), s)
  | none =>
    if (List.range n).any fun i => s.isPoisoned ((pa + i) / 4) then (none, s) else (some (memBytes s.mem pa n), s)

/-- Bytes written into a copy and marked dirty; a word written whole is poisoned no more (R186). -/
def WinCopy.put (c : WinCopy) (bs : List (Nat × Byte)) : WinCopy :=
  { c with
    data := stSetAll c.data (bs.map fun e => (e.1 % 128, e.2))
    dirty := bs.foldl (fun m e => m ||| (1 : BitVec 128) <<< (e.1 % 128)) c.dirty
    bad := maskOf fun k => c.bad.getLsbD k && !([0, 1, 2, 3].all fun i => bs.any fun e => e.1 % 128 = 4 * k + i) }

/-- One copy of a list changed. -/
def updCopy (l : List WinCopy) (unit line : Nat) (f : WinCopy → WinCopy) : List WinCopy :=
  l.map fun c => if c.unit = unit && c.line = line then f c else c

/-- Bytes of a line written to memory, or over the link (R199, R373); where its memory is not ready they wait (R375). -/
def State.toMemory (s : State) (line : Nat) (bs : List (Nat × Byte)) : State :=
  if bs.isEmpty then s
  else if isFar (128 * line) then s.farWrite bs
  else (s.needReady (s.memReady (128 * line) 128)).writeMem none none bs

/-- A window write of bytes of one line (R179): into the L1 copy, or the home slice's with the bypass hint, or memory where
neither has room. -/
def State.writeWindow (s : State) (core hint : Nat) (bs : List (Nat × Byte)) : State :=
  match bs with
  | [] => s
  | (pa, _) :: _ =>
    let line := pa / 128
    let slice := homeSlice pa (dieOf core)
    let (_, s) := s.fetchCopy core hint line
    if (copyOf s.l1win core line).isSome then { s with l1win := updCopy s.l1win core line fun c => c.put bs }
    else if (copyOf s.l2win slice line).isSome then { s with l2win := updCopy s.l2win slice line fun c => c.put bs }
    else s.toMemory line bs

/-- Whether a word is poisoned for a window access of a core (R186, R202): in the copy that serves it, else in memory. -/
def State.windowBad (s : State) (core w : Nat) : Bool :=
  match s.windowCopy core (w / 32) with | some c => c.bad.getLsbD (w % 32) | none => s.isPoisoned w

/-! ### Write-back (R199) -/

/-- The dirty bytes of a copy in the words that satisfy `sel` (by number in the line). -/
def WinCopy.dirtyOf (c : WinCopy) (sel : Nat → Bool) : List (Nat × Byte) :=
  ((List.range 128).filter fun k => c.dirty.getLsbD k && sel (k / 4)).map fun k => (128 * c.line + k, stGet c.data k)

/-- The dirty bytes of a copy. -/
def WinCopy.dirtyBytes (c : WinCopy) : List (Nat × Byte) := c.dirtyOf fun _ => true

/-- A copy whose words that satisfy `sel` are clean. -/
def WinCopy.cleaned (c : WinCopy) (sel : Nat → Bool) : WinCopy :=
  { c with dirty := BitVec.ofNat 128 ((List.range 128).foldl (fun n k => if c.dirty.getLsbD k && !sel (k / 4) then n + 2 ^ k else n) 0) }

/-- Dirty words of an L1 copy go back to the home slice, or to memory where it has no room for the line (R199). -/
def State.backL1 (s : State) (core line : Nat) (sel : Nat → Bool) : State :=
  match copyOf s.l1win core line with
  | none => s
  | some c =>
    let bs := c.dirtyOf sel
    if bs.isEmpty then s
    else
      let slice := homeSlice (128 * line) (dieOf core)
      let (_, s) := s.fillL2 slice c.kept line
      let s := { s with l1win := updCopy s.l1win core line fun d => d.cleaned sel }
      if (copyOf s.l2win slice line).isSome then { s with l2win := updCopy s.l2win slice line fun d => d.put bs } else s.toMemory line bs

/-- Dirty words of a home-slice copy go back to memory (R199). -/
def State.backL2 (s : State) (slice line : Nat) (sel : Nat → Bool) : State :=
  match copyOf s.l2win slice line with
  | none => s
  | some c =>
    { s with l2win := updCopy s.l2win slice line fun d => d.cleaned sel }.toMemory line (c.dirtyOf sel)

/-- The dirty bytes of an L1 copy go back to the home slice (R199). -/
def State.writeback1 (s : State) (core line : Nat) : State := s.backL1 core line fun _ => true
/-- The dirty bytes of a home-slice copy go back to memory (R199). -/
def State.writeback2 (s : State) (slice line : Nat) : State := s.backL2 slice line fun _ => true

/-- The granules that a placement needs leave a core's L1 (R184): lines beyond what it holds now leave, dirty window copies
written back to their homes first; coherent copies leave clean, and no tail sheds. `n` bounds the lines that leave. -/
def State.reclaim (core : Nat) : Nat → State → State
  | 0, s => s
  | n + 1, s =>
    if (s.l1.filter (·.unit == core)).length + (s.l1win.filter (·.unit == core)).length ≤ s.l1Room core then s
    else
      let l := (s.l1.filter (·.unit == core)).map (fun c => (c.line, true)) ++ (s.l1win.filter (·.unit == core)).map fun c => (c.line, false)
      let (k, s) := s.drawNat
      match l[k % l.length]? with
      | some (line, true) => State.reclaim core n (s.dropCoh core line)
      | some (line, false) => State.reclaim core n ((s.writeback1 core line).dropL1 core line)
      | none => s

end Sys2Proof.Machine
end

