-- ==== Sys2Proof/Machine/Mem.lean ====
section
/-! DEFINITION. The data accesses of a gang (R173 to R187, R207, R208, R223 to R229): addresses, the checks of R225 over
the lanes, the view of memory through the store buffer, tiles and windows, and stores. -/
namespace Sys2Proof.Machine

/-! ### Addresses and checks -/

/-- A translation register as a gang sees it: its tail's own view first (R221). -/
def Gang.xtView (g : Gang) (gr : Group) (n : Nat) : Xt :=
  match g.tail with
  | some t => match t.xts.find? (·.1 == n) with | some e => e.2 | none => (gr.xt[n]?).getD Xt.none
  | none => (gr.xt[n]?).getD Xt.none

/-- The leaf under which a translation register covers `n` bytes at an address (R176). -/
def Xt.covers (x : Xt) (a n : Nat) : Option (Nat × Leaf) :=
  if x.valid && !x.stale && x.base.toNat ≤ a && a + n ≤ x.limit.toNat then
    x.leaves.find? fun e => e.1 ≤ a && a < e.1 + e.2.size
  else Option.none

/-- The address a lane forms (R223): `base` is BASE, sB or the lane's 64-bit value. -/
def formAddr (base : DWord) (a : Word) (off : BitVec 16) : DWord := base + a.setWidth 64 + off.signExtend 64

/-- The address of lane `l`, or of the scalar pipe (R223). -/
def laneAddr (x : MemArgs) (i : Issuer) (G : Gang) (gr : Group) (scalar : Bool) (l : Nat) : DWord :=
  let a : Word := if scalar then (i.rds x.a).setWidth 32 else i.rd x.a l
  match x.base with
  | .xt n => formAddr (G.xtView gr n.val).base a x.off
  | .s n => formAddr (i.getS n.val) a x.off
  | .pair => formAddr (i.rdq x.a l) 0 x.off

/-- The translation register a memory word goes through. -/
def accessXt (x : MemArgs) (G : Gang) (gr : Group) : Option Xt :=
  match x.base with
  | .xt n => some (G.xtView gr n.val)
  | _ => none

/-- Who accesses, and how: partition, context, group, whether the access writes, and whether its entry refuses windows
and TIER 2 (R234). -/
structure Accessor where
  p : Nat
  ctx : Nat
  grp : Nat
  write : Bool
  coherent : Bool
  deriving DecidableEq, Repr

/-- Checks 1 to 4 of R225 for one access of `n` bytes, through a translation register where it covers the access
(R176), else through the TLB. -/
def State.checkAccess (s : State) (c : Accessor) (xt : Option Xt) (va n : Nat) : Except XFail Xlat × State :=
  if !s.check1 c.grp va then (.error ⟨.prot, false, none, none⟩, s)
  else if va % n != 0 then (.error ⟨.align, false, none, none⟩, s)
  else
    match xt.bind fun x => x.covers va n with
    | some (page, l) => ((s.ctx c.ctx).permit (s.nowLeaf l) va (l.frame + (va - page)) c.write false c.coherent, s)
    | none => s.resolve c.p c.ctx c.grp va c.write false c.coherent

/-- The result of one lane's checks: its lane, address, and translation or failure. -/
abbrev LaneX := Nat × Nat × Except XFail Xlat

/-- The checks of every lane, in ascending order (R225). -/
def State.checkLanes (s : State) (c : Accessor) (xt : Option Xt) (n : Nat) : List (Nat × Nat) → List LaneX × State
  | [] => ([], s)
  | (l, va) :: r =>
    let (e, s) := s.checkAccess c xt va n
    let (t, s) := State.checkLanes s c xt n r
    ((l, va, e) :: t, s)

/-- A failing lane: its number, address, cause, and whether its page fault may be gathered. -/
abbrev LaneFail := Nat × Nat × Cause × Bool

/-- The failing lanes of a list of checks. -/
def failsOf (r : List LaneX) : List LaneFail :=
  r.filterMap fun e => match e.2.2 with | .error f => some (e.1, e.2.1, f.cause, f.gather) | .ok _ => none

/-- The lanes that passed, with their translations. -/
def passed (r : List LaneX) : List (Nat × Xlat) :=
  r.filterMap fun e => match e.2.2 with | .ok x => some (e.1, x) | .error _ => none

/-- The malformed entries that the walks of some lanes met (R173). -/
def walksOf (r : List LaneX) : List Nat :=
  r.filterMap fun e => match e.2.2 with | .error f => f.badPte | .ok _ => none

/-- The pages through whose entries the failing lanes were translated (R213). -/
def failPages (r : List LaneX) : List (Nat × Nat) :=
  r.filterMap fun e => match e.2.2 with | .error f => f.page | .ok _ => none

/-- The mask of a list of lanes; the scalar pipe stands for every lane `all`. -/
def lanesMask (scalar : Bool) (all : BitVec 32) (ls : List Nat) : BitVec 32 :=
  if scalar then all else maskOf ls.contains

/-- The 64 KiB units that the failing lanes of a gathered fault wait on (R362). -/
def gatherUnits (scalar : Bool) (all : BitVec 32) (fs : List LaneFail) : List (Nat × BitVec 32) :=
  let us := fs.foldl (fun l f => insNat l (f.2.1 / 65536 * 65536)) []
  us.map fun u => (u, lanesMask scalar all ((fs.filter fun f => f.2.1 / 65536 * 65536 = u).map (·.1)))

/-- What an access with failing lanes reports (R225): the cause of the lowest failing lane, every lane with that cause
in LANES, the other failing lanes in RETRY; a page fault is gathered when every failing lane has one that is (R362). No rule says which
lanes took a trap of the scalar pipe: LANES is every lane of the fragment (DESIGN CHOICE: notes/assumptions 50). -/
def reportFails (i : Issuer) (scalar : Bool) (acc : Nat) (fs : List LaneFail) : Option TrapInfo :=
  match fs with
  | [] => none
  | f :: _ =>
    let c := f.2.2.1
    let same := fs.filter fun e => e.2.2.1 = c
    let rest := fs.filter fun e => e.2.2.1 != c
    some
      { cause := c, info := 0, acc := acc, addr := i.pc
        lanes := lanesMask scalar i.lanes (same.map (·.1))
        retry := if scalar then 0 else lanesMask false 0 (rest.map (·.1))
        frag := i.frag, once := scalar
        gather := if c = .pagefault && rest.isEmpty && same.all (·.2.2.2) then gatherUnits scalar i.lanes same else []
        walks := [] }

/-- Failures of two rounds of checks in lane order. -/
def mergeFails (a b : List LaneFail) : List LaneFail :=
  ((List.range 32).flatMap fun l => (a.filter (·.1 = l)) ++ b.filter (·.1 = l))

/-- The report of an access with its lanes' checks `r` and later failures `bad`: the malformed entries that its walks met are
recorded with its trap (R173, R192). -/
def reportLanes (i : Issuer) (scalar : Bool) (acc : Nat) (r : List LaneX) (bad : List LaneFail) : Option TrapInfo :=
  (reportFails i scalar acc (mergeFails (failsOf r) bad)).map fun t => { t with walks := walksOf r }

/-! ### What memory reads as -/

/-- What one lane reads: a failure beyond the checks of R225 (a malformed header, poison), or its bytes; and the words it enters
into the read set, which a failing read has taken from memory too (R208). -/
inductive LaneRead where
  | fail (c : Cause) (reads : List Nat)
  | ok (bs : List Byte) (reads : List Nat)
  deriving DecidableEq, Repr

/-- The words of a tile that a read through a gang's view enters into the read set: none of one that the gang has stored whole and reads
under the header of that store (R207), else the whole tile, payload that is not read too, the directory's one unit (R208, R265; DESIGN
CHOICE: notes/assumptions 62). -/
def State.tileReads (s : State) (t : Option Tail) (tl : Tile) : List Nat :=
  if bufTile t tl.pa && (Hdr.ofNat (s.viewHdr t tl)).ident then [] else tl.words

/-- The read of a mapped tile through a gang's view (R207, R227, R267): the logical image under the header that it sees. A header that is
malformed and poisoned at once gives PROT (DESIGN CHOICE: notes/assumptions 62). -/
def State.readTile (s : State) (t : Option Tail) (x : Xlat) (n : Nat) : LaneRead :=
  let tl := tileOf x.leaf x.pa
  let h := s.viewHdr t tl
  if hdrMalformed h then .fail .prot tl.words
  else
    let ws := ((Hdr.ofNat h).readWords (x.pa % 256) n).map fun w => tl.pa / 4 + w
    if !leafDiscard s.mem x.leaf && (s.hdrPoisonIn t tl || ws.any (s.poisonIn t)) then .fail .poison (s.tileReads t tl)
    else .ok ((((Hdr.ofNat h).image (s.viewPayload t tl)).drop (x.pa % 256)).take n) (s.tileReads t tl)

/-- A coherent read of `n` bytes through a gang's view (R207): its buffered bytes first, then the tile or the word; a discarded
page reads zeros (R185). -/
def State.readCoherent (s : State) (t : Option Tail) (x : Xlat) (n : Nat) : LaneRead :=
  if x.leaf.mapped then s.readTile t x n
  else
    let at_ := (List.range n).map fun i => x.pa + i
    let ws := at_.foldl (fun l a => if (bufByte t a).isSome then l else insNat l (a / 4)) []
    if leafDiscard s.mem x.leaf then .ok (at_.map fun a => (bufByte t a).getD 0) ws
    else if ws.any s.isPoisoned then .fail .poison ws
    else .ok (at_.map fun a => (bufByte t a).getD (stGet (w := 8) s.mem a)) ws

/-- Words of host or peer memory read over the link: whether one fails. -/
def State.farReads (s : State) (ws : List Nat) : Bool × State :=
  ws.foldl (fun r w => let (b, s) := r.2.farRead (4 * w); (r.1 || b, s)) (false, s)

/-- A coherent read at the home: what of it lies in host or peer memory comes over the link, and fails with it (R373). -/
def State.readHome (s : State) (t : Option Tail) (x : Xlat) (n : Nat) : LaneRead × State :=
  match s.readCoherent t x n with
  | .fail c ws => (.fail c ws, s)
  | .ok bs ws =>
    let need :=
      if !isFar x.pa || leafDiscard s.mem x.leaf then []
      else if x.leaf.mapped then
        if ws.isEmpty then [] else ((Hdr.ofNat (s.viewHdr t (tileOf x.leaf x.pa))).readWords (x.pa % 256) n).map fun w => x.pa / 256 * 64 + w
      else ws
    let (bad, s) := s.farReads need
    (if bad then .fail .poison ws else .ok bs ws, s)

/-- A read of `n` bytes by a core: through its windows, or coherent. Tiles are read at their home, in a window too. -/
def State.readData (s : State) (core hint : Nat) (t : Option Tail) (x : Xlat) (n : Nat) : LaneRead × State :=
  if x.window && !x.leaf.mapped && !leafDiscard s.mem x.leaf then
    match s.readWindow core hint x.pa n with
    | (some bs, s) => (.ok bs [], s)
    | (none, s) => (.fail .poison [], s)
  else s.readHome t x n

/-- The reads of every lane that passed, in ascending order, each with the hint of its page (R183). -/
def State.readLanes (s : State) (core : Nat) (hint : Leaf → Nat) (t : Option Tail) (n : Nat) :
    List (Nat × Xlat) → List (Nat × Xlat × LaneRead) × State
  | [] => ([], s)
  | (l, x) :: r =>
    let (v, s) := s.readData core (hint x.leaf) t x n
    let (rest, s) := State.readLanes s core hint t n r
    ((l, x, v) :: rest, s)

/-- The lanes whose read failed. -/
def readFails (r : List (Nat × Xlat × LaneRead)) : List LaneFail :=
  r.filterMap fun e => match e.2.2 with | .fail c _ => some (e.1, e.2.1.va, c, false) | .ok _ _ => none

/-- The lanes that read, with their numbers. -/
def readOk (r : List (Nat × Xlat × LaneRead)) : List (Nat × Nat) :=
  r.filterMap fun e => match e.2.2 with | .ok bs _ => some (e.1, leNat bs) | .fail _ _ => none

/-- The words that the lanes enter into the read set. -/
def readSet (r : List (Nat × Xlat × LaneRead)) : List Nat :=
  r.foldl (fun l e => match e.2.2 with | .ok _ ws | .fail _ ws => ws.foldl insNat l) []

/-- The paged addresses that accesses were translated through, as page and size. -/
def pagesOf (xs : List Xlat) : List (Nat × Nat) :=
  (xs.filterMap fun x => if x.leaf.crew || x.leaf.size = 0 then none else some (x.va / x.leaf.size * x.leaf.size, x.leaf.size)).eraseDups

/-! ### Stores -/

/-- The bytes that a lane's store writes (R224). -/
def laneBytes (x : Xlat) (n v : Nat) : List (Nat × Byte) := (List.range n).zip (leBytes n v) |>.map fun e => (x.pa + e.1, e.2)

/-- Whether a store leaves part of a poisoned word unwritten (R186), as its gang sees the word: a word that it has stored whole
before, or a copy in a window, is poisoned no more. -/
def State.partialPoison (s : State) (core : Nat) (t : Option Tail) (x : Xlat) (bs : List (Nat × Byte)) (n : Nat) : Bool :=
  !x.leaf.mapped && !leafDiscard s.mem x.leaf && (List.range n).any fun k =>
    let w := (x.pa + k) / 4
    (if x.window then s.windowBad core w else s.poisonIn t w) && !([0, 1, 2, 3].all fun j => bs.any fun e => e.1 = 4 * w + j)

/-- Whether a set of stores writes part of a tile (R211). -/
def partTile (xs : List Xlat) (bs : List (Nat × Byte)) : Bool :=
  xs.any fun x => x.leaf.mapped && !coversTile (x.pa / 256 * 256) bs

/-- What a part of a tile that must be read meets beyond the checks of R225: a malformed header (R257), a poisoned header, and
poison of the payload words that the event reads: `ws` where the header is the identity, none of a filled tile, else all (R186,
R263). -/
def State.tileFail (s : State) (tl : Tile) (ws : List Nat) : Option Cause :=
  let h := s.tileHdr tl
  if hdrMalformed h then some .prot
  else if s.hdrPoisoned tl then some .poison
  else if (Hdr.ofNat h).ident then (if ws.any s.isPoisoned then some .poison else none)
  else if !(Hdr.ofNat h).filled && (List.range 64).any fun k => s.isPoisoned (tl.pa / 4 + k) then some .poison
  else none

/-- What a store to a tile meets beyond the checks of R225: nothing where it writes the tile whole; the words that a part of it
leaves partly unwritten are read. -/
def State.tileStoreFail (s : State) (x : Xlat) (bs : List (Nat × Byte)) : Option Cause :=
  let tl := tileOf x.leaf x.pa
  if !x.leaf.mapped || leafDiscard s.mem x.leaf || coversTile tl.pa bs then none
  else s.tileFail tl ((wordsOf (inTile tl.pa bs)).filter fun w => !([0, 1, 2, 3].all fun j => bs.any fun e => e.1 = 4 * w + j))

/-- The words of host or peer memory that a part of a mapped tile makes its tile event read over the link (R229, R263, R373): those that
the bytes leave partly unwritten under an identity header, of a filled tile none, of another the payload. -/
def State.tileNeed (s : State) (t : Tile) (bs : List (Nat × Byte)) : List Nat :=
  let h := Hdr.ofNat (s.tileHdr t)
  if t.leaf.tier != 2 || leafDiscard s.mem t.leaf || coversTile t.pa bs then []
  else if h.ident then (wordsOf bs).filter fun w => !([0, 1, 2, 3].all fun j => bs.any fun e => e.1 = 4 * w + j)
  else if h.filled then []
  else (List.range 64).map fun k => t.pa / 4 + k

/-- The tiles of host or peer memory of which a store writes a part read what they need over the link (R373): the tiles whose read
fails, and the state after. -/
def State.farParts (s : State) (xs : List Xlat) (bs : List (Nat × Byte)) : List Nat × State :=
  let ts := ((xs.filter fun x => x.leaf.mapped && x.leaf.tier = 2).map fun x => tileOf x.leaf x.pa).eraseDups
  ts.foldl (fun r t =>
    let (bad, s) := r.2.farReads (s.tileNeed t (inTile t.pa bs))
    (if bad then r.1 ++ [t.pa] else r.1, s)) ([], s)

/-- Stores through one leaf: whether its page lies in a window, whether they are written through to the L2 (R183), and the bytes in the
order in which they are written. -/
structure PageStore where
  leaf : Leaf
  window : Bool
  bytes : List (Nat × Byte)
  deriving DecidableEq, Repr

/-- Whether two leaves are one page to an instruction's stores: of a mapped page also where they differ in DISCARD alone, since the lanes
of a tile are one event (R187). -/
def sameLeaf (a b : Leaf) : Bool := a == b || (a.mapped && { a with disc := none } == { b with disc := none })

/-- Some bytes with the values that the last write among all of an instruction's leaves (R228). -/
def finalBytes (all bs : List (Nat × Byte)) : List (Nat × Byte) :=
  let l := all.reverse
  bs.map fun e => (e.1, ((l.find? fun b => b.1 = e.1).map (·.2)).getD e.2)

/-- The stores of an instruction by page, each page once. -/
def byPage (xs : List Xlat) (bs : List (Nat × Byte)) : List PageStore :=
  let ls := xs.foldl (fun l x => if l.any fun e => sameLeaf e.1 x.leaf && e.2 == x.window then l else l ++ [(x.leaf, x.window)]) []
  ls.map fun l => ⟨l.1, l.2, finalBytes bs (bs.filter fun e => l.1.frame ≤ e.1 && e.1 < l.1.frame + l.1.size)⟩

/-- The core that owns what its store writes: none where the hint has it written through to the L2 (R182, R183). -/
def storeOwner (core hint : Nat) : Option Nat := if hint = 3 then none else some core

/-- Stores perform (R207, R210, R228): coherent ones by page, window ones into copies, each with the hint of its page (R183). -/
def State.performStores (s : State) (g core : Nat) (hint : Leaf → Nat) (xs : List Xlat) (bs : List (Nat × Byte)) : State :=
  (byPage xs bs).foldl (fun s e =>
    if e.window && !e.leaf.mapped then
      let s := s.revive e.leaf
      (e.bytes.foldl (fun l b => insNat l (b.1 / 128)) []).foldl
        (fun s line => s.writeWindow core (hint e.leaf) (e.bytes.filter fun b => b.1 / 128 = line)) s
    else s.storePage (some g) (if e.window then none else storeOwner core (hint e.leaf)) e.leaf e.bytes (dieOf core)) s

/-- The stores of an instruction's lanes as its tail's buffer holds them (R207), each page through the entry that its translation took
(R174). -/
def State.bufStores (s : State) (hint : Leaf → Nat) (ls : List (Xlat × List (Nat × Byte))) : List SbStore :=
  let pages := ls.foldl (fun l e => if l.any fun p => sameLeaf p e.1.leaf then l else l ++ [e.1.leaf]) []
  pages.map fun p =>
    { leaf := p.recorded s.mem
      through := hint p = 3
      bytes := finalBytes (ls.flatMap (·.2)) ((ls.filter fun e => sameLeaf p e.1.leaf).flatMap (·.2)) }

/-- The bytes of buffered stores, in program order. -/
def bufBytes (ls : List SbStore) : List (Nat × Byte) := ls.flatMap (·.bytes)

/-- The buffered stores of a tail perform at its commit, in program order (R210). -/
def State.drainBuffer (s : State) (g core : Nat) (ls : List SbStore) : State :=
  ls.foldl (fun s e => s.storePage (some g) (if e.through then none else some core) e.leaf e.bytes (dieOf core)) s

end Sys2Proof.Machine
end

