-- ==== Sys2Proof/Machine/Lsu.lean ====
section
/-! DEFINITION. LD, ST, PREF, the near atomics and the issue of the far reductions (R223 to R238). -/
namespace Sys2Proof.Machine

/-- The bytes of an access by its W field (R224). -/
def accessBytes (w : BitVec 3) : Nat := 2 ^ w.toNat

/-- The use of the data operand of a memory word: registers and alignment by W (R224). -/
def dataUse (o : Operand) (w : BitVec 3) (wr : Bool) : Use :=
  match w.toNat with
  | 3 => ⟨o, wr, 2, 2, 1, 1⟩
  | 4 => ⟨o, wr, 4, 4, 1, 1⟩
  | _ => ⟨o, wr, 1, 1, 1, 1⟩

/-- The uses of the address operands of a memory word (R223). -/
def addrUses (x : MemArgs) : List Use :=
  match x.base with
  | .xt _ => [Use.r x.a]
  | .s n => [Use.r x.a, Use.r (.s n)]
  | .pair => [Use.q x.a]

/-- The hint of a memory word (R183): its own, or the page's. -/
def hintOf (x : MemArgs) (l : Leaf) : Nat :=
  let h := bitsOf x.hintx.toNat 2 1
  if h = 0 then l.hint else h

/-- The accesses of a memory word: the scalar pipe's one, or one for each active lane in ascending order (R223). -/
def accesses (x : MemArgs) (i : Issuer) (G : Gang) (gr : Group) (scalar : Bool) : List (Nat × Nat) :=
  if scalar then [(0, (laneAddr x i G gr true 0).toNat)] else i.acts.map fun l => (l, (laneAddr x i G gr false l).toNat)

/-- An access through a translation register that holds no translation (R176). -/
def xtEmpty (x : MemArgs) (G : Gang) (gr : Group) : Bool :=
  match accessXt x G gr with | some t => !t.valid | none => false

/-- The ILLOP of R176: TRAPMASK the active lanes. -/
def xtTrap (i : Issuer) (scalar : Bool) : TrapInfo := { TrapInfo.plain .illop i.active i.frag i.pc with once := scalar }

/-- A loaded value in a scalar register (R224). -/
def scalarLoad (w : BitVec 3) (sx : Bool) (v : Nat) : DWord :=
  if sx then BitVec.ofInt 64 (sxNat v (8 * accessBytes w)) else BitVec.ofNat 64 v

/-- A loaded value in the elements of a lane (R224): narrow ones extended, wide ones in consecutive registers. -/
def laneLoad (w : BitVec 3) (sx : Bool) (n l v : Nat) : List (Nat × Word) :=
  let k := accessBytes w
  if k ≤ 4 then [(32 * n + l, if sx then BitVec.ofInt 32 (sxNat v (8 * k)) else BitVec.ofNat 32 v)]
  else (List.range (k / 4)).map fun j => (32 * (n + j) + l, BitVec.ofNat 32 (v / 2 ^ (32 * j)))

/-- The registers that loaded values go to. -/
def loadRes (x : MemArgs) (vals : List (Nat × Nat)) : Res :=
  let sx := x.hintx.getLsbD 0
  match x.d with
  | .v n => ⟨vals.flatMap fun e => laneLoad x.w sx n.val e.1 e.2, [], 0⟩
  | .s n => ⟨[], vals.map fun e => (n.val, scalarLoad x.w sx e.2), 0⟩
  | _ => .none

/-- A load that issues in the tail (R206, R208, R226): registers logged and marked pending, words and pages entered; in
crawl mode the values arrive at once (R215). -/
def Gang.beginLoad (g : Gang) (r : Res) (reads : List Nat) (pages : List (Nat × Nat)) : Gang :=
  match g.tail with
  | none => g.commitRes r
  | some _ =>
    let g := r.regs.foldl Gang.logReg g
    { g with
      pend := if r.regs.isEmpty then g.pend else g.pend ++ [⟨r.vw, r.sw⟩]
      tail := g.tail.map fun t =>
        { t with reads := reads.foldl insNat t.reads, pages := pages.foldl (fun l p => if l.contains p then l else l ++ [p]) t.pages } }

/-- What one access leaves in the caches and the counters (R180, R182, R183, R378): a miss where the issuing core's L1 holds no copy of
the word, which reads the line at its home slice; a store may be absorbed by the L1. `hit` is true of a window line that an earlier lane
fetches. -/
def State.touch (s : State) (p ctx : Nat) (wr : Bool) (hint : Leaf → Nat) (hit : Bool) (x : Xlat) : State :=
  let core := p / 8
  let slice := homeSlice x.pa (dieOf core)
  if x.leaf.crew then s
  else
    let hit := hit || if x.window then (copyOf s.l1win core (x.pa / 128)).isSome else s.hasWord core (x.pa / 4)
    let s := if hit then s else (s.count p ctx 0x21 1).countSlice slice 0x40 1
    let s := if wr then s.countSliceFree slice 0x41 else s
    s.allocate core (hint x.leaf) x

/-- The same for the accesses of an instruction, in ascending lane order. -/
def State.touchAll (s : State) (p ctx : Nat) (wr : Bool) (hint : Leaf → Nat) (xs : List Xlat) : State :=
  (xs.foldl (fun (r : List Nat × State) x =>
    (if x.window && !x.leaf.mapped && hint x.leaf != 3 then insNat r.1 (x.pa / 128) else r.1,
      r.2.touch p ctx wr hint (x.window && r.1.contains (x.pa / 128)) x)) ([], s)).2

/-- Whether a bank command holds a word of the accesses, or of the tiles they reach (R265, R348). -/
def State.heldAny (s : State) (xs : List Xlat) (n : Nat) : Bool :=
  xs.any fun x =>
    if x.leaf.mapped then let t := tileOf x.leaf x.pa; s.held t.pa 256 || s.held t.hpa 32
    else s.held x.pa n

/-- Whether `n` more requests do not fit those that a core may have outstanding (R1): one for each value that a load of it awaits
(DEDUCED: notes/assumptions 54). -/
def State.requestsFull (s : State) (core n : Nat) : Bool :=
  Config.requests < n + (s.gangs.map fun g => if g.part / 8 = core then (g.pend.map fun p => p.vw.length + p.sw.length).sum else 0).sum

/-- The end of an irrevocable instruction: on to PC + 8, or its trap, precise (R212). -/
def State.settle1 (s : State) (g : Nat) (m : BitVec 8) (t : Option TrapInfo) : State :=
  match t with
  | none => s.updGang g fun G => G.advance m
  | some t => s.fault g t

/-- LD of a gang after its word checks (R226, R227). -/
def State.load (s : State) (x : MemArgs) (g : Nat) (G : Gang) (gr : Group) (i : Issuer) : State :=
  let scalar := x.d.isS
  let n := accessBytes x.w
  let c : Accessor := ⟨G.part, gr.ctx, G.grp, false, false⟩
  let las := accesses x i G gr scalar
  if xtEmpty x G gr && !las.isEmpty then
    s.speculate g G i.pc false ⟨[], [], []⟩ fun s => s.conclude g i.frag (some (xtTrap i scalar))
  else
    let (r, s) := s.checkLanes c (accessXt x G gr) n las
    let ok := passed r
    let xs := ok.map (·.2)
    if s.heldAny xs n then s.stall g
    else if las.any fun e => (s.ctx gr.ctx).inWindow e.2 then
      s.irrevocable g G fun s =>
        let (rd, s) := (s.touchAll G.part gr.ctx false (hintOf x) xs).readLanes G.core (hintOf x) none n ok
        let s := s.updGang g fun G => G.commitRes (loadRes x (readOk rd))
        some (s.settle1 g i.frag (reportLanes i scalar 1 r (readFails rd)))
    else
      let (rd, s) := s.readLanes G.core (hintOf x) G.tail n ok
      let res := loadRes x (readOk rd)
      if s.requestsFull G.core (if G.crawl then 0 else res.vw.length + res.sw.length) then s.stall g
      else s.speculate g G i.pc false ⟨res.regs, [], if G.crawl then [] else readSet rd⟩ fun s =>
        ((s.touchAll G.part gr.ctx false (hintOf x) xs).updGang g fun G =>
          G.beginLoad res (readSet rd) (pagesOf xs ++ failPages r)).conclude g i.frag (reportLanes i scalar 1 r (readFails rd))

/-- The physical address of a bank core's byte 0 (R170). -/
def bankBase (b : Nat) : Nat := 0x200000000 * (b / 256) + 0x2000000 * (b % 256)

/-- The bank addresses of a bank access (R337), lane by lane, or once on the scalar pipe. -/
def bankAccesses (x : MemArgs) (i : Issuer) (scalar : Bool) : List (Nat × Nat) :=
  match x.base with
  | .s n =>
    if scalar then [(0, (formAddr (i.getS n.val) ((i.rds x.a).setWidth 32) x.off).toNat)]
    else i.acts.map fun l => (l, (formAddr (i.getS n.val) (i.rd x.a l) x.off).toNat)
  | _ => []

/-- Whether a bank LD or ST is legal (R71, R337): AM 1, W at most 2, no hint. -/
def bankMemOk (x : MemArgs) : Bool :=
  x.w.toNat ≤ 2 && bitsOf x.hintx.toNat 2 1 = 0 && (match x.base with | .s _ => true | _ => false)

/-- What a bank access fails with (R337): outside the segment, or misaligned. -/
def bankFail (k : Kernel) (n a : Nat) : Option Cause :=
  if a < k.seg || k.seg + k.segLen < a + n then some .bankrange else if a % n != 0 then some .align else none

/-- A tile that the recall of the running command could not materialise (R257, R326). -/
def State.badTile (s : State) (b pa : Nat) : Option Cause :=
  match s.running b with
  | some i =>
    match s.items[i]? with
    | some it => (s.cmd it.cmd).bind fun c => (c.bad.find? fun e => e.1 = pa / 256 * 256).map (·.2.1)
    | none => none
  | none => none

/-- LD of a bank core (R337). -/
def State.bankLoad (s : State) (x : MemArgs) (b : Nat) (k : Kernel) (i : Issuer) : State :=
  let n := accessBytes x.w
  let las := bankAccesses x i x.d.isS
  if !bankMemOk x || (dataUse x.d x.w true :: addrUses x).any (Use.badBank i) then s.abortKernel b .illop i.pc.toNat
  else match las.findSome? fun e => bankFail k n e.2 with
    | some c => s.abortKernel b c i.pc.toNat
    | none =>
      match las.findSome? fun e => s.badTile b (bankBase b + e.2) with
      | some c => s.abortKernel b c i.pc.toNat
      | none =>
        if las.any fun e => s.isPoisoned ((bankBase b + e.2) / 4) then s.abortKernel b .poison i.pc.toNat
        else
        let vals := las.map fun e => (e.1, memNat s.mem (bankBase b + e.2) n)
        s.updKernel b fun k => k.commitRes (loadRes x vals)

/-- The meaning of LD (R226, R227, R337). -/
def execLd (x : MemArgs) (s : State) : Host.Outcome State Fault Refusal :=
  match s.issue with
  | .bank b k i => .next (s.bankLoad x b k i)
  | _ =>
    let us := dataUse x.d x.w true :: addrUses x
    s.onGang (usesCheck us) us fun g G gr i => s.load x g G gr i

/-- The data that a lane, or the scalar pipe, stores (R224, R228). R60 gives a special value no 128-bit position: ST.Q of one stores it
zero-extended to 16 bytes (DESIGN CHOICE: notes/assumptions 64). -/
def storeData (x : MemArgs) (i : Issuer) (scalar : Bool) (l : Nat) : Nat :=
  let n := accessBytes x.w
  if scalar then (i.rds x.d).toNat % 2 ^ (8 * n)
  else match x.d with
    | .v k =>
      if n ≤ 4 then (i.rd x.d l).toNat % 2 ^ (8 * n)
      else (List.range (n / 4)).foldl (fun a j => a + (i.getV (k.val + j) l).toNat * 2 ^ (32 * j)) 0
    | _ => (i.special (match x.d with | .sp y => y | _ => .zero) l).toNat % 2 ^ (8 * n)

/-- The bytes that the lanes of a store write, in ascending lane order (R228). -/
def storeBytes (x : MemArgs) (i : Issuer) (scalar : Bool) (ok : List (Nat × Xlat)) : List (Nat × Byte) :=
  ok.flatMap fun e => laneBytes e.2 (accessBytes x.w) (storeData x i scalar e.1)

/-- The lanes of a store that fail beyond R225 (R186, R257), as the gang with the open tail `t` sees memory. -/
def State.storeFails (s : State) (core : Nat) (t : Option Tail) (x : MemArgs) (i : Issuer) (scalar : Bool) (ok : List (Nat × Xlat)) :
    List LaneFail :=
  let all := storeBytes x i scalar ok
  let n := accessBytes x.w
  ok.filterMap fun e =>
    match s.tileStoreFail e.2 all with
    | some c => some (e.1, e.2.va, c, false)
    | none =>
      if s.partialPoison core t e.2 (laneBytes e.2 n (storeData x i scalar e.1)) n then some (e.1, e.2.va, .poison, false) else none

/-- A store that issues in the tail (R207): its bytes go into the store buffer, and the tail notes the pages of its lanes (R213). -/
def Gang.beginStore (g : Gang) (es : List SbStore) (pages : List (Nat × Nat)) : Gang :=
  { g with tail := g.tail.map fun t =>
      { t with
        sbuf := t.sbuf ++ es
        pages := pages.foldl (fun l p => if l.contains p then l else l ++ [p]) t.pages } }

/-- ST of a gang after its word checks (R228, R229). -/
def State.store (s : State) (x : MemArgs) (g : Nat) (G : Gang) (gr : Group) (i : Issuer) : State :=
  let scalar := x.d.isS
  let n := accessBytes x.w
  let c : Accessor := ⟨G.part, gr.ctx, G.grp, true, false⟩
  let las := accesses x i G gr scalar
  if xtEmpty x G gr && !las.isEmpty then
    s.speculate g G i.pc false ⟨[], [], []⟩ fun s => s.conclude g i.frag (some (xtTrap i scalar))
  else
    let (r, s) := s.checkLanes c (accessXt x G gr) n las
    let bad := s.storeFails G.core G.tail x i scalar (passed r)
    let ok := (passed r).filter fun e => !bad.any fun f => f.1 = e.1
    let t := reportLanes i scalar 2 r bad
    let xs := ok.map (·.2)
    let bs := storeBytes x i scalar ok
    let direct (s : State) (ok : List (Nat × Xlat)) : State :=
      (s.touchAll G.part gr.ctx true (hintOf x) (ok.map (·.2))).performStores g G.core (hintOf x) (ok.map (·.2)) (storeBytes x i scalar ok)
    if (las.any fun e => (s.ctx gr.ctx).inWindow e.2) || partTile ((passed r).map (·.2)) (storeBytes x i scalar (passed r)) then
      s.irrevocable g G fun s =>
        if s.heldAny xs n then none
        else
          let (lost, s) := s.farParts xs bs
          let fails (e : Nat × Xlat) : Bool := e.2.leaf.mapped && lost.contains (e.2.pa / 256 * 256)
          let far : List LaneFail := (ok.filter fails).map fun e => (e.1, e.2.va, .poison, false)
          some ((direct s (ok.filter fun e => !fails e)).settle1 g i.frag (reportLanes i scalar 2 r (bad ++ far)))
    else if G.crawl then
      if s.heldAny xs n then s.stall g
      else s.speculate g G i.pc false ⟨[], [], []⟩ fun s => (direct s ok).conclude g i.frag t
    else
      s.speculate g G i.pc false ⟨[], bs.foldl (fun l e => insNat l (e.1 / 128)) [], []⟩ fun s =>
        let es := s.bufStores (hintOf x) (ok.map fun e => (e.2, laneBytes e.2 n (storeData x i scalar e.1)))
        ((s.touchAll G.part gr.ctx true (hintOf x) xs).updGang g fun G =>
          G.beginStore es (pagesOf ((passed r).map (·.2)) ++ failPages r)).conclude g i.frag t

/-- ST of a bank core (R337): lanes with one address write in ascending order. -/
def State.bankStore (s : State) (x : MemArgs) (b : Nat) (k : Kernel) (i : Issuer) : State :=
  let n := accessBytes x.w
  let scalar := x.d.isS
  let las := bankAccesses x i scalar
  if !bankMemOk x || (dataUse x.d x.w false :: addrUses x).any (Use.badBank i) then s.abortKernel b .illop i.pc.toNat
  else match las.findSome? fun e => bankFail k n e.2 with
    | some c => s.abortKernel b c i.pc.toNat
    | none =>
      match las.findSome? fun e => s.badTile b (bankBase b + e.2) with
      | some c => s.abortKernel b c i.pc.toNat
      | none =>
        if n < 4 && las.any fun e => s.isPoisoned ((bankBase b + e.2) / 4) then s.abortKernel b .poison i.pc.toNat
        else
        let bs := las.flatMap fun e => (List.range n).zip (leBytes n (storeData x i scalar e.1)) |>.map fun p => (bankBase b + e.2 + p.1, p.2)
        (s.writeMem none none bs).updKernel b fun k => { k with pc := k.pc + 8 }

/-- The meaning of ST (R228, R229, R337). -/
def execSt (x : MemArgs) (s : State) : Host.Outcome State Fault Refusal :=
  match s.issue with
  | .bank b k i => .next (s.bankStore x b k i)
  | _ =>
    let us := dataUse x.d x.w false :: addrUses x
    s.onGang (usesCheck us) us fun g G gr i => s.store x g G gr i

/-- Whether a PREF of `n` bytes finds a poisoned word (R230): one of those bytes' in the window copy or in memory, or a header word of
their tile. -/
def State.prefPoison (s : State) (core : Nat) (t : Option Tail) (x : Xlat) (n : Nat) : Bool :=
  let ws := ((List.range n).map fun k => (x.pa + k) / 4).eraseDups
  if x.window && !x.leaf.mapped then ws.any (s.windowBad core)
  else ws.any (s.poisonIn t) || (x.leaf.mapped && s.hdrPoisonIn t (tileOf x.leaf x.pa))

/-- What PREF leaves of one lane (R230): a line of the issuing core's L1 and of its home slice, a window copy or a coherent one, with
the retention of its hint; a malformed entry is recorded (R240). -/
def State.prefLane (s : State) (x : MemArgs) (g : Nat) (G : Gang) (gr : Group) (va : Nat) : State :=
  let c : Accessor := ⟨G.part, gr.ctx, G.grp, false, false⟩
  let n := accessBytes x.w
  if xtEmpty x G gr then s
  else match s.checkAccess c (accessXt x G gr) va n with
    | (.error f, s) => match f.badPte with | some pte => s.noteWalk g pte | none => s
    | (.ok t, s) =>
      if leafDiscard s.mem t.leaf || s.heldAny [t] n || s.prefPoison G.core G.tail t n then s
      else if t.window && !t.leaf.mapped then (s.fetchCopy G.core (hintOf x t.leaf) (t.pa / 128)).2
      else s.allocate G.core (hintOf x t.leaf) t

/-- The meaning of PREF (R230): no trap, no event. -/
def execPref (x : MemArgs) (s : State) : Host.Outcome State Fault Refusal :=
  let us := addrUses x
  s.onGang (usesCheck us) us fun g G gr i =>
    s.speculate g G i.pc false ⟨[], [], []⟩ fun s =>
      ((accesses x i G gr false).foldl (fun s e => s.prefLane x g G gr e.2) s).updGang g fun G => G.advance i.frag

/-! ### Near atomics -/

/-- The operations of R231 on `n` bytes. -/
def atomOp (opc n old d : Nat) : Nat :=
  let f := if n = 4 then fp32 else fp64
  match opc with
  | 0 => d
  | 1 => (old + d) % 2 ^ (8 * n)
  | 2 => if sxNat d (8 * n) < sxNat old (8 * n) then d else old
  | 3 => if sxNat old (8 * n) < sxNat d (8 * n) then d else old
  | 4 => old &&& d
  | 5 => old ||| d
  | 6 => (f.add 0 false (f.decode old) (f.decode d)).1
  | _ => (f.minmax true false old d).1

/-- One read-write event (R232, R234): the tile materialised first, the old value, the new one written. -/
def State.rmw (s : State) (who own : Option Nat) (x : Xlat) (n : Nat) (f : Nat → Nat) (die : Nat := 0) : Nat × State :=
  let l := s.nowLeaf x.leaf
  let s := s.revive l
  let l := l.revived
  let s := if l.mapped then s.materialise who (tileOf l x.pa) die else s
  let old := memNat s.mem x.pa n
  (old, s.storePage who own l (laneBytes x n (f old)) die)

/-- The failures of a read-write access beyond R225: a malformed header, a poisoned word (R186, R257, R263). -/
def State.rmwFail (s : State) (x : Xlat) (n : Nat) : Option Cause :=
  let ws := (List.range n).map fun k => (x.pa + k) / 4
  if leafDiscard s.mem x.leaf then none
  else if x.leaf.mapped then s.tileFail (tileOf x.leaf x.pa) ws
  else if ws.any s.isPoisoned then some .poison else none

/-- The lanes of an atomic in ascending order (R232): each lane's old value. They perform in the L1 (R182) under the default hint of
R231, whatever the page's HINT, so that the core owns the word (DESIGN CHOICE: notes/assumptions 64). -/
def State.rmwLanes (s : State) (g core n : Nat) (f : Nat → Nat → Nat) : List (Nat × Xlat) → List (Nat × Nat) × State
  | [] => ([], s)
  | (l, x) :: r =>
    let (old, s) := s.rmw (some g) (some core) x n (f l) (dieOf core)
    let (t, s) := State.rmwLanes s g core n f r
    ((l, old) :: t, s)

/-- ATOM and CAS of a gang after their word checks (R232 to R234): `f l old` is the new value in lane `l`, `put` the
registers that receive the old values. -/
def State.atomic (s : State) (x : MemArgs) (g : Nat) (G : Gang) (gr : Group) (i : Issuer) (f : Nat → Nat → Nat)
    (put : List (Nat × Nat) → Res) : State :=
  let scalar := x.d.isS
  let n := accessBytes x.w
  let c : Accessor := ⟨G.part, gr.ctx, G.grp, true, true⟩
  let las := accesses x i G gr scalar
  s.irrevocable g G fun s =>
    if xtEmpty x G gr && !las.isEmpty then some (s.fault g (xtTrap i scalar))
    else
      let (r, s) := s.checkLanes c (accessXt x G gr) n las
      let bad := (passed r).filterMap fun e => (s.rmwFail e.2 n).map fun c => (e.1, e.2.va, c, false)
      let ok := (passed r).filter fun e => !bad.any fun b => b.1 = e.1
      if s.heldAny (ok.map (·.2)) n then none
      else
        let t := reportLanes i scalar 11 r bad
        let (olds, s) := (s.touchAll G.part gr.ctx true (fun _ => 0) (ok.map (·.2))).rmwLanes g G.core n f ok
        some ((s.updGang g fun G => G.commitRes (put olds)).settle1 g i.frag t)

/-- The meaning of ATOM (R231, R232, R234). -/
def execAtom (x : MemArgs) (s : State) : Host.Outcome State Fault Refusal :=
  let us := dataUse x.d x.w true :: addrUses x
  s.onGang (usesCheck us) us fun g G gr i =>
    s.atomic x g G gr i
      (fun l old => atomOp x.hintx.toNat (accessBytes x.w) old (storeData x i x.d.isS l))
      (fun olds => loadRes { x with hintx := 0 } olds)

/-- The use of D in CAS (R233): compare and new value side by side. -/
def casUse (x : MemArgs) : Use := if x.w = 3 then ⟨x.d, true, 4, 4, 2, 2⟩ else ⟨x.d, true, 2, 2, 2, 2⟩

/-- Compare value and new value of a lane, or of the scalar pipe (R233). -/
def casData (x : MemArgs) (i : Issuer) (l : Nat) : Nat × Nat :=
  match x.d with
  | .s n =>
    let m := 2 ^ (8 * accessBytes x.w)
    ((i.getS n.val).toNat % m, (i.getS (n.val + 1)).toNat % m)
  | .v n =>
    if x.w = 3 then ((i.getV (n.val + 1) l ++ i.getV n.val l).toNat, (i.getV (n.val + 3) l ++ i.getV (n.val + 2) l).toNat)
    else ((i.getV n.val l).toNat, (i.getV (n.val + 1) l).toNat)
  | _ => (0, 0)

/-- The meaning of CAS (R233, R234). -/
def execCas (x : MemArgs) (s : State) : Host.Outcome State Fault Refusal :=
  let us := casUse x :: addrUses x
  s.onGang (usesCheck us) us fun g G gr i =>
    s.atomic x g G gr i
      (fun l old => let d := casData x i l; if old = d.1 then d.2 else old)
      (fun olds => loadRes { x with hintx := 0 } olds)

/-! ### Asynchronous operations -/

/-- The outstanding operations of a class (R140). -/
def Gang.count (g : Gang) (cls : Nat) : Nat := (g.cnt[cls]?).getD 0

/-- An operation of a class issues (R140): counted, with its elements. -/
def State.issueOp (s : State) (g cls : Nat) (kind : OpKind) (es : List Elem) (pages : List (Nat × Leaf)) (busy : Bool) : State :=
  match s.gangs[g]? with
  | none => s
  | some G =>
    let gr := s.groups[G.grp]?
    let op : AsyncOp :=
      { id := s.nextOp, gang := g, cls := cls, ctx := s.ctxOf G.grp, node := (match gr with | some x => x.node | none => 0),
        kind := kind, elems := es, pages := pages, busy := busy }
    { s.updGang g fun G => { G with cnt := updAt G.cnt cls (· + 1) } with nextOp := s.nextOp + 1, ops := s.ops ++ [op] }

/-- A far operation's translation (R236): through a register or the TLB only, there through any entry that it holds (R174, free); a miss is
deferred and never fails. `bytes` are those that it touches: a crew-window record must lie below SCRATCH as a whole (R165). -/
def State.farResolve (s : State) (c : Accessor) (xt : Option Xt) (va n bytes : Nat) : Except XFail (Option Xlat) :=
  if !s.check1 c.grp va || (inCrew va && !s.check1 c.grp (va + bytes - 1)) then .error ⟨.prot, false, none, none⟩
  else if va % n != 0 then .error ⟨.align, false, none, none⟩
  else
    let permit (l : Leaf) (pa : Nat) : Except XFail (Option Xlat) :=
      match (s.ctx c.ctx).permit l va pa true false true with | .ok x => .ok (some x) | .error f => .error f
    match xt.bind fun x => x.covers va n with
    | some (page, l) => permit (s.nowLeaf l) (l.frame + (va - page))
    | none =>
      if inCrew va then
        match s.crewMember c.grp va with
        | some (m, off) => permit (crewLeaf m) (Config.scratchBase m + off)
        | none => .error ⟨.prot, false, none, none⟩
      else
        let es := s.tlb.filter fun e => e.covers (c.p / 8) c.ctx va
        match es[Config.freePick s.stamp va % es.length]? with
        | some e => permit e.leaf (e.leaf.frame + va % e.leaf.size)
        | none => .ok none

/-- The pages of an operation's elements, for PGINV (R247). -/
def leavesOf (xs : List Xlat) : List (Nat × Leaf) :=
  (xs.filterMap fun x => if x.leaf.crew || x.leaf.size = 0 then none else some (x.va / x.leaf.size * x.leaf.size, x.leaf)).eraseDups

/-- The meaning of RED (R235, R236): accepted and deferred lanes become elements; a resolved lane that fails traps. A deferred lane counts as
a TLB miss (R378). -/
def execRed (x : MemArgs) (s : State) : Host.Outcome State Fault Refusal :=
  let us := dataUse x.d x.w false :: addrUses x
  s.onGang (usesCheck us) us fun g G gr i =>
    let scalar := x.d.isS
    let n := accessBytes x.w
    let c : Accessor := ⟨G.part, gr.ctx, G.grp, true, true⟩
    let las := accesses x i G gr scalar
    s.irrevocable g G fun s =>
      if 31 ≤ G.count 5 then none
      else if xtEmpty x G gr && !las.isEmpty then some (s.fault g (xtTrap i scalar))
      else
        let r := las.map fun e => (e.1, e.2, s.farResolve c (accessXt x G gr) e.2 n n)
        let fails : List LaneFail := r.filterMap fun e => match e.2.2 with
          | .error f => some (e.1, e.2.1, f.cause, f.gather)
          | .ok (some t) => (s.rmwFail t n).map fun c => (e.1, e.2.1, c, false)
          | .ok none => none
        let ok := r.filterMap fun e => match e.2.2 with
          | .ok t => if fails.any fun f => f.1 = e.1 then none else some (e.1, e.2.1, t)
          | .error _ => none
        let es := ok.map fun e => Elem.red e.2.1 e.2.2 (BitVec.ofNat 64 (storeData x i scalar e.1))
        let t := reportFails i scalar 11 fails
        let s := s.count G.part gr.ctx 0x22 (r.filter fun e => match e.2.2 with | .ok none => true | _ => false).length
        let s := if es.isEmpty && t.isSome then s
          else (s.issueOp g 5 (.red x.hintx.toNat (x.w == 3)) es (leavesOf (ok.filterMap (·.2.2))) false).gather
        some (s.settle1 g i.frag t)

/-- The use of D in SMRG (R237): vE to vE + v. -/
def smrgUse (x : MemArgs) : Use := ⟨x.d, false, x.hintx.toNat + 1, 1, 1, 1⟩

/-- The incoming partial of SMRG (R237), from all 32 lanes: m', l' and the o' elements. -/
def smrgData (x : MemArgs) (i : Issuer) : Word × Word × List Word :=
  match x.d with
  | .v n => (i.getV n.val 0, i.getV n.val 1,
      (List.range x.hintx.toNat).flatMap fun k => (List.range 32).map fun j => i.getV (n.val + 1 + k) j)
  | _ => (0, 0, [])

/-- The meaning of SMRG (R236 to R238): once per issue of a fragment with an active lane. -/
def execSmrg (x : MemArgs) (s : State) : Host.Outcome State Fault Refusal :=
  let us := smrgUse x :: (addrUses x).drop 1
  s.onGang (usesCheck us) us fun g G gr i =>
    let c : Accessor := ⟨G.part, gr.ctx, G.grp, true, true⟩
    let va := (laneAddr x i G gr true 0).toNat
    s.irrevocable g G fun s =>
      if i.acts.isEmpty then some (s.updGang g fun G => G.advance i.frag)
      else if 31 ≤ G.count 5 then none
      else
        let n := 128 * (1 + x.hintx.toNat)
        let trap (c : Cause) : TrapInfo := { TrapInfo.plain c i.active i.frag i.pc with acc := 11, once := true }
        match s.farResolve c Option.none va 1024 n with
        | .error f => some (s.fault g (trap f.cause))
        | .ok t =>
          let bad := match t with
            | some t => if t.leaf.mapped then some Cause.prot
                else if !leafDiscard s.mem t.leaf && (List.range (n / 4)).any fun k => s.isPoisoned (t.pa / 4 + k) then some .poison
                else none
            | none => none
          match bad with
          | some c => some (s.fault g (trap c))
          | none =>
            let (m, l, o) := smrgData x i
            let s := if t.isNone then s.count G.part gr.ctx 0x22 1 else s
            let s := (s.issueOp g 5 .smrg [.merge va t m l o] (leavesOf t.toList) false).gather
            some (s.updGang g fun G => G.advance i.frag)

end Sys2Proof.Machine
end

