-- ==== Sys2Proof/Machine/Sync.lean ====
section
/-! DEFINITION. Waiting, barriers, queues, scheduling, submission and traps (R140 to R163), and the control registers. -/
namespace Sys2Proof.Machine

/-! ### Waiting -/

/-- The thresholds of WAIT by class (R140, R141). -/
def waitLimits (x : WaitArgs) : List Nat := [x.cp.toNat, x.ts.toNat, x.mp.toNat, x.kv.toNat, x.bk.toNat, x.rd.toNat]

/-- Whether every class is at or below its threshold; 31 places no condition (R141). -/
def waitDone (x : WaitArgs) (G : Gang) : Bool :=
  (List.range 6).all fun c => let t := ((waitLimits x)[c]?).getD 31; t = 31 || G.count c ≤ t

/-- The meaning of WAIT (R141). -/
def execWait (x : WaitArgs) (s : State) : Host.Outcome State Fault Refusal :=
  s.onGang noCheck [] fun g G _ i =>
    if waitDone x G then s.speculate g G i.pc false ⟨[], [], []⟩ fun s => s.updGang g fun G => G.advance i.frag
    else s.stall g

/-- The window of a group's own scratchpad (R168): its first address. -/
def ownWindow (gr : Group) : Nat := crewBase + gr.rank * 2 ^ 21

/-- A fault of an instruction that acts once for its fragment (R157, step 3): WAITGE, LAUNCH, CWR. The spec names no LANES for their
traps: the model puts every lane of the issuing fragment there (DESIGN CHOICE: notes/assumptions 50). -/
def onceFail (i : Issuer) (c : Cause) (acc : Nat) : TrapInfo :=
  { TrapInfo.plain c i.lanes i.frag i.pc with acc := acc, once := true }

/-- Whether a counter word satisfies WAITGE (R142). -/
def counterDone (w b : Nat) : Bool := bitOf w 63 || b % 2 ^ 63 ≤ w % 2 ^ 63

/-- Words entered into the read set of an open tail (R208). -/
def Gang.enterReads (g : Gang) (ws : List Nat) : Gang :=
  { g with tail := g.tail.map fun t => { t with reads := ws.foldl insNat t.reads } }

/-- The pages of accesses entered into an open tail (R213). -/
def Gang.notePages (g : Gang) (xs : List Xlat) : Gang :=
  { g with tail := g.tail.map fun t =>
      { t with pages := (pagesOf xs).foldl (fun l p => if l.contains p then l else l ++ [p]) t.pages } }

/-- WAITGE of a gang after its word checks (R142). -/
def State.waitge (s : State) (x : Ops3) (g : Nat) (G : Gang) (gr : Group) (i : Issuer) : State :=
  let va := (i.rds x.a).toNat
  let base := ownWindow gr
  let fail (c : Cause) (ws : List Nat) : State :=
    s.speculate g G i.pc false ⟨[], [], if G.crawl then [] else ws⟩ fun s =>
      (s.updGang g fun G => G.enterReads ws).conclude g i.frag (some (onceFail i c 1))
  if va < base || base + gr.scratch < va + 1 then fail .prot []
  else if va % 8 != 0 then fail .align []
  else
    let t : Xlat := ⟨va, Config.scratchBase G.grp + (va - base), crewLeaf G.grp, false⟩
    match s.readCoherent G.tail t 8 with
    | .fail c ws => fail c ws
    | .ok bs ws =>
      if !counterDone (leNat bs) (i.rds x.b).toNat then s.stall g
      else
        let r : Res := match x.d with | .s n => ⟨[], [(n.val, BitVec.ofNat 64 (leNat bs))], 0⟩ | _ => .none
        s.speculate g G i.pc false ⟨r.regs, [], if G.crawl then [] else ws⟩ fun s =>
          s.updGang g fun G => ((G.commitRes r).enterReads ws).advance i.frag

/-- The meaning of WAITGE (R142). -/
def execWaitge (x : Ops3) (s : State) : Host.Outcome State Fault Refusal :=
  let us := [Use.w x.d, Use.r x.a, Use.r x.b]
  s.onGang (usesCheck us) us fun g G gr i => s.waitge x g G gr i

/-! ### Barriers -/

/-- Whether a gang holds more than one fragment (R145). -/
def Gang.divided (g : Gang) : Bool := 1 < ((g.slices.filter (·.live)).map (·.frag)).eraseDups.length

/-- The trap of a divided gang at a barrier (R145), and of a queue operation without its queue (R147): TRAPMASK the
lanes of the issuing fragment. -/
def fragTrap (i : Issuer) (c : Cause) : TrapInfo := { TrapInfo.plain c i.lanes i.frag i.pc with once := true }

/-- A barrier by scope and id (R144), as one number: 0 to 15 group, 16 to 23 cluster. -/
def barKey (x : Sync) : Nat := if x.scope = 5 then 16 + x.id.toNat else x.id.toNat

/-- A barrier of the group or of its crew. -/
def State.barrier (s : State) (gr : Group) (k : Nat) : Barrier :=
  if k < 16 then (gr.bars[k]?).getD Barrier.idle
  else match s.crews[gr.crew]? with | some c => (c.bars[k - 16]?).getD Barrier.idle | none => Barrier.idle

/-- A gang arrives in the current phase of a barrier, which completes when every participant has (R144). -/
def State.arrive (s : State) (g grp : Nat) (gr : Group) (k : Nat) : State :=
  let add (b : Barrier) : Barrier := { b with arrived := insNat b.arrived g }
  let s := if k < 16 then s.updGroup grp fun gr => { gr with bars := updAt gr.bars k add }
    else s.updCrew gr.crew fun c => { c with bars := updAt c.bars (k - 16) add }
  s.settleAll grp

/-- Whether an arrival of the gang stands in a phase that has not completed (R144). -/
def State.waitsAt (s : State) (g : Nat) (gr : Group) (k : Nat) : Bool := (s.barrier gr k).arrived.contains g

/-- The meaning of BARA (R144, R145). -/
def execBara (x : Sync) (s : State) : Host.Outcome State Fault Refusal :=
  s.onGang noCheck [] fun g G gr i =>
    s.irrevocable g G fun s =>
      if G.divided then some (s.fault g (fragTrap i .illop))
      else if s.waitsAt g gr (barKey x) then none
      else some ((s.updGang g fun G => G.advance i.frag).arrive g G.grp gr (barKey x))

/-- The meaning of BARW (R144, R145). -/
def execBarw (x : Sync) (s : State) : Host.Outcome State Fault Refusal :=
  s.onGang noCheck [] fun g G gr i =>
    if G.divided then
      s.speculate g G i.pc false ⟨[], [], []⟩ fun s => s.conclude g i.frag (some (fragTrap i .illop))
    else if s.waitsAt g gr (barKey x) then s.stall g
    else s.speculate g G i.pc false ⟨[], [], []⟩ fun s => s.updGang g fun G => G.advance i.frag

/-- The meaning of BAR (R144, R145): the arrival as of BARA, noted in the gang, then the wait as of BARW. -/
def execBar (x : Sync) (s : State) : Host.Outcome State Fault Refusal :=
  s.onGang noCheck [] fun g G gr i =>
    let k := barKey x
    let leave (s : State) : State := s.updGang g fun G => { G with inBar := none }.advance i.frag
    if G.inBar = some k then
      s.irrevocable g G fun s => if s.waitsAt g gr k then none else some (leave s)
    else if G.divided then s.irrevocable g G fun s => some (s.fault g (fragTrap i .illop))
    else if G.tail.isSome || !G.pend.isEmpty || s.waitsAt g gr k || (G.crawl && 256 ≤ G.crawlCnt) then
      s.irrevocable g G fun _ => none
    else
      let t := s.arrive g G.grp gr k
      if t.waitsAt g ((t.groups[G.grp]?).getD gr) k then (t.updGang g fun G => { G with inBar := some k }).stall g
      else s.irrevocable g G fun _ => some (leave t)

/-! ### Queues -/

/-- The declaration that a queue id names (R38, R147). -/
def State.qdecl (s : State) (gr : Group) (id : Nat) : Option QDecl :=
  match s.nodes[gr.node]? with
  | some n => n.lr.queues.find? (·.qid == id)
  | none => none

/-- The instance that a group shares (R33). -/
def State.qinst (s : State) (gr : Group) (d : QDecl) : Option Nat :=
  let crew := match s.nodes[gr.node]? with | some n => n.lr.crew | none => 1
  s.queues.findIdx? fun q =>
    q.node = gr.node && q.decl = d && q.x = (if d.scope = 5 then gr.x / crew else gr.x) && q.y = gr.y && q.z = gr.z

/-- Whether a gang is the first of those blocked in its direction (R146). -/
def Queue.turn (q : Queue) (g : Nat) (push : Bool) : Bool :=
  match q.blocked.find? (·.2 == push) with | some e => e.1 = g | none => true

/-- A gang blocked on a queue, in the order of blocking (R146). -/
def Queue.block (q : Queue) (g : Nat) (push : Bool) : Queue :=
  if q.blocked.any (·.1 == g) then q else { q with blocked := q.blocked ++ [(g, push)] }

/-- A gang served. -/
def Queue.unblock (q : Queue) (g : Nat) : Queue := { q with blocked := q.blocked.filter (·.1 != g) }

/-- One queue changed. -/
def State.updQueue (s : State) (k : Nat) (f : Queue → Queue) : State := { s with queues := updAt s.queues k f }

/-- QPUSH and QPOP (R146, R147): `turn` serves the gang on the instance, or none while it must block. -/
def State.queueOp (s : State) (x : Sync) (push : Bool) (g : Nat) (G : Gang) (gr : Group) (i : Issuer)
    (serve : Queue → Option (Queue × Res)) : State :=
  let trap (s : State) : Option State := some (s.fault g (fragTrap i .qfullscope))
  let d := s.qdecl gr x.id.toNat
  let k := d.bind fun d => s.qinst gr d
  let ok : Bool := match d with
    | some d => d.scope = x.scope.toNat && gr.stage = (if push then d.pstage else d.cstage)
    | none => false
  if !ok then s.irrevocable g G trap
  else match k with
    | none => s.irrevocable g G trap
    | some k =>
      match s.queues[k]? with
      | none => s.irrevocable g G trap
      | some q =>
        match (if q.turn g push then serve q else none) with
        | some (q, r) =>
          s.irrevocable g G fun s =>
            some ((s.updQueue k fun _ => q.unblock g).updGang g fun G => (G.commitRes r).advance i.frag)
        | none =>
          if G.tail.isSome || !G.pend.isEmpty then s.irrevocable g G fun _ => none
          else (s.updQueue k fun q => q.block g push).stall g

/-- The meaning of QPUSH (R146, R147). -/
def execQpush (x : Sync) (s : State) : Host.Outcome State Fault Refusal :=
  let us := [Use.r x.d]
  s.onGang (usesCheck us) us fun g G gr i =>
    s.queueOp x true g G gr i fun q =>
      if q.entries.length < q.decl.depth then some ({ q with entries := q.entries ++ [i.rds x.d] }, .none) else none

/-- The meaning of QPOP (R146, R147). -/
def execQpop (x : Sync) (s : State) : Host.Outcome State Fault Refusal :=
  let us := [Use.w x.d]
  s.onGang (usesCheck us) us fun g G gr i =>
    s.queueOp x false g G gr i fun q =>
      match q.entries with
      | e :: r => some ({ q with entries := r }, match x.d with | .s n => ⟨[], [(n.val, e)], 0⟩ | _ => .none)
      | [] => none

/-! ### Priority, sleep, yard, submission, result -/

/-- The meaning of PASSPRI (R148). -/
def execPasspri (s : State) : Host.Outcome State Fault Refusal :=
  s.onGang noCheck [] fun g G _ i =>
    s.speculate g G i.pc false ⟨[], [], []⟩ fun s =>
      let s := s.updGang g fun G => G.advance i.frag
      match s.partner g with
      | some q =>
        if (s.part G.part).token = some g && s.resident q then s.updPart G.part fun P => P.handTo (some q)
        else s
      | none => s

/-- The clk that SLEEP waits (R149). -/
def sleepClks (v : DWord) : Nat := min (v.toNat % 2 ^ 32) (2 ^ 24)

/-- The slices of a fragment sleep (R149): until the clk after `n` whole ones. -/
def Gang.snooze (g : Gang) (m : BitVec 8) (now n : Nat) : Gang :=
  { g with sleep := g.sleep.mapIdx fun k t => if m.getLsbD k && n != 0 then now + n + 1 else t }

/-- The meaning of SLEEP (R149). -/
def execSleep (x : Ops1) (s : State) : Host.Outcome State Fault Refusal :=
  let us := [Use.r x.a]
  s.onGang (usesCheck us) us fun g G _ i =>
    s.speculate g G i.pc false ⟨[], [], []⟩ fun s =>
      s.updGang g fun G => (G.snooze i.frag s.clock.toNat (sleepClks (i.rds x.a))).advance i.frag

/-- The entries that YDEP deposits (R150, R360). -/
def yardEntries (x : Ops2) (i : Issuer) (gr : Group) : List YardEntry :=
  i.acts.map fun l =>
    { key := (i.rd x.x l).setWidth 16
      words := (match x.y with | .v n => (List.range 4).map fun k => i.getV (n.val + k) l | _ => [])
      lin := gr.lin, gang := i.gang, lane := l }

/-- The meaning of YDEP (R150). -/
def execYdep (x : Ops2) (s : State) : Host.Outcome State Fault Refusal :=
  let us := [Use.r x.x, ⟨x.y, false, 4, 1, 1, 1⟩]
  s.onGang (usesCheck us) us fun g G gr i =>
    s.irrevocable g G fun s =>
      let es := yardEntries x i gr
      match s.nodes[gr.node]? with
      | none => some (s.fault g (TrapInfo.plain .length i.active i.frag i.pc))
      | some n =>
        if n.lr.yard = 0 || n.lr.yard < n.yard.length + es.length then
          some (s.fault g (TrapInfo.plain .length i.active i.frag i.pc))
        else some ((s.updNode gr.node fun n => { n with yard := n.yard ++ es }).exitSlices g i.frag)

/-- The entries of a context's submission queue that count toward its 1024 (R352). -/
def Context.queued (c : Context) : Nat := (c.queue.filter (·.src != .edge)).length

/-- A record of KIND 0x09 from the dispatcher (R369). -/
def State.logGraph (s : State) (ctx : Nat) (c : Cause) (info addr node : Nat) : State :=
  s.logErr ctx 9 c info (unitCode 4 0) addr node

/-- Whether the node of a record has been launched and is not yet DONE (R356). -/
def State.launched (s : State) (ctx addr : Nat) : Bool := s.nodes.any fun n => n.ctx = ctx && n.addr = addr && n.stand == .launched

/-- A node becomes ready: it enters its context's queue (R352, R356); the readiness of one that has been launched and is not DONE is
dropped with a record. -/
def State.submit (s : State) (ctx addr : Nat) (src : SubSrc) : State :=
  if s.launched ctx addr then s.logGraph ctx .illop 0 addr addr
  else
    let x : Submission := ⟨addr, src, s.stamp⟩
    let s := s.updCtx ctx fun c => { c with queue := c.queue ++ [x] }
    { s with stamp := s.stamp + 1 }

/-- The meaning of LAUNCH (R151): the address checks, then the submission; the access flags of its traps are free
(notes/assumptions 4). Its PAGEFAULT is raised at issue and not gathered: R151 says that all three traps are raised at issue, R362
does not name LAUNCH (DESIGN CHOICE: notes/assumptions 50). -/
def execLaunch (x : Ops1) (s : State) : Host.Outcome State Fault Refusal :=
  let us := [Use.r x.a]
  s.onGang (usesCheck us) us fun g G gr i =>
    s.irrevocable g G fun s =>
      let va := (i.rds x.a).toNat
      let (n, s) := s.drawNat
      if crewBase ≤ va then some (s.fault g (onceFail i .prot (n % 16)))
      else if va % 256 != 0 then some (s.fault g (onceFail i .align 0))
      else match s.translate G.part gr.ctx va with
        | (.leaf _, s) =>
          if 1024 ≤ (s.ctx gr.ctx).queued then none
          else some ((s.submit gr.ctx va .device).updGang g fun G => G.advance i.frag)
        | (.invalid _ _, s) => some (s.fault g (onceFail i .pagefault (n % 16)))
        | (.malformed pte, s) =>
          some (s.fault g { onceFail i .pagefault (n % 16) with walks := [pte] })

/-- The values that POSTR posts (R152): one per active lane from a vector source, else one. -/
def postValues (x : Ops1) (i : Issuer) : List Word :=
  match x.a with
  | .v _ => i.acts.map fun l => i.rd x.a l
  | _ => [(i.rds x.a).setWidth 32]

/-- The meaning of POSTR (R152). -/
def execPostr (x : Ops1) (s : State) : Host.Outcome State Fault Refusal :=
  let us := [Use.r x.a]
  s.onGang (usesCheck us) us fun g G gr i =>
    s.irrevocable g G fun s =>
      let va := match s.nodes[gr.node]? with | some n => n.lr.result | none => 0
      let m := if maskAny i.active then i.active else i.lanes
      let c : Accessor := ⟨G.part, gr.ctx, G.grp, true, true⟩
      let fail (s : State) (f : XFail) : Option State :=
        let u := if f.gather then [(va / 65536 * 65536, m)] else []
        some (s.fault g { TrapInfo.plain f.cause m i.frag i.pc with acc := 2, once := true, gather := u, walks := f.badPte.toList })
      match s.checkAccess c none va 4 with
      | (.error f, s) => fail s f
      | (.ok t, s) =>
        if t.leaf.mapped then fail s ⟨.prot, false, none, none⟩
        else if s.held t.pa 4 then none
        else
          let die := dieOf G.core
          let s := (postValues x i).foldl (fun s v =>
            (s.storePage (some g) (storeOwner G.core t.leaf.hint) t.leaf (laneBytes t 4 v.toNat) die).countSlice (homeSlice t.pa die) 0x41 1) s
          some (s.updGang g fun G => G.advance i.frag)

/-- The meaning of TRAP (R153). -/
def execTrap (x : TrapArgs) (s : State) : Host.Outcome State Fault Refusal :=
  s.onGang noCheck [] fun g G _ i =>
    s.irrevocable g G fun s => some (s.fault g { TrapInfo.plain .user i.active i.frag i.pc with info := x.imm.toNat })

/-- The meaning of DRAIN (R154): every counter 0; an open tail and loads in flight hold it back like any irrevocable
operation. -/
def execDrain (s : State) : Host.Outcome State Fault Refusal :=
  s.onGang noCheck [] fun g G _ i =>
    s.irrevocable g G fun s => if G.cnt.all (· == 0) then some (s.updGang g fun G => G.advance i.frag) else none

/-- The meaning of ERET (R157). -/
def execEret (s : State) : Host.Outcome State Fault Refusal :=
  s.onGang (privCheck []) [] fun g G _ _ => s.irrevocable g G fun s => some (s.returnTrap g)

/-! ### Control registers -/

/-- Whether user mode may read a control register (R160). -/
def crUser (i : Nat) : Bool := i ≤ 1 || (0x050 ≤ i && i ≤ 0x05F)

/-- FLAGS (R162). -/
def State.flagsReg (s : State) (g : Nat) (G : Gang) : Nat :=
  let n := ((G.slices.filter (·.live)).map (·.frag)).eraseDups.length
  (n - 1) * 16 + boolNat G.crawl * 4 + boolNat ((s.part G.part).token == some g) * 2 + boolNat G.super

/-- The value of a control register (R85, R160 to R163, R381). -/
def State.crRead (s : State) (g : Nat) (G : Gang) (gr : Group) (k : Nat) : DWord :=
  let c := s.ctx gr.ctx
  if k = 0x000 then BitVec.ofNat 64 (gr.mode.toNat + G.flags.toNat * 256)
  else if k = 0x001 then BitVec.ofNat 64 (s.flagsReg g G)
  else if k = 0x002 then c.trapvec
  else if k = 0x003 then G.trapcause
  else if k = 0x004 then G.trapaddr
  else if k = 0x005 then G.trapmask
  else if k < 0x010 then (match G.slices[k - 8]? with | some sl => sl.epc | none => 0)
  else if k = 0x010 then c.kvbase
  else if k = 0x011 then c.kvpool
  else if k = 0x012 then c.framepool
  else if k = 0x013 then c.rotbase
  else if k = 0x014 then BitVec.ofNat 64 gr.promo
  else if k = 0x015 then c.errlog
  else if k < 0x040 then stGet c.ncwin (k - 0x020)
  else if k < 0x050 then stGet (s.core G.core).evsel (k - 0x040)
  else stGet (s.core G.core).evcnt (k - 0x050)

/-- Whether a value may stand in a control register of the context (R161, R178, R246, R277, R369). -/
def ctxRegOk (k v : Nat) : Bool :=
  if k = 0x010 || k = 0x011 || k = 0x013 then bitsOf v 63 57 = 0 && bitsOf v 4 0 = 0
  else if k = 0x012 then bitsOf v 63 52 = 0 && bitsOf v 5 1 = 0
  else if k = 0x015 then bitsOf v 63 52 = 0 && bitsOf v 11 4 = 0
  else if 0x020 ≤ k && k < 0x040 then bitsOf v 63 57 = 0 && bitsOf v 15 1 = 0 && (k % 2 = 0 || !bitOf v 0)
  else true

/-- The sources that a core's selector may hold (R378). -/
def coreSource (v : Nat) : Bool := v ≤ 3 || (0x10 ≤ v && v ≤ 0x17) || (0x20 ≤ v && v ≤ 0x23)

/-- Whether CWR accepts a value (R85, R161, R163, R289, R378). -/
def crOk (k v : Nat) : Bool :=
  if k = 0x000 then bitsOf v 63 13 = 0 && bitsOf v 7 5 = 0 && bitsOf v 2 0 ≤ 4
  else if k = 0x003 then bitsOf v 63 32 = 0
  else if k = 0x014 then 1 ≤ v && v ≤ 64
  else if 0x040 ≤ k && k < 0x050 then bitsOf v 63 12 = 0 && coreSource (bitsOf v 7 0)
  else ctxRegOk k v

/-- A context register written (R160, R353). -/
def Context.setReg (c : Context) (k : Nat) (v : DWord) : Context :=
  if k = 0x002 then { c with trapvec := v }
  else if k = 0x010 then { c with kvbase := v }
  else if k = 0x011 then { c with kvpool := v }
  else if k = 0x012 then { c with framepool := v }
  else if k = 0x013 then { c with rotbase := v }
  else if k = 0x015 then { c with errlog := v }
  else { c with ncwin := stSet c.ncwin (k - 0x020) v }

/-- A control register written (R85, R160, R161, R378). -/
def State.crWrite (s : State) (g : Nat) (G : Gang) (gr : Group) (k : Nat) (v : DWord) : State :=
  if k = 0x000 then
    (s.updGroup G.grp fun gr => { gr with mode := v.setWidth 5 }).updGang g fun G => { G with flags := (v >>> 8).setWidth 5 }
  else if k = 0x003 then s.updGang g fun G => { G with trapcause := v }
  else if k = 0x004 then s.updGang g fun G => { G with trapaddr := v }
  else if k = 0x005 then s.updGang g fun G => { G with trapmask := v }
  else if 0x008 ≤ k && k < 0x010 then s.updGang g fun G => { G with slices := updAt G.slices (k - 8) fun sl => { sl with epc := v } }
  else if k = 0x014 then s.updGroup G.grp fun gr => { gr with promo := v.toNat }
  else if k < 0x040 then s.updCtx gr.ctx fun c => c.setReg k v
  else
    let c := s.core G.core
    if k < 0x050 then s.setCore G.core { c with evsel := stSet c.evsel (k - 0x040) v, evctx := tabSet c.evctx (k - 0x040) gr.ctx }
    else s.setCore G.core { c with evcnt := stSet c.evcnt (k - 0x050) v }

/-- Check 5 of R68 for CRD (R161). -/
def crdCheck (x : CrArgs) : WordCheck := fun i =>
  if !crUser x.idx.toNat && !i.super then some .priv else usesCheck [Use.w x.r] i

/-- The meaning of CRD (R161). -/
def execCrd (x : CrArgs) (s : State) : Host.Outcome State Fault Refusal :=
  let us := [Use.w x.r]
  s.onGang (crdCheck x) us fun g G gr i =>
    let r : Res := match x.r with | .s n => ⟨[], [(n.val, s.crRead g G gr x.idx.toNat)], 0⟩ | _ => .none
    s.finish g G i false r

/-- The meaning of CWR (R161). -/
def execCwr (x : CrArgs) (s : State) : Host.Outcome State Fault Refusal :=
  let us := [Use.r x.r]
  s.onGang (privCheck us) us fun g G gr i =>
    s.irrevocable g G fun s =>
      let v := i.rds x.r
      if !crOk x.idx.toNat v.toNat then some (s.fault g (onceFail i .illop 0))
      else some ((s.crWrite g G gr x.idx.toNat v).updGang g fun G => G.advance i.frag)

end Sys2Proof.Machine
end

