-- ==== Sys2Proof/Machine/Engine.lean ====
section
/-! DEFINITION. What the engine commands share: the checks of address ranges at issue (R243, R269), the pages an operation
keeps, bytes read and written by an engine, the log of a refused element, and window maintenance (R199). -/
namespace Sys2Proof.Machine

/-! ### Ranges at issue -/

/-- The parts of a range of addresses by 64 KiB unit, each as first and last address. -/
def unitsOf (va n : Nat) : List (Nat × Nat) :=
  if n = 0 then []
  else (List.range ((va + n - 1) / 65536 - va / 65536 + 1)).map fun k =>
    let u := va / 65536 + k
    (max va (u * 65536), min (va + n - 1) (u * 65536 + 65535))

/-- The page of an operation that holds an address, with its leaf. -/
def pageOf (ps : List (Nat × Leaf)) (va : Nat) : Option (Nat × Leaf) := ps.find? fun e => e.1 ≤ va && va < e.1 + e.2.size

/-- The same as the page stands now (R174, R185). -/
def State.pageNow (s : State) (ps : List (Nat × Leaf)) (va : Nat) : Option (Nat × Leaf) := (pageOf ps va).map fun e => (e.1, s.nowLeaf e.2)

/-- The physical address under a page. -/
def physOf (e : Nat × Leaf) (va : Nat) : Nat := e.2.frame + (va - e.1)

/-- Checks 1, 3 and 4 of R225 for the units of a range, in order: the pages, or the first failure with its address. A page is walked once,
and its permission, window and range are checked for each of its units (R178). -/
def State.checkUnits (s : State) (c : Accessor) : List (Nat × Nat) → List (Nat × Leaf) → Except (XFail × Nat) (List (Nat × Leaf)) × State
  | [], acc => (.ok acc, s)
  | (lo, hi) :: r, acc =>
    match (pageOf acc lo).filter (!·.2.crew) with
    | some e =>
      match (s.ctx c.ctx).permit e.2 lo (physOf e lo) c.write false c.coherent with
      | .error f => (.error (f, lo), s)
      | .ok _ => s.checkUnits c r acc
    | none => match s.resolve c.p c.ctx c.grp lo c.write false c.coherent with
      | (.error f, s) => (.error (f, lo), s)
      | (.ok x, s) =>
        if !s.check1 c.grp hi then (.error (⟨.prot, false, none, none⟩, hi), s)
        else s.checkUnits c r (acc ++ [(lo / x.leaf.size * x.leaf.size, x.leaf.recorded s.mem)])

/-- The same for several ranges. -/
def State.checkRanges (s : State) (c : Accessor) (rs : List (Nat × Nat)) : Except (XFail × Nat) (List (Nat × Leaf)) × State :=
  s.checkUnits c (rs.flatMap fun r => unitsOf r.1 r.2) []

/-- The lanes that a trap of an engine command reports (R243, R269): the active ones, or all when none is. -/
def cmdLanes (i : Issuer) : BitVec 32 := if maskAny i.active then i.active else i.lanes

/-- A trap of an engine command at issue; the replay reissues the whole command (R243, R269). -/
def cmdTrap (i : Issuer) (c : Cause) (acc : Nat) (addr : DWord) : TrapInfo :=
  { TrapInfo.plain c (cmdLanes i) i.frag i.pc with acc := acc, addr := addr, once := true }

/-- The trap of a failing page (R243): TRAPADDR the first address of the range in it; a page fault may be gathered, a malformed entry
is recorded (R173). -/
def pageTrap (i : Issuer) (acc : Nat) (f : XFail × Nat) : TrapInfo :=
  { cmdTrap i f.1.cause acc (BitVec.ofNat 64 f.2) with
    gather := if f.1.gather then [(f.2 / 65536 * 65536, cmdLanes i)] else []
    walks := f.1.badPte.toList }

/-! ### Bytes of an engine -/

/-- The requests of an engine's word and tile events at their home slices, reads (0x40) or writes (0x41) by source (R378, R181); `die` is
that of the issuing core. -/
def State.requests (s : State) (die src : Nat) (pas : List Nat) : State := pas.foldl (fun s a => s.countSlice (homeSlice a die) src 1) s

/-- What keeps an engine's write to one page from performing (R186, R257). -/
def State.engineRefuses (s : State) (l : Leaf) (bs : List (Nat × Byte)) : Option Cause :=
  bs.findSome? fun b =>
    match s.tileStoreFail ⟨0, b.1, l, false⟩ bs with
    | some c => some c
    | none => if s.partialPoison 0 none ⟨0, b.1, l, false⟩ bs 1 then some .poison else none

/-- A write by an engine to one page (R185, R229, R244): a discarded page is revived first, host and peer memory are written over the
link. -/
def State.engineWrite (s : State) (die : Nat) (l : Leaf) (bs : List (Nat × Byte)) : State := s.storePage none none l bs die

/-- The retention hint of an operation's writes (R241, R245): 0 leaves it to the page. -/
def OpKind.hint : OpKind → Nat
  | .copy h => h
  | _ => 0

/-- Whether an operation is a copy engine's. -/
def OpKind.isCopy : OpKind → Bool
  | .copy _ => true
  | _ => false

/-- The line that an engine writes on coherent memory, or its tile with the header, stands at its home slice with the retention of the
hint, or of the page where the hint is 0 (R183). -/
def State.keepAtHome (s : State) (die hint : Nat) (l : Leaf) (pa : Nat) : State :=
  let home (s : State) (line : Nat) : State := s.fillHome (homeSlice pa die) ((if hint = 0 then l.hint else hint) % 3) line
  if l.crew || l.tier = 2 then s
  else if l.mapped then
    let t := tileOf l pa
    home (home (home s (t.pa / 128)) (t.pa / 128 + 1)) (t.hpa / 128)
  else home s (pa / 128)

/-- Whether an engine's access of `n` bytes waits at the home slice (R265, R348). -/
def State.engineHeld (s : State) (l : Leaf) (pa n : Nat) : Bool := s.heldAny [⟨0, pa, l, false⟩] n

/-! ### Operations and their elements -/

/-- The operation of a number. -/
def State.op (s : State) (id : Nat) : Option AsyncOp := s.ops.find? (·.id == id)

/-- One operation changed. -/
def State.updOp (s : State) (id : Nat) (f : AsyncOp → AsyncOp) : State :=
  { s with ops := s.ops.map fun o => if o.id = id then f o else o }

/-- An element has performed, or is dropped. -/
def State.dropElem (s : State) (id el : Nat) : State := s.updOp id fun o => { o with elems := o.elems.eraseIdx el }

/-- Whether an element is the second word of a push that has begun (R280). -/
def Elem.isCount : Elem → Bool
  | .count _ _ => true
  | _ => false

/-- Every element that has not performed is dropped (R243, R281), but for the second word of a push: pop and push are atomic (R280). -/
def State.dropElems (s : State) (id : Nat) : State := s.updOp id fun o => { o with elems := o.elems.filter Elem.isCount }

/-- The partition of an operation's gang. -/
def State.opPart (s : State) (o : AsyncOp) : Nat := match s.gangs[o.gang]? with | some G => G.part | none => 0

/-- The die of an operation's gang (R181). -/
def State.opDie (s : State) (o : AsyncOp) : Nat := dieOf (s.opPart o / 8)

/-- The pages of an operation as its elements act on them now (R174, R185). -/
def State.opPages (s : State) (o : AsyncOp) : List (Nat × Leaf) := o.pages.map fun e => (e.1, s.nowLeaf e.2)

/-- The group of an operation's gang. -/
def State.opGroup (s : State) (o : AsyncOp) : Nat := match s.gangs[o.gang]? with | some G => G.grp | none => 0

/-- The record address of an operation's node. -/
def State.opNode (s : State) (o : AsyncOp) : Nat := match s.nodes[o.node]? with | some n => n.addr | none => 0

/-- The record of a refused element (R369, KIND 0x04). -/
def State.logElem (s : State) (o : AsyncOp) (c : Cause) (unit addr : Nat) : State :=
  s.logErr o.ctx 4 c 0 unit addr (s.opNode o)

/-- An instruction that acts once per issue as an asynchronous command of a class (R61, R140, R212): it waits while the
class is full. -/
def State.command (s : State) (us : List Use) (cls : Nat) (chk : WordCheck)
    (body : State → Nat → Gang → Group → Issuer → Option State) : Host.Outcome State Fault Refusal :=
  s.onGang (chk.then_ (usesCheck us)) us fun g G gr i =>
    s.irrevocable g G fun s => if 31 ≤ G.count cls then none else body s g G gr i

/-- A command's fragment goes on at PC + 8. -/
def State.goOn (s : State) (g : Nat) (i : Issuer) : State := s.updGang g fun G => G.advance i.frag

/-! ### Window maintenance -/

/-- CLEAN or INVAL of one window line at a scope (R199). -/
def State.maintLine (s : State) (core scope : Nat) (inval : Bool) (line : Nat) : State :=
  let slice := homeSlice (128 * line) (dieOf core)
  if scope < 5 then s
  else
    let s := s.writeback1 core line
    let s := if inval then s.dropL1 core line else s
    if scope < 6 then s
    else
      let s := s.writeback2 slice line
      if inval then s.dropL2 slice line else s

/-- The window lines of one 64 KiB unit of a range on a page that is not discarded of which the core or a home slice holds a copy. -/
def State.maintLines (s : State) (core ctx : Nat) (l : Leaf) (lo hi : Nat) : List Nat :=
  let pa (va : Nat) : Nat := l.frame + va % l.size
  let lines := (s.l1win.filter (·.unit == core)).map (·.line) ++ s.l2win.map (·.line)
  lines.eraseDups.filter fun k => pa lo ≤ 128 * k + 127 && 128 * k ≤ pa hi
    && (s.ctx ctx).inWindow (lo / 128 * 128 + (128 * k - pa lo / 128 * 128))

/-- CLEAN or INVAL of the lines of one 64 KiB unit of a range (R239): lines of window addresses on a valid page that is
not discarded; a malformed entry is handed on for its record (R173). -/
def State.maintUnit (s : State) (G : Gang) (ctx scope : Nat) (inval : Bool) (lo hi : Nat) : List Nat × State :=
  if crewBase ≤ lo then ([], s)
  else match s.translate G.part ctx lo with
    | (.leaf l, s) =>
      ([], if leafDiscard s.mem l then s else (s.maintLines G.core ctx l lo hi).foldl (fun s k => s.maintLine G.core scope inval k) s)
    | (.malformed pte, s) => ([pte], s)
    | (_, s) => ([], s)

/-- CLEAN and INVAL over a range (R239), with the malformed entries that its walks met. -/
def State.maint (s : State) (G : Gang) (ctx scope : Nat) (inval : Bool) (va n : Nat) : List Nat × State :=
  (unitsOf va n).foldl (fun r u => let (ws, s) := r.2.maintUnit G ctx scope inval u.1 u.2; (r.1 ++ ws, s)) ([], s)

/-- The meaning of CLEAN and INVAL of a gang (R199, R239): the system scope waits for the host's acknowledgements. -/
def State.maintenance (s : State) (x : MaintArgs) (inval : Bool) : Host.Outcome State Fault Refusal :=
  let us := [Use.r x.a, Use.r x.b]
  s.onGang (usesCheck us) us fun g G gr i =>
    if G.tail.isSome || !G.pend.isEmpty || (G.crawl && 256 ≤ G.crawlCnt) then s.irrevocable g G fun _ => none
    else
      let (ws, t) := s.maint G gr.ctx x.scope.toNat inval (i.rds x.a).toNat ((i.rds x.b).toNat % 2 ^ 32)
      t.irrevocable g G fun t => if !inval && x.scope = 7 && t.farPend != 0 then none else some ((t.recordWalks g ws).goOn g i)

/-- The meaning of CLEAN (R199, R239). -/
def execClean (x : MaintArgs) (s : State) : Host.Outcome State Fault Refusal := s.maintenance x false

/-- The meaning of INVAL (R199, R239). -/
def execInval (x : MaintArgs) (s : State) : Host.Outcome State Fault Refusal := s.maintenance x true

end Sys2Proof.Machine
end

