-- ==== Sys2Proof/Machine/Bank.lean ====
section
/-! DEFINITION. The bank level (R196, R197, R322 to R351): issue of BKL, BKT and BKIR with their checks, BKM, the recall,
and the work items of the bank cores. -/
namespace Sys2Proof.Machine

/-! ### Checks at issue -/

/-- The pages of regions of bank work, 64 KiB unit by unit (check 7 of R325): checks 1, 3 and 4 of R225 and TIER 0, in no
scratchpad window. -/
def State.stackUnits (s : State) (c : Accessor) : List (Nat × Nat) → List (Nat × Leaf) → Except (XFail × Nat) (List (Nat × Leaf)) × State
  | [], acc => (.ok acc, s)
  | (lo, _) :: r, acc =>
    match pageOf acc lo with
    | some e =>
      match (s.ctx c.ctx).permit e.2 lo (physOf e lo) c.write false c.coherent with
      | .error f => (.error (f, lo), s)
      | .ok _ => s.stackUnits c r acc
    | none => match s.resolve c.p c.ctx c.grp lo c.write false c.coherent with
      | (.error f, s) => (.error (f, lo), s)
      | (.ok x, s) =>
        if x.leaf.crew || x.leaf.tier != 0 then (.error (⟨.prot, false, none, none⟩, lo), s)
        else s.stackUnits c r (acc ++ [(lo / x.leaf.size * x.leaf.size, x.leaf.recorded s.mem)])

/-- The units of several regions. -/
def regionUnits (rs : List (Nat × Nat)) : List (Nat × Nat) := rs.flatMap fun r => unitsOf r.1 r.2

/-- The check of a bank command's regions: sources first, then destinations. -/
def State.stackPages (s : State) (c : Accessor) (i : Issuer) (src dst : List (Nat × Nat)) :
    Except TrapInfo (List (Nat × Leaf)) × State :=
  match s.stackUnits { c with write := false } (regionUnits src) [] with
  | (.error f, s) => (.error (pageTrap i 1 f), s)
  | (.ok ps, s) =>
    match s.stackUnits { c with write := true } (regionUnits dst) [] with
    | (.error f, s) => (.error (pageTrap i 2 f), s)
    | (.ok qs, s) => (.ok (ps ++ qs), s)

/-- The outcome of a read of the device at issue: bytes, a trap, or a wait for a bank-held word (R348). -/
inductive IssueRead where
  | ok (bs : List Byte)
  | trap (t : TrapInfo)
  | wait
  deriving DecidableEq, Repr

/-- The parts of `n` bytes from an address that lie in one 256-byte unit each: address and bytes. -/
def tileParts (pa n : Nat) : List (Nat × Nat) :=
  if pa % 256 + n ≤ 256 then (if n = 0 then [] else [(pa, n)])
  else ((List.range ((pa % 256 + n + 255) / 256)).map fun k =>
    let a := pa / 256 * 256 + 256 * k
    (max a pa, min (a + 256) (pa + n) - max a pa)).filter (0 < ·.2)

/-- Reads at the home one after another (R373), each a request there unless a cache of the die absorbs it (R378, notes/assumptions 63): the
bytes, or the cause and the address of the first that fails. -/
def State.readParts (s : State) (die : Nat) (l : Leaf) : List (Nat × Nat) → Except (Cause × Nat) (List Byte) × State
  | [] => (.ok [], s)
  | p :: r =>
    match (s.countSliceFree (homeSlice p.1 die) 0x40).readHome none ⟨0, p.1, l, false⟩ p.2 with
    | (.fail c _, s) => (.error (c, p.1), s)
    | (.ok bs _, s) =>
      match State.readParts s die l r with
      | (.ok cs, s) => (.ok (bs ++ cs), s)
      | e => e

/-- Bytes of translated pages as the device reads them at issue, unit by unit. -/
def State.readUnits (s : State) (die : Nat) (i : Issuer) (ps : List (Nat × Leaf)) : List (Nat × Nat) → List Byte → IssueRead × State
  | [], acc => (.ok acc, s)
  | (lo, hi) :: r, acc =>
    match pageOf ps lo with
    | none => (.ok acc, s)
    | some e =>
      let pa := physOf e lo
      let n := hi + 1 - lo
      if s.engineHeld e.2 pa n then (.wait, s)
      else match s.readParts die e.2 (tileParts pa n) with
        | (.error (c, a), s) => (.trap (cmdTrap i c 1 (BitVec.ofNat 64 (lo + (a - pa)))), s)
        | (.ok bs, s) => s.readUnits die i ps r (acc ++ bs)

/-- A region that the device reads at issue: translated by checks 1, 3 and 4 of R225, then read. -/
def State.issueRead (s : State) (c : Accessor) (i : Issuer) (exec : Bool) (va n : Nat) : IssueRead × State :=
  let go := (unitsOf va n).foldl (fun (a : Except TrapInfo (List (Nat × Leaf)) × State) u =>
    match a with
    | (.error t, s) => (.error t, s)
    | (.ok ps, s) =>
      match s.resolve c.p c.ctx c.grp u.1 false exec c.coherent with
      | (.error f, s) => (.error (pageTrap i 1 (f, u.1)), s)
      | (.ok x, s) =>
        if x.leaf.crew && !s.check1 c.grp u.2 then (.error (cmdTrap i .prot 1 (BitVec.ofNat 64 u.2)), s)
        else (.ok (ps ++ [(u.1 / x.leaf.size * x.leaf.size, x.leaf)]), s)) ((.ok [], s) : Except TrapInfo (List (Nat × Leaf)) × State)
  match go with
  | (.error t, s) => (.trap t, s)
  | (.ok ps, s) => s.readUnits (dieOf (c.p / 8)) i ps (unitsOf va n) []

/-- Checks 1 and 2 of R325: the block's and the counter's alignment, the counter inside the group's own window; the
counter's physical address. The access flags of the second are free (notes/assumptions 4). -/
def State.counterCheck (s : State) (g : Gang) (gr : Group) (i : Issuer) (d a : Nat) : Except TrapInfo Nat × State :=
  if d % 64 != 0 || a % 8 != 0 then (.error (cmdTrap i .align 0 i.pc), s)
  else
    let base := ownWindow gr
    if a < base || base + gr.scratch < a + 8 then
      let (n, s) := s.drawNat
      (.error (cmdTrap i .prot (n % 16) (BitVec.ofNat 64 a)), s)
    else (.ok (Config.scratchBase g.grp + (a - base)), s)

/-- A field of a block. -/
def fieldAt (bs : List Byte) (o n : Nat) : Nat := leNat ((bs.drop o).take n)

/-! ### Command blocks -/

/-- A command block from its 64 bytes (R323). -/
def BankBlock.ofBytes (bs : List Byte) (len : Nat) : BankBlock :=
  { cmd := fieldAt bs 0 1, fmt := fieldAt bs 1 1, opt := fieldAt bs 2 1, width := fieldAt bs 4 4, dst := fieldAt bs 8 8,
    src1 := fieldAt bs 16 8, src2 := fieldAt bs 24 8, height := fieldAt bs 32 4, dpitch := fieldAt bs 36 4,
    spitch1 := fieldAt bs 40 4, spitch2 := fieldAt bs 44 4, alpha := BitVec.ofNat 32 (fieldAt bs 48 4),
    beta := BitVec.ofNat 32 (fieldAt bs 52 4), scales := fieldAt bs 56 8, len }

/-- Whether a command reads SRC1, SRC2, ALPHA (R324, R339 to R342). -/
def bankSrc1 (cmd : Nat) : Bool := 2 ≤ cmd
def bankSrc2 (cmd : Nat) : Bool := cmd = 3 || cmd = 4 || cmd = 5 || cmd = 8 || cmd = 9
def bankAlpha (cmd : Nat) : Bool := cmd = 1 || cmd = 5 || cmd = 6 || cmd = 8
/-- DOT and IDOT. -/
def bankDot (cmd : Nat) : Bool := cmd = 8 || cmd = 9

/-- The element bytes of a format that bank commands take. -/
def bankElem (fmt : Nat) : Nat := codeBits fmt / 8

/-- The formats of CVT (R340). -/
def bankCvtFmt (f : Nat) : Bool := f = 1 || f = 2 || f = 3 || f = 4 || f = 7 || f = 9 || f = 10

/-- The formats and options that a command accepts (R324, R340, R342). -/
def bankFmtOk (b : BankBlock) : Bool :=
  match b.cmd with
  | 0 => 1 ≤ b.fmt && b.fmt ≤ 10
  | 1 => b.fmt = 1 || b.fmt = 2 || b.fmt = 9 || b.fmt = 10
  | 2 => 1 ≤ b.fmt && b.fmt ≤ 10
  | 7 => bankCvtFmt b.fmt && bankCvtFmt b.opt && b.fmt != b.opt
  | 8 => b.fmt = 1
  | 9 => (b.fmt = 7 || b.fmt = 8) && b.opt < 4
  | _ => b.fmt = 1 || b.fmt = 2

/-- Whether a field that a command does not read is nonzero (R323). -/
def bankExtra (b : BankBlock) : Bool :=
  (b.cmd != 7 && b.cmd != 9 && b.opt != 0) || (bankDot b.cmd && b.width != 0)
  || (!bankSrc1 b.cmd && (b.src1 != 0 || b.spitch1 != 0)) || (!bankSrc2 b.cmd && (b.src2 != 0 || b.spitch2 != 0))
  || (!bankAlpha b.cmd && b.alpha != 0) || (b.cmd != 9 && (b.beta != 0 || b.scales != 0))

/-- The destination bytes of one row. -/
def bankRowBytes (b : BankBlock) : Nat := match b.cmd with | 8 => 4 | 9 => (if bitOf b.opt 1 then 2 else 4) | _ => b.width

/-- The source bytes of one row (R340, R341, R342). -/
def bankSrcBytes1 (b : BankBlock) : Nat :=
  match b.cmd with
  | 7 => b.width * bankElem b.opt / bankElem b.fmt
  | 8 => 4 * b.len
  | 9 => if b.fmt = 8 then (b.len + 1) / 2 else b.len
  | _ => b.width
def bankSrcBytes2 (b : BankBlock) : Nat := match b.cmd with | 8 => 4 * b.len | 9 => b.len | _ => b.width

/-- Check 5 of R325: WIDTH, HEIGHT and the pitches (R323, R340). It does not test the source pitches of DOT and IDOT (R341): one that is
no multiple of 4 is taken as it stands (DEDUCED: notes/assumptions 55). -/
def bankSizesOk (b : BankBlock) : Bool :=
  let dot := bankDot b.cmd
  let pitch (used : Bool) (p n : Nat) : Bool := !used || (p % 4 = 0 && (b.height ≤ 1 || n ≤ p))
  let src1 := bankSrc1 b.cmd && !dot
  let src2 := bankSrc2 b.cmd && !dot
  (dot || (b.width % 4 = 0 && 4 ≤ b.width && b.width ≤ 65536)) && 1 ≤ b.height && b.height ≤ 65535
  && pitch true b.dpitch (bankRowBytes b)
  && pitch src1 b.spitch1 (bankSrcBytes1 b) && pitch src2 b.spitch2 (bankSrcBytes2 b)
  && (b.cmd != 7 || (b.width * bankElem b.opt % bankElem b.fmt = 0 && bankSrcBytes1 b % 4 = 0))

/-- Check 6 of R325 and the alignment of SCALES (R342). -/
def bankAligned (b : BankBlock) : Bool := b.dst % 4 = 0 && b.src1 % 4 = 0 && b.src2 % 4 = 0 && b.scales % 4 = 0

/-- The length of a DOT or IDOT that is refused after issue (R341). -/
def bankRefused (b : BankBlock) : Bool := bankDot b.cmd && 2 ^ 24 - 1 < b.len

/-- The regions a command reads and the rows it writes. -/
def bankSources (b : BankBlock) : List (Nat × Nat) :=
  let rows (used : Bool) (a p n : Nat) : List (Nat × Nat) :=
    if used && 0 < n then (List.range b.height).map fun r => (a + r * p, n) else []
  rows (bankSrc1 b.cmd) b.src1 b.spitch1 (bankSrcBytes1 b) ++ rows (bankSrc2 b.cmd) b.src2 b.spitch2 (bankSrcBytes2 b)
  ++ if b.cmd = 9 then [(b.scales, 4 * ((b.height + 31) / 32))] else []
def bankDests (b : BankBlock) : List (Nat × Nat) := (List.range b.height).map fun r => (b.dst + r * b.dpitch, bankRowBytes b)

/-- The bank core that owns a byte of stack memory (R170), 256 x stack + index. -/
def ownerOf (pa : Nat) : Nat := pa / 0x200000000 * 256 + pa % 0x200000000 / 0x2000000

/-- The parts of one destination row by 64 KiB unit. -/
def rowPieces (ps : List (Nat × Leaf)) (r va n : Nat) : List BankPiece :=
  (unitsOf va n).filterMap fun u => (pageOf ps u.1).map fun e => ⟨r, u.1 - va, u.2 + 1 - va, physOf e u.1⟩

/-- Parts gathered by owning bank core, each core once (R343). -/
def sharesOf (ps : List BankPiece) : List (Nat × List BankPiece) :=
  let owners := ps.foldl (fun l p => insNat l (ownerOf p.pa)) []
  owners.map fun o => (o, ps.filter fun p => ownerOf p.pa = o)

/-- The physical lines that regions hold on coherent memory (R347): none in a window. -/
def State.heldLines (s : State) (ctx : Nat) (ps : List (Nat × Leaf)) (rs : List (Nat × Nat)) : List (Nat × Nat) :=
  (regionUnits rs).filterMap fun u =>
    if (s.ctx ctx).inWindow u.1 then none
    else (pageOf ps u.1).map fun e => (physOf e u.1 / 128 * 128, (physOf e u.1 + (u.2 - u.1)) / 128 * 128 + 128)

/-- A bank command issues (R140, R196): counted in class bk, at the bank level. -/
def State.issueBank (s : State) (g : Nat) (G : Gang) (gr : Group) (i : Issuer) (counter : Nat) (work : BankWork)
    (src dst : List (Nat × Nat)) (ps : List (Nat × Leaf)) (shares : List (Nat × List BankPiece)) : State :=
  let c : BankCmd :=
    { id := s.nextOp, grp := G.grp, ctx := gr.ctx,
      prio := (match s.nodes[gr.node]? with | some n => n.lr.prio | none => 0),
      epoch := tabGet s.epochs 0 G.grp, counter, work,
      regions := (src.map fun r => (r.1, r.2, false)) ++ dst.map fun r => (r.1, r.2, true),
      pages := ps, range := s.heldLines gr.ctx ps (src ++ dst), bad := [], shares, held := false, started := false }
  let s := s.issueOp g 4 .bank [] ps true
  ({ s with cmds := s.cmds ++ [c] }).goOn g i

/-- The accessor of a bank command's checks. -/
def bankAccessor (G : Gang) (gr : Group) (coherent : Bool) : Accessor := ⟨G.part, gr.ctx, G.grp, false, coherent⟩

/-- The frame of BKL, BKT and BKIR (R325, R334, R346): checks 1 to 3, then `go` on the block's bytes. -/
def State.bankCommand (s : State) (x : Ops3) (us : List Use)
    (go : State → Nat → Gang → Group → Issuer → Nat → List Byte → Option State) : Host.Outcome State Fault Refusal :=
  s.command us 4 noCheck fun s g G gr i =>
    let d := (i.rds x.d).toNat
    match s.counterCheck G gr i d (i.rds x.a).toNat with
    | (.error t, s) => some (s.fault g t)
    | (.ok counter, s) =>
      match s.issueRead (bankAccessor G gr true) i false d 64 with
      | (.trap t, s) => some (s.fault g t)
      | (.wait, _) => none
      | (.ok bs, s) => go s g G gr i counter bs

/-- BKT of a gang whose block holds command `code` (R325). -/
def State.bankTile (s : State) (x : Ops3) (code : Nat) : Host.Outcome State Fault Refusal :=
  s.bankCommand x [Use.r x.d, Use.r x.a, Use.r x.b] fun s g G gr i counter bs =>
    let b := BankBlock.ofBytes bs (i.rds x.b).toNat
    let trap (c : Cause) : Option State := some (s.fault g (cmdTrap i c 0 i.pc))
    if b.cmd != code || fieldAt bs 3 1 != 0 || !bankFmtOk b || bankExtra b then trap .illop
    else if !bankSizesOk b then trap .length
    else if !bankAligned b then trap .align
    else if bankRefused b then
      match s.resolve G.part gr.ctx G.grp b.dst false false false with
      | (.ok t, s) => some (s.issueBank g G gr i counter (.tile b) [] [] [] [(ownerOf t.pa % Config.bankCores, [])])
      | (.error f, s) =>
        let (n, s) := (s.recordFail G.part gr.ctx G.grp f).drawNat
        some (s.issueBank g G gr i counter (.tile b) [] [] [] [(n % Config.bankCores, [])])
    else match s.stackPages (bankAccessor G gr false) i (bankSources b) (bankDests b) with
      | (.error t, s) => some (s.fault g t)
      | (.ok ps, s) =>
        let rows := (List.range b.height).flatMap fun r => rowPieces ps r (b.dst + r * b.dpitch) (bankRowBytes b)
        some (s.issueBank g G gr i counter (.tile b) (bankSources b) (bankDests b) ps (sharesOf rows))

/-- The meaning of BKT ZERO (R339). -/
def execBktZero (x : Ops3) (s : State) : Host.Outcome State Fault Refusal := s.bankTile x 0
/-- The meaning of BKT FILL (R339). -/
def execBktFill (x : Ops3) (s : State) : Host.Outcome State Fault Refusal := s.bankTile x 1
/-- The meaning of BKT COPY (R339). -/
def execBktCopy (x : Ops3) (s : State) : Host.Outcome State Fault Refusal := s.bankTile x 2
/-- The meaning of BKT ADD (R324). -/
def execBktAdd (x : Ops3) (s : State) : Host.Outcome State Fault Refusal := s.bankTile x 3
/-- The meaning of BKT MUL (R339). -/
def execBktMul (x : Ops3) (s : State) : Host.Outcome State Fault Refusal := s.bankTile x 4
/-- The meaning of BKT AXPY (R339). -/
def execBktAxpy (x : Ops3) (s : State) : Host.Outcome State Fault Refusal := s.bankTile x 5
/-- The meaning of BKT SCALE (R339). -/
def execBktScale (x : Ops3) (s : State) : Host.Outcome State Fault Refusal := s.bankTile x 6
/-- The meaning of BKT CVT (R340). -/
def execBktCvt (x : Ops3) (s : State) : Host.Outcome State Fault Refusal := s.bankTile x 7
/-- The meaning of BKT DOT (R341). -/
def execBktDot (x : Ops3) (s : State) : Host.Outcome State Fault Refusal := s.bankTile x 8
/-- The meaning of BKT IDOT (R342). -/
def execBktIdot (x : Ops3) (s : State) : Host.Outcome State Fault Refusal := s.bankTile x 9

/-- The segments of a range (R335): maximal runs that are physically contiguous in one bank core, in ascending order. -/
def segmentsOf (ps : List BankPiece) : List BankPiece :=
  ps.foldl (fun l p =>
    match l.getLast? with
    | some q => if q.pa + q.lo = p.pa && ownerOf q.pa = ownerOf p.pa then l.dropLast ++ [{ q with lo := q.lo + p.lo }] else l ++ [p]
    | none => [p]) []

/-- The parts of a kernel's range: virtual address, bytes, physical address. -/
def rangePieces (ps : List (Nat × Leaf)) (va n : Nat) : List BankPiece :=
  (unitsOf va n).filterMap fun u => (pageOf ps u.1).map fun e => ⟨u.1, u.2 + 1 - u.1, 0, physOf e u.1⟩

/-- BKL of a gang after its block is read (R333, R334). -/
def State.bankKernel (s : State) (x : Ops3) (g : Nat) (G : Gang) (gr : Group) (i : Issuer) (counter : Nat) (bs : List Byte) :
    Option State :=
  let entry := fieldAt bs 0 8
  let codeLen := fieldAt bs 8 4
  let regs := fieldAt bs 12 1
  let base := fieldAt bs 16 8
  let len := fieldAt bs 24 8
  let params := fieldAt bs 32 8
  let trap (s : State) (t : TrapInfo) : Option State := some (s.fault g t)
  if fieldAt bs 13 3 != 0 || fieldAt bs 40 24 != 0 || regs < 2 || 64 < regs then trap s (cmdTrap i .illop 0 i.pc)
  else if codeLen % 8 != 0 || codeLen < 8 || 16384 < codeLen || len % 128 != 0 || len < 128 || 2 ^ 40 < len then
    trap s (cmdTrap i .length 0 i.pc)
  else if entry % 8 != 0 || base % 128 != 0 || params % 128 != 0 then trap s (cmdTrap i .align 0 i.pc)
  else
    let c := bankAccessor G gr false
    match s.issueRead c i true entry codeLen with
    | (.trap t, s) => trap s t
    | (.wait, _) => none
    | (.ok code, s) =>
      match (if params = 0 then (.ok (List.replicate 128 0), s) else s.issueRead c i false params 128) with
      | (.trap t, s) => trap s t
      | (.wait, _) => none
      | (.ok ps, s) =>
        match s.stackPages c i [] [(base, len)] with
        | (.error t, s) => trap s t
        | (.ok pages, s) =>
          let words := (List.range (codeLen / 8)).map fun k => BitVec.ofNat 64 (fieldAt code (8 * k) 8)
          let vals := (List.range 32).map fun k => BitVec.ofNat 32 (fieldAt ps (4 * k) 4)
          let segs := segmentsOf (rangePieces pages base len)
          some (s.issueBank g G gr i counter (.kernel words entry regs (i.rds x.b) vals) [] [(base, len)] pages
            (segs.map fun p => (ownerOf p.pa, [p])))

/-- The meaning of BKL (R332 to R336). -/
def execBkl (x : Ops3) (s : State) : Host.Outcome State Fault Refusal :=
  s.bankCommand x [Use.r x.d, Use.r x.a, Use.r x.b] fun s g G gr i counter bs => s.bankKernel x g G gr i counter bs

/-- The packets of a reduction from their bytes (R345): bag, count and the 32 indices. -/
def packetsOf (bs : List Byte) (n : Nat) : List (Nat × Nat × List Nat) :=
  (List.range n).map fun k =>
    let p := (bs.drop (192 * k)).take 192
    (fieldAt p 0 4, fieldAt p 4 4, (List.range 32).map fun t => fieldAt p (64 + 4 * t) 4)

/-- Whether a destination row crosses a page boundary (R346): the page that holds its first byte ends before the row does. Where no
valid page holds it, a multiple of 64 KiB counts as a boundary, the least that the spec's pages have (DESIGN CHOICE: notes/assumptions
55). -/
def State.crossesPage (s : State) (ctx va n : Nat) : Bool :=
  let size := match walkVa s.mem (s.ctx ctx).root va with | .leaf l => l.size | _ => 65536
  va / size != (va + n - 1) / size

/-- BKIR of a gang after its block is read (R345, R346). -/
def State.bankReduce (s : State) (g : Nat) (G : Gang) (gr : Group) (i : Issuer) (counter : Nat) (bs : List Byte) : Option State :=
  let trap (s : State) (t : TrapInfo) : Option State := some (s.fault g t)
  let npkt := fieldAt bs 36 4
  let pkt := fieldAt bs 40 8
  let c := bankAccessor G gr true
  match (if 1 ≤ npkt && npkt ≤ 4096 then s.issueRead c i false pkt (192 * npkt) else (.ok [], s)) with
  | (.trap t, s) => trap s t
  | (.wait, _) => none
  | (.ok raw, s) =>
    let pk := packetsOf raw (raw.length / 192)
    let b : RedBlock :=
      { fmt := fieldAt bs 0 1, accum := bitOf (fieldAt bs 1 1) 0, rowb := fieldAt bs 4 4, table := fieldAt bs 8 8,
        nrows := fieldAt bs 16 8, dst := fieldAt bs 24 8, dpitch := fieldAt bs 32 4, tpitch := fieldAt bs 48 8, pkt,
        packets := pk.map fun p => (p.1, p.2.2.take p.2.1) }
    let rows := b.packets.map fun p => (b.dst + p.1 * b.dpitch, b.rowb)
    let pitchOk (p : Nat) : Bool := p % 4 = 0 && b.rowb ≤ p
    if (b.fmt != 1 && b.fmt != 2) || 2 ≤ fieldAt bs 1 1 || fieldAt bs 2 2 != 0 || fieldAt bs 56 8 != 0
       || (List.range pk.length).any fun k => fieldAt raw (192 * k + 8) 56 != 0 then trap s (cmdTrap i .illop 0 i.pc)
    else if b.rowb % 4 != 0 || b.rowb < 4 || 4096 < b.rowb || b.nrows = 0 || !pitchOk b.dpitch || !pitchOk b.tpitch
       || npkt < 1 || 4096 < npkt || (pk.any fun p => p.2.1 < 1 || 32 < p.2.1)
       || (rows.any fun r => s.crossesPage gr.ctx r.1 r.2) then trap s (cmdTrap i .length 0 i.pc)
    else if b.table % 4 != 0 || b.dst % 4 != 0 || pkt % 64 != 0 then trap s (cmdTrap i .align 0 i.pc)
    else match s.stackPages (bankAccessor G gr false) i [] rows with
      | (.error t, s) => trap s t
      | (.ok ps, s) =>
        let pieces := (List.range rows.length).filterMap fun k =>
          (rows[k]?).bind fun r => (pageOf ps r.1).map fun e => BankPiece.mk k 0 r.2 (physOf e r.1)
        some (s.issueBank g G gr i counter (.reduce b) [] rows ps (pieces.map fun p => (ownerOf p.pa, [p])))

/-- The meaning of BKIR (R344 to R346). -/
def execBkir (x : Ops3) (s : State) : Host.Outcome State Fault Refusal :=
  s.bankCommand x [Use.r x.d, Use.r x.a] fun s g G gr i counter bs => s.bankReduce g G gr i counter bs

/-- The meaning of BKM (R197, R327). -/
def execBkm (s : State) : Host.Outcome State Fault Refusal :=
  s.onGang noCheck [] fun g G _ i =>
    s.irrevocable g G fun s =>
      some (({ s with epochs := tabSet s.epochs G.grp (tabGet s.epochs 0 G.grp + 1) }).goOn g i)

/-! ### The recall -/

/-- Whether every command mk-before a command is complete (R197, R331). -/
def State.mkReady (s : State) (c : BankCmd) : Bool := !s.cmds.any fun d => d.grp = c.grp && d.epoch < c.epoch

/-- Whether another command holds a line of a command's range (R347, step 1). -/
def State.rangeHeld (s : State) (c : BankCmd) : Bool :=
  s.cmds.any fun d => d.id != c.id && d.held && d.range.any fun r => c.range.any fun q => r.1 < q.2 && q.1 < r.2

/-- Whether a context's bank work leaves the device: it is suspended and has a bank save area (R368). That of a context that is torn
down runs to completion (R352). -/
def State.bankLeaves (s : State) (ctx : Nat) : Bool := (s.ctx ctx).active && (s.ctx ctx).suspend && (s.ctx ctx).bksave != 0

/-- Whether a command waits for a recall that can begin: before its items reach the bank cores, or with an item that has still to
run (R347, R350); not while its context is suspended (R368). -/
def State.wantsRecall (s : State) (c : BankCmd) : Bool :=
  !c.held && !s.bankLeaves c.ctx && c.range.all (fun r => s.memReady r.1 (r.2 - r.1)) && (!c.started || s.items.any fun it => it.cmd = c.id && it.stand != .done)

/-- The discarded pages that a command writes come back (R185, R347). -/
def State.reviveRegions (s : State) (c : BankCmd) : State :=
  (c.regions.filter (·.2.2)).foldl (fun s r =>
    (unitsOf r.1 r.2.1).foldl (fun s u => match pageOf c.pages u.1 with | some e => s.revive e.2 | none => s) s) s

/-- One tile of a command's regions is materialised (R263, R264), or noted as bad with what a record names: the tile where its header is
malformed (R257), the poisoned word (R326). -/
def State.recallTile (s : State) (l : Leaf) (pa : Nat) (bad : List (Nat × Cause × Nat)) : State × List (Nat × Cause × Nat) :=
  let t := tileOf l pa
  let h := s.tileHdr t
  match ((List.range 8).map fun k => t.hpa / 4 + k).find? s.isPoisoned with
  | some w => (s, bad ++ [(t.pa, .poison, 4 * w)])
  | none =>
    if hdrMalformed h then (s, bad ++ [(t.pa, .prot, t.pa)])
    else
      let x := Hdr.ofNat h
      match (if x.ident || x.filled then [] else (List.range 64).map fun k => t.pa / 4 + k).find? s.isPoisoned with
      | some w => (s, bad ++ [(t.pa, .poison, 4 * w)])
      | none => (s.materialise none t, bad)

/-- The tiles of a command's regions, on pages that are not discarded (R347, step 4). -/
def State.recallTiles (s : State) (c : BankCmd) : State × List (Nat × Cause × Nat) :=
  c.regions.foldl (fun a r =>
    (unitsOf r.1 r.2.1).foldl (fun a u =>
      match a.1.pageNow c.pages u.1 with
      | some e =>
        if !e.2.mapped || leafDiscard a.1.mem e.2 then a
        else
          let lo := physOf e u.1 / 256
          (List.range ((physOf e u.1 + (u.2 - u.1)) / 256 - lo + 1)).foldl (fun a k => a.1.recallTile e.2 (256 * (lo + k)) a.2) a
      | none => a) a) (s, [])

/-- The bytes of the tiles of a command's regions on coherent memory, headers included: one unit for the directory (R265). -/
def State.tileRanges (s : State) (c : BankCmd) : List (Nat × Nat) :=
  c.regions.flatMap fun r => (unitsOf r.1 r.2.1).flatMap fun u =>
    match pageOf c.pages u.1 with
    | some e =>
      if !e.2.mapped || (s.ctx c.ctx).inWindow u.1 then []
      else
        let t := tileOf e.2 (physOf e u.1)
        let n := (physOf e u.1 + (u.2 - u.1)) / 256 - t.pa / 256 + 1
        [(t.pa, t.pa + 256 * n), (t.hpa, t.hpa + 32 * n)]
    | none => []

/-- Every tail that read a word of the lines sheds, no core owns one and no cache holds a copy (R182, R213, R347); `tiles`
are the bytes of tiles that go with them. -/
def State.recallLines (s : State) (ranges tiles : List (Nat × Nat)) : State :=
  let hit (w : Nat) : Bool := (ranges ++ tiles).any fun r => r.1 ≤ 4 * w && 4 * w < r.2
  let s := { s with
    owner := s.owner.filter fun e => !hit e.1
    l1 := s.l1.filter fun c => !hit (32 * c.line)
    l2 := s.l2.filter fun c => !hit (32 * c.line)
    gangs := s.gangs.map fun (g : Gang) => g.markConflict ((match g.tail with | some t => t.reads.filter hit | none => [])) }
  if s.slices.isEmpty then s
  else (ranges.flatMap fun (r : Nat × Nat) => (List.range ((r.2 - r.1) / 128)).map fun k => r.1 + 128 * k).foldl
    (fun s a => s.countSlice (homeSlice a 0) 0x43 1) s

/-- The items of a command reach their bank cores (R331). -/
def BankCmd.items (c : BankCmd) : List BankItem := c.shares.map fun p => ⟨c.id, p.1, .queued, p.2, none, 0, [], 0, [], []⟩

/-- The malformed tiles that the first recall of a kernel's range meets are recorded, each at its bank core (R257). -/
def State.logTiles (s : State) (c : BankCmd) (bad : List (Nat × Cause × Nat)) : State :=
  match c.work, c.started with
  | .kernel _ _ _ _ _, false => (bad.filter (·.2.1 == .prot)).foldl (fun s e => s.logBank c (ownerOf e.1) e.2.1 e.2.2) s
  | _, _ => s

/-- The recall of a command acts (R196, R347). -/
def State.recall (s : State) (c : BankCmd) : State :=
  let s := s.reviveRegions c
  let (s, bad) := s.recallTiles c
  let s := (s.recallLines c.range (s.tileRanges c)).logTiles c bad
  { s with
    cmds := s.cmds.map fun (d : BankCmd) => if d.id = c.id then { d with bad := bad, held := true, started := true } else d
    items := if c.started then s.items else s.items ++ c.items }

/-- The meaning of BANK_RECALL (R347). -/
def execBankRecall (op : Nat) (s : State) : Host.Outcome State Fault Refusal :=
  .next (match s.cmd op with
    | none => s
    | some c => if s.wantsRecall c && s.mkReady c && !s.rangeHeld c then s.recall c else s)

/-! ### Work items -/

/-- What a bank core reads of its command's regions: bytes, or the cause and the address that stop its item. -/
abbrev BankRead := Except (Cause × Nat) (List Byte)

/-- A read of a command's source bytes from memory (R326, R343, R347). -/
def State.bankRead (s : State) (c : BankCmd) (va n : Nat) : BankRead :=
  (unitsOf va n).foldl (fun (a : BankRead) u =>
    match a with
    | .error e => .error e
    | .ok bs =>
      match s.pageNow c.pages u.1 with
      | none => .ok bs
      | some e =>
        let pa := physOf e u.1
        let k := u.2 + 1 - u.1
        if leafDiscard s.mem e.2 then .ok (bs ++ List.replicate k 0)
        else match c.bad.find? fun b => b.1 < pa + k && pa < b.1 + 256 with
          | some b => .error b.2
          | none =>
            match (List.range ((pa + k - 1) / 4 - pa / 4 + 1)).find? fun j => s.isPoisoned (pa / 4 + j) with
            | some j => .error (.poison, 4 * (pa / 4 + j))
            | none => .ok (bs ++ memBytes s.mem pa k)) (.ok [])

/-- The elements of `w` bytes in a list of bytes. -/
def elemsOf (w : Nat) (bs : List Byte) : List Nat := (List.range (bs.length / w)).map fun k => fieldAt bs (w * k) w

/-- One element of ADD, MUL, AXPY and SCALE (R324, R339). -/
def bankElement (b : BankBlock) (x y : Nat) : Nat :=
  let f := fmtOf b.fmt
  let a := fp32.decode b.alpha.toNat
  match b.cmd with
  | 3 => (f.add 0 false (f.decode x) (f.decode y)).1
  | 4 => (f.mulR 0 false (f.decode x) (f.decode y)).1
  | 5 => (f.fma 0 false a (f.decode x) (f.decode y)).1
  | _ => (f.mulR 0 false a (f.decode x)).1

/-- One row of DOT (R341). -/
def dotRow (alpha : Nat) (xs ys : List Nat) : Nat :=
  (xs.zip ys).foldl (fun acc p => (fp32.fma 0 false (fp32.decode p.1) (fp32.decode p.2) (fp32.decode acc)).1) alpha

/-- The weights of an IDOT row (R342). -/
def idotWeights (fmt len : Nat) (bs : List Byte) : List Int :=
  (List.range len).map fun k => if fmt = 8 then sxNat (fieldAt bs (k / 2) 1 / 2 ^ (4 * (k % 2)) % 16) 4 else sxNat (fieldAt bs k 1) 8

/-- One row of IDOT (R342): weights, activations, and the scale. -/
def idotRow (b : BankBlock) (ws xs : List Int) (scale : Nat) : Nat :=
  let acc := dotAccum (bitOf b.opt 0) b.beta.toInt (List.zipWith (· * ·) ws xs)
  ((if bitOf b.opt 1 then bf16 else fp32).mulR 0 false (fp32.decode scale) (FVal.ofInt acc)).1

/-- A step on the bytes read before. -/
def bankThen (r : BankRead) (f : List Byte → BankRead) : BankRead := match r with | .ok bs => f bs | .error e => .error e

/-- The destination bytes `lo` to `hi` of row `r` of a BKT command (R324, R339 to R342). -/
def State.bankRow (s : State) (c : BankCmd) (b : BankBlock) (r lo hi : Nat) : BankRead :=
  let n := hi - lo
  let src1 (o k : Nat) : BankRead := s.bankRead c (b.src1 + r * b.spitch1 + o) k
  let src2 (o k : Nat) : BankRead := s.bankRead c (b.src2 + r * b.spitch2 + o) k
  let w := bankElem b.fmt
  match b.cmd with
  | 0 => .ok (List.replicate n 0)
  | 1 => .ok ((List.range (n / w)).flatMap fun _ => leBytes w b.alpha.toNat)
  | 2 => src1 lo n
  | 6 => bankThen (src1 lo n) fun xs => .ok ((elemsOf w xs).flatMap fun x => leBytes w (bankElement b x 0))
  | 7 =>
    let e := bankElem b.opt
    bankThen (src1 (lo * e / w) (n * e / w)) fun xs => .ok ((elemsOf e xs).flatMap fun x => leBytes w (convert b.fmt b.opt 0 false true x).1)
  | 8 => bankThen (src1 0 (4 * b.len)) fun xs => bankThen (src2 0 (4 * b.len)) fun ys =>
      .ok (leBytes 4 (dotRow b.alpha.toNat (elemsOf 4 xs) (elemsOf 4 ys)))
  | 9 => bankThen (src1 0 (bankSrcBytes1 b)) fun ws => bankThen (src2 0 b.len) fun xs =>
      bankThen (s.bankRead c (b.scales + 4 * (r / 32)) 4) fun sc =>
        .ok (leBytes (bankRowBytes b) (idotRow b (idotWeights b.fmt b.len ws) (xs.map fun x => sxNat x.toNat 8) (leNat sc)))
  | _ => bankThen (src1 lo n) fun xs => bankThen (src2 lo n) fun ys =>
      .ok ((List.zipWith (bankElement b) (elemsOf w xs) (elemsOf w ys)).flatMap (leBytes w))

/-- A row written by a bank core (R326): what stops it, or the state after. -/
def State.bankWrite (s : State) (c : BankCmd) (pa : Nat) (bs : List Byte) : Except (Cause × Nat) State :=
  let ws := (List.range bs.length).zip bs |>.map fun e => (pa + e.1, e.2)
  match c.bad.find? fun b => b.1 < pa + bs.length && pa < b.1 + 256 with
  | some b => .error b.2
  | none =>
    match (wordsOf ws).find? fun w => s.isPoisoned w && !([0, 1, 2, 3].all fun j => ws.any fun e => e.1 = 4 * w + j) with
    | some w => .error (.poison, 4 * w)
    | none => .ok (s.writeMem none none ws)

/-- The words of a part of a share. -/
def BankPiece.words (p : BankPiece) : Nat := (p.hi - p.lo + 3) / 4

/-- Whether every word of a part has performed. -/
def BankItem.whole (it : BankItem) (j : Nat) : Bool :=
  match it.pieces[j]? with | some p => (List.range p.words).all fun w => it.did.contains (j, w) | none => false

/-- Whether every word of the rows of which some words have performed has (R350): the parts of a row that a page's 64 KiB units cut are one
row. -/
def BankItem.wholeRows (it : BankItem) : Bool :=
  let left := it.pieces.zipIdx.filter fun p => it.prog ≤ p.2 && !it.whole p.2
  !left.any fun p => it.pieces.zipIdx.any fun q => q.1.row = p.1.row && (q.2 < it.prog || it.did.any (·.1 = q.2))

/-- Whether some words of a row, or accesses of a kernel that its program order has passed, have performed and others have not, or table
words were read ahead. -/
def BankItem.half (it : BankItem) : Bool :=
  !it.wholeRows || !it.rows.isEmpty || match it.kern with | some k => !k.late.isEmpty | none => false

/-- The first part, from one on, that has words left. -/
def BankItem.next (it : BankItem) : Nat :=
  (((List.range it.pieces.length).find? fun j => it.prog ≤ j && !it.whole j)).getD it.pieces.length

/-- Bytes `lo` to `hi` of a part of a share (from its first byte) are formed and written (R324, R326). -/
def State.shareBytes (s : State) (c : BankCmd) (b : BankBlock) (p : BankPiece) (lo hi : Nat) : Except (Cause × Nat) State :=
  match s.bankRow c b p.row (p.lo + lo) (p.lo + hi) with
  | .error e => .error e
  | .ok bs => s.bankWrite c (p.pa + lo) bs

/-- One word of a part of a share: an element event (R187, R324). -/
def State.shareWord (s : State) (c : BankCmd) (b : BankBlock) (p : BankPiece) (w : Nat) : Except (Cause × Nat) State :=
  s.shareBytes c b p (4 * w) (min (p.hi - p.lo) (4 * w + 4))

/-- An item stops at a bank fault (R326): it writes no further element, and adds the bytes that it has written. -/
def State.stopItem (s : State) (k : Nat) (it : BankItem) (c : BankCmd) (e : Cause × Nat) : State :=
  (s.logBank c it.core e.1 e.2).finishItem k it.bytes true

/-- A share goes on after some words, or is complete; the words of the parts that are done need no note. -/
def State.goShare (s : State) (k : Nat) (it : BankItem) : State :=
  let it : BankItem := { it with prog := it.next, did := it.did.filter fun e => it.next ≤ e.1 }
  if it.pieces.length ≤ it.prog then s.finishItem k it.bytes false else { s with items := updAt s.items k fun _ => it }

/-- A step of a BKT share (R326, R341, R343): what is left of one row, or the end of the share. -/
def State.stepShare (s : State) (k : Nat) (it : BankItem) (c : BankCmd) (b : BankBlock) : State :=
  if bankRefused b then s.stopItem k it c (.length, b.dst)
  else match it.pieces[it.prog]? with
    | none => s.finishItem k it.bytes false
    | some p =>
      let left := (List.range p.words).filter fun w => !it.did.contains (it.prog, w)
      let r := if left.length = p.words then s.shareBytes c b p 0 (p.hi - p.lo)
        else left.foldl (fun (r : Except (Cause × Nat) State) w => r.bind fun s => s.shareWord c b p w) (.ok s)
      match r with
      | .error e => s.stopItem k it c e
      | .ok s =>
        let n := if left.length = p.words then p.hi - p.lo else 4 * left.length
        s.goShare k { it with prog := it.prog + 1, bytes := it.bytes + n }

/-- One word of the share that runs on a bank core, in any order (R194, R324). -/
def State.wordShare (s : State) (k : Nat) (it : BankItem) (c : BankCmd) (b : BankBlock) (j w : Nat) : State :=
  match it.pieces[j]? with
  | none => s
  | some p =>
    if bankRefused b || j < it.prog || p.words ≤ w || it.did.contains (j, w) then s
    else match s.shareWord c b p w with
      | .error e => s.stopItem k it c e
      | .ok s => s.goShare k { it with did := it.did ++ [(j, w)], bytes := it.bytes + min (p.hi - p.lo - 4 * w) 4 }

/-- What a table row of BKIR reads as (R346): none when it cannot be read. -/
def State.tableRow (s : State) (c : BankCmd) (gr : Group) (va n : Nat) : Option (List Byte) × State :=
  (unitsOf va n).foldl (fun (a : Option (List Byte) × State) u =>
    match a with
    | (none, s) => (none, s)
    | (some bs, s) =>
      match s.resolve (8 * gr.core + gr.p0) c.ctx c.grp u.1 false false false with
      | (.error f, s) => (none, s.recordFail (8 * gr.core + gr.p0) c.ctx c.grp f)
      | (.ok x, s) =>
        if x.leaf.mapped || x.leaf.crew || 2 ≤ x.leaf.tier then (none, s)
        else match s.readCoherent none { x with window := false } (u.2 + 1 - u.1) with
          | .fail _ _ => (none, s)
          | .ok cs _ => (some (bs ++ cs), s)) (some [], s)

/-- A table row with the words of it that were read before in their places. -/
def overRow (rows : List (Nat × Nat × Word)) (t : Nat) (bs : List Byte) : List Byte :=
  bs.mapIdx fun i v => match rows.find? fun e => e.1 = t && e.2.1 = i / 4 with
    | some e => BitVec.ofNat 8 (e.2.2.toNat / 2 ^ (8 * (i % 4)))
    | none => v

/-- The rows of a packet, in ascending t: the sum so far, and the t that were skipped; `rows` are words read before. -/
def State.reduceRows (s : State) (c : BankCmd) (gr : Group) (b : RedBlock) (rows : List (Nat × Nat × Word)) :
    List (Nat × Nat) → List Nat → List Nat → List Nat × List Nat × State
  | [], acc, skips => (acc, skips, s)
  | (t, ix) :: r, acc, skips =>
    let w := bankElem b.fmt
    match (if ix < b.nrows then s.tableRow c gr (b.table + ix * b.tpitch) b.rowb else (none, s)) with
    | (some bs, s) =>
      let add (a x : Nat) : Nat := (fp32.add 0 false (fp32.decode a) ((fmtOf b.fmt).decode x)).1
      s.reduceRows c gr b rows r (List.zipWith add acc (elemsOf w (overRow rows t bs))) skips
    | (none, s) => s.reduceRows c gr b rows r acc (skips ++ [t])

/-- Whether another command holds a word of a packet's table rows (R196, R348). -/
def State.tableHeld (s : State) (c : BankCmd) (b : RedBlock) (ixs : List Nat) : Bool :=
  ixs.any fun ix => ix < b.nrows && (unitsOf (b.table + ix * b.tpitch) b.rowb).any fun u =>
    match walkVa s.mem (s.ctx c.ctx).root u.1 with
    | .leaf l => ({ s with cmds := s.cmds.filter fun d => d.id != c.id }).held (l.frame + u.1 % l.size) (u.2 + 1 - u.1)
    | _ => false

/-- The bytes of a packet's destination row (R346), and the t that were skipped. -/
def State.packetRow (s : State) (c : BankCmd) (gr : Group) (b : RedBlock) (rows : List (Nat × Nat × Word)) (bag : Nat) (ixs : List Nat) :
    BankRead × List Nat × State :=
  let w := bankElem b.fmt
  match (if b.accum then s.bankRead c (b.dst + bag * b.dpitch) b.rowb else .ok (List.replicate b.rowb 0)) with
  | .error e => (.error e, [], s)
  | .ok old =>
    let first := if b.accum then (elemsOf w old).map fun x => (fp32.put 0 false ((fmtOf b.fmt).decode x)).1 else (elemsOf w old).map fun _ => 0
    let (acc, skips, s) := s.reduceRows c gr b rows ((List.range ixs.length).zip ixs) first []
    (.ok (acc.flatMap fun x => if b.fmt = 2 then leBytes 2 (bf16.put 0 false (fp32.decode x)).1 else leBytes 4 x), skips, s)

/-- A step of a BKIR packet (R346): one word of its destination row, or what is left of it; a skipped row is recorded once. -/
def State.stepPacket (s : State) (k : Nat) (it : BankItem) (c : BankCmd) (b : RedBlock) (one : Option Nat) : State :=
  match it.pieces, s.groups[c.grp]? with
  | p :: _, some gr =>
    match b.packets[p.row]? with
    | none => s
    | some (bag, ixs) =>
      let left := (List.range p.words).filter fun w => !it.did.contains (0, w) && (one = none || one = some w)
      if s.tableHeld c b ixs || left.isEmpty then s
      else
        let (r, skips, s) := s.packetRow c gr b it.rows bag ixs
        let new := skips.filter fun t => !it.skips.contains t
        let s := new.foldl (fun s t => s.logBank c it.core .length (b.pkt + 192 * p.row + 64 + 4 * t)) s
        let it : BankItem := { it with skips := it.skips ++ new }
        match r with
        | .error e => s.stopItem k it c e
        | .ok out =>
          let go := left.foldl (fun (r : Except (Cause × Nat) State) w =>
            r.bind fun s => s.bankWrite c (p.pa + 4 * w) ((out.drop (4 * w)).take 4)) (.ok s)
          match go with
          | .error e => s.stopItem k it c e
          | .ok s =>
            let it : BankItem := { it with did := it.did ++ left.map fun w => (0, w), bytes := it.bytes + 4 * left.length }
            if it.whole 0 then s.finishItem k it.bytes (!it.skips.isEmpty) else { s with items := updAt s.items k fun _ => it }
  | _, _ => s

/-- A word of a table row of a packet read ahead of the others (R187, R346), at its own time. -/
def State.rowWord (s : State) (k : Nat) (it : BankItem) (c : BankCmd) (b : RedBlock) (t word : Nat) : State :=
  match (it.pieces[0]?).bind fun p => b.packets[p.row]?, s.groups[c.grp]? with
  | some (_, ixs), some gr =>
    match ixs[t]? with
    | none => s
    | some ix =>
      if b.nrows ≤ ix || b.rowb ≤ 4 * word || (it.rows.any fun e => e.1 = t && e.2.1 = word) || s.tableHeld c b [ix] then s
      else match s.tableRow c gr (b.table + ix * b.tpitch + 4 * word) 4 with
        | (some bs, s) => { s with items := updAt s.items k fun it => { it with rows := it.rows ++ [(t, word, BitVec.ofNat 32 (leNat bs))] } }
        | (none, s) => s
  | _, _ => s

/-- The registers with which an instance starts (R336). -/
def startKernel (core : Nat) (p : BankPiece) (entry regs : Nat) (b : DWord) (params : List Word) : Kernel :=
  let n (k : Nat) : DWord := BitVec.ofNat 64 k
  { seg := p.pa % 0x2000000, segLen := p.lo, segVa := p.row,
    v := stSetAll [] (((List.range 32).zip params) ++ (List.range 32).map fun l => (32 + l, BitVec.ofNat 32 (4 * l))),
    s := stSetAll [] [(1, b), (2, n (p.pa % 0x2000000)), (3, n p.lo), (4, n p.row), (5, n core)],
    nest := [], pc := n entry, regs, late := [], ahead := [] }

/-- Whether an item may run now (R331, R347): its range is recalled, and nothing mk-before its command is incomplete. -/
def State.itemReady (s : State) (it : BankItem) : Bool :=
  (it.stand == .queued || it.stand == .suspended) && (match s.cmd it.cmd with | some c => c.held && s.mkReady c && !s.bankLeaves c.ctx | none => false)

/-- The priority of an item. -/
def State.itemPrio (s : State) (it : BankItem) : Nat := match s.cmd it.cmd with | some c => c.prio | none => 0

/-- The item a bank core starts next (R331): the highest PRIO, suspended ones first, then the first to arrive. -/
def State.nextItem (s : State) (b : Nat) : Option Nat :=
  let better (x y : BankItem) : Bool :=
    s.itemPrio y < s.itemPrio x || (s.itemPrio x = s.itemPrio y && x.stand == .suspended && y.stand != .suspended)
  (s.items.zipIdx.foldl (fun (best : Option (BankItem × Nat)) e =>
    if e.1.core != b || !s.itemReady e.1 then best
    else match best with
      | none => some e
      | some x => if better e.1 x.1 then some e else best) none).map (·.2)

/-- An item begins or resumes on its bank core (R331, R336, R350). -/
def State.startItem (s : State) (k : Nat) : State :=
  match s.items[k]? with
  | none => s
  | some it =>
    let kern := match it.kern, s.cmd it.cmd, it.pieces with
      | some kn, _, _ => some { kn with ahead := [] }
      | none, some c, p :: _ => (match c.work with
          | .kernel _ entry regs b params => some (startKernel it.core p entry regs b params)
          | _ => none)
      | _, _, _ => none
    { s with items := updAt s.items k fun it => { it with stand := .running, kern := kern } }

/-- A step of the running item of a bank core that is no kernel, or one word of it; it waits while its command's range is not
recalled (R196). -/
def State.stepItem (s : State) (k : Nat) (one : Option (Nat × Nat)) : State :=
  match s.items[k]? with
  | none => s
  | some it =>
    match s.cmd it.cmd with
    | none => s
    | some c =>
      if !c.held then s
      else match c.work, one with
        | .kernel _ _ _ _ _, _ => s
        | .tile b, none => s.stepShare k it c b
        | .tile b, some e => s.wordShare k it c b e.1 e.2
        | .reduce b, none => s.stepPacket k it c b none
        | .reduce b, some e => s.stepPacket k it c b (some e.2)

/-- Whether a bank core, or its stack, is offline (R366). -/
def State.bankOffline (s : State) (b : Nat) : Bool := s.offline.contains (.bank b) || s.offline.contains (.stack (b / 256))

/-- An item of a bank core that is offline ends as under R349 (R366): a record, whose cause the spec leaves open, ERR, and
the bytes a share has written. -/
def State.loseItem (s : State) (k : Nat) : State :=
  match s.items[k]? with
  | none => s
  | some it =>
    match s.cmd it.cmd with
    | none => s
    | some c =>
      let (n, s) := s.drawNat
      (s.logBank c it.core (anyCause n) (match it.kern with | some k => k.pc.toNat | none => 0)).finishItem k (if it.kern.isSome then 0 else it.bytes) true

/-- The meaning of BANK_WORK_ITEM (R331): the next item of an idle bank core starts, or the running one takes its next
row; on a bank core that is offline an item ends (R366). -/
def execBankWorkItem (b : Nat) (s : State) : Host.Outcome State Fault Refusal :=
  .next (if s.bankOffline b then
      match s.items.findIdx? fun it => it.core = b && it.stand != .done with
      | some k => s.loseItem k
      | none => s
    else match s.running b with
    | some k => s.stepItem k none
    | none => match s.nextItem b with | some k => s.startItem k | none => s)

/-- One word of the running item of a bank core (R187, R194). -/
def State.bankWord (s : State) (b piece word : Nat) : State :=
  if s.bankOffline b then s else match s.running b with | some k => s.stepItem k (some (piece, word)) | none => s

/-- One word of a table row of the packet that runs on a bank core read (R187, R346). -/
def State.bankRowWord (s : State) (b t word : Nat) : State :=
  if s.bankOffline b then s
  else match (s.running b).bind fun k => (s.items[k]?).map fun it => (k, it) with
    | none => s
    | some (k, it) =>
      match s.cmd it.cmd with
      | some c => if !c.held then s else match c.work with | .reduce b => s.rowWord k it c b t word | _ => s
      | none => s

/-- The suspended items that fill the slots of a bank core (R350): those of a context that has left the device stand in its save area
(R368). -/
def State.suspendedAt (s : State) (b : Nat) : Nat :=
  (s.items.filter fun it => it.core = b && it.stand == .suspended
    && (match s.cmd it.cmd with | some c => !s.bankLeaves c.ctx | none => false)).length

/-- An item is suspended and its command's range released (R350). -/
def State.suspendItem (s : State) (k cmd : Nat) : State :=
  { s with
    items := updAt s.items k fun it => { it with stand := .suspended }
    cmds := s.cmds.map fun (d : BankCmd) => if d.id = cmd then { d with held := false } else d }

/-- The meaning of BANK_SUSPEND (R350, R368): a ready item of a higher PRIO waits and a suspension slot is free, or the
context leaves the device and has a bank save area. -/
def execBankSuspend (b : Nat) (s : State) : Host.Outcome State Fault Refusal :=
  .next (match s.running b with
    | none => s
    | some k => match s.items[k]? with
      | none => s
      | some it =>
        let off := match s.cmd it.cmd with | some c => s.bankLeaves c.ctx | none => false
        if !it.half && (off || s.suspendedAt b < 4 && s.items.any fun x => x.core = b && s.itemReady x && s.itemPrio it < s.itemPrio x) then
          s.suspendItem k it.cmd
        else s)

end Sys2Proof.Machine
end

