-- ==== Sys2Proof/Machine/Control.lean ====
section
/-! DEFINITION. Branches, structured divergence, REGANG and EXIT (R23 to R30, R130 to R139). -/
namespace Sys2Proof.Machine

/-- The target of a direct branch (R131). -/
def target (pc : DWord) (ofs : BitVec 32) : DWord := pc + (ofs.signExtend 64 <<< (3 : Nat))

/-- An instruction of a gang that is not irrevocable and only changes the gang itself (R133, R135). -/
def State.steer (s : State) (us : List Use) (bank : Issuer → Kernel → Kernel) (f : Issuer → Gang → Gang) :
    Host.Outcome State Fault Refusal :=
  match s.issue with
  | .none => .fault .noIssuer
  | .gang g G _ i =>
    .next (match usesCheck us i with
      | some c => s.wordTrap g G i c
      | none =>
        if G.interlocked us then s.stall g
        else s.speculate g G i.pc false ⟨[], [], []⟩ fun s => s.updGang g (f i))
  | .bank b _ i =>
    .next (if us.any (Use.badBank i) then s.abortKernel b .illop i.pc.toNat else s.updKernel b (bank i))

/-- A control instruction that no bank core accepts (R71). -/
def State.steerGang (s : State) (chk : WordCheck) (us : List Use) (needs : List RegId) (f : Issuer → Gang → Gang) :
    Host.Outcome State Fault Refusal :=
  s.onGang (chk.then_ (usesCheck us)) us fun g G _ i =>
    s.speculate g G i.pc false ⟨needs, [], []⟩ fun s => s.updGang g (f i)

/-- The meaning of BR (R133). -/
def execBr (x : Branch) (s : State) : Host.Outcome State Fault Refusal :=
  s.steer [] (fun i k => { k with pc := target i.pc x.ofs }) fun i G => G.jump i.frag (target i.pc x.ofs)

/-- Where BRC goes (R133): the condition on the scalar pipe. -/
def brcTarget (x : Branch) (i : Issuer) : DWord :=
  if condHolds x.cond.toNat (i.rds x.a) then target i.pc x.ofs else i.pc + 8

/-- The meaning of BRC (R133). -/
def execBrc (x : Branch) (s : State) : Host.Outcome State Fault Refusal :=
  s.steer [Use.r x.a] (fun i k => { k with pc := brcTarget x i }) fun i G => G.jump i.frag (brcTarget x i)

/-- The slices that take a BRS (R133): with a scalar register all or none, else those with an active lane whose
condition holds. -/
def brsTaken (x : Branch) (i : Issuer) : BitVec 8 :=
  match x.a with
  | .s _ => if condHolds x.cond.toNat (i.rds x.a) then i.frag else 0
  | _ => maskOf8 fun k => i.frag.getLsbD k && i.acts.any fun l => l / 4 = k && condHolds x.cond.toNat (i.rd x.a l)

/-- A fragment splits into the slices that go to `a` and the rest, which go on (R25). -/
def Gang.split (g : Gang) (frag taken : BitVec 8) (a : DWord) : Gang :=
  let low (m : BitVec 8) : Nat := ((List.range 8).find? fun k => m.getLsbD k).getD 0
  let rest := frag &&& ~~~taken
  { g with slices := g.slices.mapIdx fun k sl =>
      if taken.getLsbD k && frag.getLsbD k then { sl with pc := a, frag := low (taken &&& frag), replay := none }
      else if rest.getLsbD k then { sl with pc := sl.pc + 8, frag := low rest, replay := none }
      else sl }

/-- The meaning of BRS (R25, R133). -/
def execBrs (x : Branch) (s : State) : Host.Outcome State Fault Refusal :=
  s.steerGang noCheck [Use.r x.a] [] fun i G => G.split i.frag (brsTaken x i) (target i.pc x.ofs)

/-- The meaning of JMPI (R133). -/
def execJmpi (x : Branch) (s : State) : Host.Outcome State Fault Refusal :=
  s.steerGang noCheck [Use.r x.a] [] fun i G => G.jump i.frag (i.rds x.a)

/-- The meaning of RET (R133). -/
def execRet (x : Branch) (s : State) : Host.Outcome State Fault Refusal :=
  s.steerGang noCheck [Use.r x.a] [] fun i G => G.jump i.frag (i.rds x.a)

/-- Where CALL goes (R133): the label, or the value of a read before the link is written. -/
def callTarget (x : Branch) (i : Issuer) : DWord := if x.cond = 0 then target i.pc x.ofs else i.rds x.a

/-- The link register that CALL writes (R133). -/
def callLink (x : Branch) (i : Issuer) : Res :=
  match x.d with
  | .s n => ⟨[], [(n.val, i.pc + 8)], 0⟩
  | _ => .none

/-- The meaning of CALL (R133, R134). -/
def execCall (x : Branch) (s : State) : Host.Outcome State Fault Refusal :=
  s.steerGang noCheck (Use.w x.d :: if x.cond = 0 then [] else [Use.r x.a])
    (match x.d with | .s n => [.s n.val] | _ => [])
    fun i G => (G.commitRes (callLink x i)).jump i.frag (callTarget x i)

/-! ### Structured divergence -/

/-- The nesting counter of a lane. -/
def nestOf (t : Store 8) (l : Nat) : Nat := (stGet t l).toNat

/-- The counters of the lanes of a fragment changed by a rule (R27). -/
def stepNest (t : Store 8) (lanes : BitVec 32) (f : Nat → Nat → Nat) : Store 8 :=
  (maskLanes lanes).foldl (fun u l => stSet u l (BitVec.ofNat 8 (f l (nestOf t l)))) t

/-- A condition in one lane: a scalar register reads the same in every lane (R132, R135). -/
def laneCond (x : Branch) (i : Issuer) (l : Nat) : Bool := condHolds x.cond.toNat (i.rd x.a l)

/-- IF on one counter (R27). -/
def ifRule (c : Nat → Bool) (l n : Nat) : Nat := if n = 0 then (if c l then 0 else 1) else n + 1
/-- ELSE on one counter (R27). -/
def elseRule (_ n : Nat) : Nat := if n = 0 then 1 else if n = 1 then 0 else n
/-- ENDIF on one counter (R27). -/
def endifRule (_ n : Nat) : Nat := n - 1
/-- LOOP on one counter (R27). -/
def loopRule (_ n : Nat) : Nat := if n = 0 then 0 else n + 1
/-- BRK on one counter (R27). -/
def brkRule (c : Nat → Bool) (l n : Nat) : Nat := if n = 0 then (if c l then 1 else 0) else n

/-- Whether some lane has counter 0. -/
def anyZero (t : Store 8) (lanes : BitVec 32) : Bool := (maskLanes lanes).any fun l => nestOf t l = 0

/-- The counters after a rule and the place the fragment goes to: the target when no lane is left active and the rule
branches then (R28), else PC + 8. -/
def nestStep (t : Store 8) (i : Issuer) (f : Nat → Nat → Nat) (tgt : Option DWord) : Store 8 × DWord :=
  let u := stepNest t i.lanes f
  (u, match tgt with
    | some a => if anyZero u i.lanes then i.pc + 8 else a
    | none => i.pc + 8)

/-- ENDLOOP (R27): back while any lane has counter 0, else every counter down by 1. -/
def endloopStep (t : Store 8) (i : Issuer) (back : DWord) : Store 8 × DWord :=
  if anyZero t i.lanes then (t, back) else (stepNest t i.lanes fun _ n => n - 1, i.pc + 8)

/-- The lanes whose counter holds the largest value `top` and would increase (R29, R30). -/
def nestFull (t : Store 8) (lanes : BitVec 32) (top : Nat) : BitVec 32 := maskOf fun l => lanes.getLsbD l && nestOf t l = top

/-- A structured instruction (R27 to R30): the counters and the PC of the fragment, or DIVOVF with the full lanes when
`grows` and a counter that would increase holds its largest value. -/
def State.nestOp (s : State) (us : List Use) (grows : Bool) (f : Store 8 → Issuer → Store 8 × DWord) :
    Host.Outcome State Fault Refusal :=
  match s.issue with
  | .none => .fault .noIssuer
  | .gang g G _ i =>
    .next (match usesCheck us i with
      | some c => s.wordTrap g G i c
      | none =>
        if G.interlocked us then s.stall g
        else
          let full := if grows then nestFull G.nest i.lanes 255 else 0
          if maskAny full then
            s.speculate g G i.pc false ⟨[], [], []⟩ fun s =>
              s.conclude g i.frag (some { TrapInfo.plain .divovf full i.frag i.pc with once := true })
          else
            s.speculate g G i.pc false ⟨[], [], []⟩ fun s =>
              s.updGang g fun G => let r := f G.nest i; { G with nest := r.1 }.jump i.frag r.2)
  | .bank b k i =>
    .next (if us.any (Use.badBank i) then s.abortKernel b .illop i.pc.toNat
      else if grows && maskAny (nestFull k.nest i.lanes 3) then s.abortKernel b .divovf i.pc.toNat
      else s.updKernel b fun k => let r := f k.nest i; { k with nest := r.1, pc := r.2 })

/-- The meaning of IF (R27 to R30, R135). -/
def execIfOp (x : Branch) (s : State) : Host.Outcome State Fault Refusal :=
  s.nestOp [Use.r x.a] true fun t i => nestStep t i (ifRule (laneCond x i)) (some (target i.pc x.ofs))

/-- The meaning of ELSE (R27, R28, R135). -/
def execElseOp (x : Branch) (s : State) : Host.Outcome State Fault Refusal :=
  s.nestOp [] false fun t i => nestStep t i elseRule (some (target i.pc x.ofs))

/-- The meaning of ENDIF (R27, R135). -/
def execEndif (_ : Branch) (s : State) : Host.Outcome State Fault Refusal :=
  s.nestOp [] false fun t i => nestStep t i endifRule none

/-- The meaning of LOOP (R27, R29, R135). -/
def execLoop (_ : Branch) (s : State) : Host.Outcome State Fault Refusal :=
  s.nestOp [] true fun t i => nestStep t i loopRule none

/-- The meaning of BRK (R27, R28, R135, R136). -/
def execBrk (x : Branch) (s : State) : Host.Outcome State Fault Refusal :=
  s.nestOp [Use.r x.a] false fun t i => nestStep t i (brkRule (laneCond x i)) (some (target i.pc x.ofs))

/-- The meaning of ENDLOOP (R27, R135). -/
def execEndloop (x : Branch) (s : State) : Host.Outcome State Fault Refusal :=
  s.nestOp [] false fun t i => endloopStep t i (target i.pc x.ofs)

/-! ### Meeting and leaving -/

/-- A fragment stops at a REGANG with an id (R26); PCs stay at the instruction. -/
def Gang.stopAt (g : Gang) (m : BitVec 8) (id : BitVec 8) : Gang :=
  { g with slices := g.slices.mapIdx fun k sl =>
      if m.getLsbD k then { sl with stopped := true, regang := id, replay := none } else sl }

/-- The meaning of REGANG (R26, R138). -/
def execRegang (x : RegangArgs) (s : State) : Host.Outcome State Fault Refusal :=
  s.steerGang noCheck [] [] fun i G => (G.stopAt i.frag x.id).rejoin

/-- The meaning of EXIT (R139): irrevocable; on a bank core the instance ends with its bytes (R338). -/
def execExit (s : State) : Host.Outcome State Fault Refusal :=
  match s.issue with
  | .none => .fault .noIssuer
  | .gang g G _ i => .next (s.irrevocable g G fun s => some (s.exitSlices g i.frag))
  | .bank b _ _ =>
    .next (match s.running b with
      | some k => match s.items[k]? with
        | some it => s.finishItem k (match it.kern with | some kn => kn.segLen | none => 0) false
        | none => s
      | none => s)

end Sys2Proof.Machine
end

