-- ==== Sys2Proof/Machine/Copy.lean ====
section
/-! DEFINITION. The copy engine: CPY, CPYM and their element events (R83, R241 to R245). -/
namespace Sys2Proof.Machine

/-- Four source bytes from an address. -/
def srcWord (va : Nat) : List SrcByte := (List.range 4).map fun k => .at_ (va + k)

/-- A copy described at issue: ranges read, ranges written, words (destination address and source bytes). -/
structure CopyPlan where
  src : List (Nat × Nat)
  dst : List (Nat × Nat)
  words : List (Nat × List SrcByte)
  deriving DecidableEq, Repr

/-- LIN (R242). -/
def planLin (d a n : Nat) : CopyPlan :=
  ⟨[(a, n)], [(d, n)], (List.range (n / 4)).map fun j => (d + 4 * j, srcWord (a + 4 * j))⟩

/-- RECT (R242). -/
def planRect (d a w h sp dp : Nat) : CopyPlan :=
  ⟨(List.range h).map fun r => (a + r * sp, w), (List.range h).map fun r => (d + r * dp, w),
   (List.range h).flatMap fun r => (planLin (d + r * dp) (a + r * sp) w).words⟩

/-- TR (R242). -/
def planTr (d a k pitch : Nat) : CopyPlan :=
  ⟨(List.range k).flatMap fun q => (List.range 32).map fun i => (a + 128 * q + i * pitch, 128),
   (List.range k).map fun q => (d + 4096 * q, 4096),
   (List.range k).flatMap fun q => (List.range 32).flatMap fun j => (List.range 32).map fun i =>
     (d + 4096 * q + 4 * (32 * j + i), srcWord (a + 128 * q + i * pitch + 4 * j))⟩

/-- Channels rounded up to a multiple of 16 (R83). -/
def padded (c : Nat) : Nat := (c + 15) / 16 * 16

/-- The element offset of (o, c, s) in CV16 (R83). -/
def cv16Index (ch sp o c s : Nat) : Nat := ((o * (padded ch / 16) + c / 16) * sp + s) * 16 + c % 16

/-- The words that hold `n` bytes from an address, each byte by its offset; bytes outside are kept. -/
def byteWords (d n : Nat) (f : Nat → SrcByte) : List (Nat × List SrcByte) :=
  if n = 0 then []
  else (List.range ((d + n - 1) / 4 - d / 4 + 1)).map fun k =>
    let w := 4 * (d / 4 + k)
    (w, (List.range 4).map fun j => if d ≤ w + j && w + j < d + n then f (w + j - d) else .keep)

/-- CV16P (R83, R242): plain to CV16, padding channels zero. -/
def planPack (d a ch sp o ew : Nat) : CopyPlan :=
  let n := o * padded ch * sp * ew
  ⟨[(a, o * ch * sp * ew)], [(d, n)], byteWords d n fun t =>
    let e := t / ew
    let c16 := e % 16
    let s := e / 16 % sp
    let blk := e / 16 / sp
    let c := blk % (padded ch / 16) * 16 + c16
    let oo := blk / (padded ch / 16)
    if c < ch then .at_ (a + ((oo * ch + c) * sp + s) * ew + t % ew) else .byte 0⟩

/-- The parts of a CV16 tensor that CV16U reads: padding channels are left out (R242). -/
def cv16Reads (a ch sp o ew : Nat) : List (Nat × Nat) :=
  (List.range o).flatMap fun oo => (List.range (padded ch / 16)).flatMap fun b =>
    let m := min 16 (ch - 16 * b)
    if m = 16 then [(a + cv16Index ch sp oo (16 * b) 0 * ew, sp * 16 * ew)]
    else (List.range sp).map fun s => (a + cv16Index ch sp oo (16 * b) s * ew, m * ew)

/-- CV16U (R83, R242): CV16 to plain. -/
def planUnpack (d a ch sp o ew : Nat) : CopyPlan :=
  let n := o * ch * sp * ew
  ⟨cv16Reads a ch sp o ew, [(d, n)], byteWords d n fun t =>
    let e := t / ew
    .at_ (a + cv16Index ch sp (e / sp / ch) (e / sp % ch) (e % sp) * ew + t % ew)⟩

/-- The limits of R242, alignment first (R243), and the plan. -/
def cpyPlan (form ew d a b c : Nat) : Except Cause CopyPlan :=
  let blo := b % 2 ^ 32
  let bhi := b / 2 ^ 32
  let clo := c % 2 ^ 32
  let chi := c / 2 ^ 32
  match form with
  | 0 => if a % 4 != 0 || d % 4 != 0 then .error .align else if blo % 4 != 0 then .error .length else .ok (planLin d a blo)
  | 1 =>
    if a % 4 != 0 || d % 4 != 0 || clo % 4 != 0 || chi % 4 != 0 then .error .align
    else if blo % 4 != 0 || 65535 < bhi || 2 ^ 32 - 4 < blo * bhi then .error .length
    else .ok (planRect d a blo bhi clo chi)
  | 2 =>
    if a % 4 != 0 || d % 4096 != 0 || clo % 4 != 0 then .error .align
    else if blo < 1 || 256 < blo || clo < 128 then .error .length
    else .ok (planTr d a blo clo)
  | _ =>
    let w := 2 ^ ew
    if a % w != 0 || d % w != 0 then .error .align
    else if blo < 1 || 65535 < blo || clo < 1 || 65535 < clo || bhi < 1 || 2 ^ 20 < bhi || 2 ^ 32 < clo * padded blo * bhi * w
      then .error .length
    else .ok (if form = 3 then planPack d a blo bhi clo w else planUnpack d a blo bhi clo w)

/-- The elements of a plan (R187, R244): a read of each mapped source tile, a write of each mapped destination tile and
of each unmapped destination word. -/
def planElems (k : Nat) (ps : List (Nat × Leaf)) (p : CopyPlan) : List Elem :=
  let mapped (va : Nat) : Bool := match pageOf ps va with | some e => e.2.mapped | none => false
  let srcs := (p.words.flatMap fun w => w.2.filterMap fun b => match b with | .at_ va => some (va / 256) | _ => none).eraseDups
  let tiles := ((p.words.filter fun w => mapped w.1).map fun w => w.1 / 256).eraseDups
  ((srcs.filter fun t => mapped (256 * t)).map fun t => Elem.fetch k (256 * t))
    ++ (tiles.map fun t => Elem.copy k (p.words.filter fun w => w.1 / 256 = t))
    ++ ((p.words.filter fun w => !mapped w.1).map fun w => Elem.copy k [w])

/-- The page checks of a plan (R243): the source for reading, then the destination for writing; a failure names its
access flag and address. -/
def State.checkPlan (s : State) (c : Accessor) (p : CopyPlan) : Except (XFail × Nat × Nat) (List (Nat × Leaf)) × State :=
  match s.checkRanges { c with write := false } p.src with
  | (.error f, s) => (.error (f.1, f.2, 1), s)
  | (.ok a, s) =>
    match s.checkRanges { c with write := true } p.dst with
    | (.error f, s) => (.error (f.1, f.2, 2), s)
    | (.ok b, s) => (.ok (a ++ b), s)

/-- The meaning of CPY (R241 to R244). -/
def execCpy (x : CpyArgs) (s : State) : Host.Outcome State Fault Refusal :=
  let us := [Use.r x.d, Use.r x.a, Use.r x.b] ++ if x.form = 0 then [] else [Use.r x.c]
  s.command us 0 noCheck fun s g G gr i =>
    let d := (i.rds x.d).toNat
    match cpyPlan x.form.toNat x.ew.toNat d (i.rds x.a).toNat (i.rds x.b).toNat (i.rds x.c).toNat with
    | .error c => some (s.fault g (cmdTrap i c 0 i.pc))
    | .ok p =>
      match s.checkPlan ⟨G.part, gr.ctx, G.grp, false, false⟩ p with
      | (.error (f, va, acc), s) => some (s.fault g (pageTrap i acc (f, va)))
      | (.ok ps, s) =>
        if x.form = 2 && !inCrew d then some (s.fault g (cmdTrap i .prot 2 (BitVec.ofNat 64 d)))
        else some ((s.issueOp g 0 (.copy x.hint.toNat) (planElems 0 ps p) ps false).goOn g i)

/-- One descriptor of CPYM (R245): reserved field, alignment, length. The spec does not order ILLOP among the checks of R243: the reserved
field comes first (DESIGN CHOICE: notes/assumptions 62). -/
def descPlan (bs : List Byte) : Except Cause CopyPlan :=
  let f (o n : Nat) : Nat := leNat ((bs.drop o).take n)
  if f 0x14 12 != 0 then .error .illop else cpyPlan 0 0 (f 8 8) (f 0 8) (f 16 4) 0

/-- The reads of a descriptor list, entry by entry (R245): a failure with its address, or none where an entry waits at its home
slice (R348). -/
def State.readList (s : State) (c : Accessor) (core : Nat) (va : Nat) :
    Nat → Except (Option (XFail × Nat)) (List (List Byte)) × State
  | 0 => (.ok [], s)
  | n + 1 =>
    match s.checkAccess c none va 32 with
    | (.error f, s) => (.error (some (f, va)), s)
    | (.ok x, s) =>
      if s.heldAny [x] 32 then (.error none, s)
      else match s.readData core x.leaf.hint none x 32 with
        | (.fail e _, s) => (.error (some (⟨e, false, none, none⟩, va)), s)
        | (.ok bs _, s) =>
          match State.readList s c core (va + 32) n with
          | (.ok r, s) => (.ok (bs :: r), s)
          | r => r

/-- The checks and elements of the descriptors (R243, R245): the first that fails names its list entry, the access
flag, and the failure with the address that failed. -/
def State.checkList (s : State) (c : Accessor) (va k : Nat) :
    List (List Byte) → Except (Nat × Nat × XFail × Nat) (List Elem × List (Nat × Leaf)) × State
  | [] => (.ok ([], []), s)
  | bs :: r =>
    match descPlan bs with
    | .error e => (.error (va, 0, ⟨e, false, none, none⟩, va), s)
    | .ok p =>
      match s.checkPlan c p with
      | (.error (f, a, acc), s) => (.error (va, acc, f, a), s)
      | (.ok ps, s) =>
        match State.checkList s c (va + 32) (k + 1) r with
        | (.ok (es, qs), s) => (.ok (planElems k ps p ++ es, ps ++ qs), s)
        | e => e

/-- The meaning of CPYM (R245). -/
def execCpym (x : CpymArgs) (s : State) : Host.Outcome State Fault Refusal :=
  s.command [Use.r x.d, Use.r x.a] 0 noCheck fun s g G gr i =>
    let va := (i.rds x.d).toNat
    let n := (i.rds x.a).toNat
    let c : Accessor := ⟨G.part, gr.ctx, G.grp, false, false⟩
    if va % 32 != 0 then some (s.fault g (cmdTrap i .align 0 i.pc))
    else if n < 1 || 4096 < n then some (s.fault g (cmdTrap i .length 0 i.pc))
    else match s.readList c G.core va n with
      | (.error none, _) => none
      | (.error (some f), s) => some (s.fault g (pageTrap i 1 f))
      | (.ok l, s) =>
        match s.checkList c va 0 l with
        | (.error (e, acc, f), s) => some (s.fault g { pageTrap i acc f with addr := BitVec.ofNat 64 e })
        | (.ok (es, ps), s) => some ((s.issueOp g 0 (.copy x.hint.toNat) es ps false).goOn g i)

/-! ### The element events -/

/-- How an element of the copy engine ends: it waits, it performs, or it is refused with a cause and an address. -/
inductive ElemEnd where
  | wait
  | done (s : State)
  | refused (s : State) (c : Cause) (addr : Nat)
  deriving DecidableEq, Repr

/-- What a source byte stands for, none for a byte that is kept; or a failure with its address. -/
def State.srcByte (s : State) (ps : List (Nat × Leaf)) (b : SrcByte) : Except (Cause × Nat) (Option Byte) :=
  match b with
  | .keep => .ok none
  | .byte v => .ok (some v)
  | .at_ va =>
    match pageOf ps va with
    | none => .ok (some 0)
    | some e =>
      match s.readCoherent none ⟨0, physOf e va, e.2, false⟩ 1 with
      | .fail c _ => .error (c, physOf e va)
      | .ok bs _ => .ok (some (bs.headD 0))

/-- The bytes that source bytes stand for. -/
def State.srcBytes (s : State) (ps : List (Nat × Leaf)) : List SrcByte → Except (Cause × Nat) (List (Option Byte))
  | [] => .ok []
  | b :: r =>
    match s.srcByte ps b, State.srcBytes s ps r with
    | .error e, _ => .error e
    | _, .error e => .error e
    | .ok v, .ok l => .ok (v :: l)

/-- The bytes that copied words write. -/
def State.copyBytes (s : State) (ps : List (Nat × Leaf)) : List (Nat × List SrcByte) → Except (Cause × Nat) (List (Nat × Byte))
  | [] => .ok []
  | (d, bs) :: r =>
    match s.srcBytes ps bs, State.copyBytes s ps r with
    | .error e, _ => .error e
    | _, .error e => .error e
    | .ok l, .ok t =>
      let pa := match pageOf ps d with | some e => physOf e d | none => 0
      .ok (((List.range 4).zip l |>.filterMap fun e => e.2.map fun b => (pa + e.1, b)) ++ t)

/-- The words of host and peer memory that copied words read over the link (R373). -/
def State.copyFar (s : State) (ps : List (Nat × Leaf)) (ws : List (Nat × List SrcByte)) : List Nat :=
  (ws.flatMap fun w => w.2.filterMap fun b => match b with
    | .at_ va => (pageOf ps va).bind fun e => if isFar (physOf e va) && !leafDiscard s.mem e.2 then some (physOf e va / 4) else none
    | _ => none).eraseDups

/-- The memory words that copied words read. -/
def srcWords (ps : List (Nat × Leaf)) (ws : List (Nat × List SrcByte)) : List Nat :=
  (ws.flatMap fun w => w.2.filterMap fun b => match b with
    | .at_ va => (pageOf ps va).map fun e => physOf e va / 4
    | _ => none).eraseDups

/-- Whether a source byte still waits for the read of its tile. -/
def SrcByte.waits (ps : List (Nat × Leaf)) : SrcByte → Bool
  | .at_ va => match pageOf ps va with | some e => e.2.mapped | none => false
  | _ => false

/-- Whether a bank command holds a byte that a copied word reads or writes (R243). -/
def State.copyHeld (s : State) (ps : List (Nat × Leaf)) (ws : List (Nat × List SrcByte)) : Bool :=
  let held (va : Nat) : Bool := match pageOf ps va with | some e => s.engineHeld e.2 (physOf e va) 1 | none => false
  ws.any fun w => held w.1 || w.2.any fun b => match b with | .at_ va => held va | _ => false

/-- The element event of copied words (R243, R244). -/
def State.copyElem (s : State) (o : AsyncOp) (ws : List (Nat × List SrcByte)) : ElemEnd :=
  let ps := s.opPages o
  if s.copyHeld ps ws || ws.any fun w => w.2.any (SrcByte.waits ps) then .wait
  else
    let far := s.copyFar ps ws
    let (bad, s) := s.farReads far
    if bad then .refused s .poison (4 * far.headD 0)
    else match s.copyBytes ps ws, (ws.head?).bind fun w => pageOf ps w.1 with
    | .error (c, a), _ => .refused s c a
    | .ok _, none => .done s
    | .ok bs, some e =>
      let at_ := (bs.head?).map (·.1) |>.getD 0
      match s.engineRefuses e.2 bs with
      | some c => .refused s c at_
      | none =>
        let (lost, s) := s.farParts [⟨0, at_, e.2, false⟩] bs
        if !lost.isEmpty then .refused s .poison at_
        else
          let s := s.requests (s.opDie o) 0x40 ((srcWords ps ws).map (4 * ·))
          let s := if ws.any fun w => (s.ctx o.ctx).inWindow w.1 then s else s.keepAtHome (s.opDie o) o.kind.hint e.2 at_
          .done ((s.engineWrite (s.opDie o) e.2 bs).requests (s.opDie o) 0x41 (if bs.isEmpty then [] else [at_]))

/-- Whether a source byte lies in the tile at an address. -/
def SrcByte.inTileAt (va : Nat) : SrcByte → Bool
  | .at_ a => a / 256 = va / 256
  | _ => false

/-- The source bytes of a command that a tile's image answers. -/
def fillSrc (k va : Nat) (img : List Byte) (es : List Elem) : List Elem :=
  es.map fun e => match e with
    | .copy k' ws =>
      if k' = k then .copy k (ws.map fun w => (w.1, w.2.map fun b => match b with
        | .at_ a => if a / 256 = va / 256 then .byte ((img[a % 256]?).getD 0) else .at_ a
        | b => b))
      else e
    | e => e

/-- The read of one source tile (R187, R227, R244): the words its readers need; a failure drops as R243 says. -/
def State.fetchElem (s : State) (o : AsyncOp) (k va : Nat) : ElemEnd :=
  match pageOf (s.opPages o) va with
  | none => .done s
  | some e =>
    let t := tileOf e.2 (physOf e va)
    if s.engineHeld e.2 t.pa 256 then .wait
    else
      let offs := (o.elems.flatMap fun x => match x with
        | .copy k' ws => if k' = k then ws.flatMap fun w => w.2.filterMap fun b => match b with
            | .at_ a => if a / 256 = va / 256 then some (a % 256) else none
            | _ => none else []
        | _ => []).eraseDups
      let h := s.tileHdr t
      if !leafDiscard s.mem e.2 && s.hdrPoisoned t then .refused s .poison t.hpa
      else if hdrMalformed h then .refused s .prot t.pa
      else
        let ws := (offs.flatMap fun a => ((Hdr.ofNat h).readWords a 1).map fun w => t.pa / 4 + w).eraseDups
        if !leafDiscard s.mem e.2 && ws.any s.isPoisoned then .refused s .poison t.pa
        else
          let (bad, s) := s.farReads (if isFar t.pa && !leafDiscard s.mem e.2 then ws else [])
          if bad then .refused s .poison t.pa
          else .done ((s.updOp o.id fun o => { o with elems := fillSrc k va (s.tileImage t) o.elems }).requests (s.opDie o) 0x40 [t.pa])

/-- The copies of a command that read a tile are dropped with its read. -/
def dropReaders (k va : Nat) (es : List Elem) : List Elem :=
  es.filter fun e => match e with
    | .copy k' ws => !(k' = k && ws.any fun w => w.2.any (SrcByte.inTileAt va))
    | _ => true

/-- The command of a CPYM to which an element belongs (R245). -/
def Elem.cmdNo : Elem → Nat
  | .copy k _ | .fetch k _ => k
  | _ => 0

/-- The event of element `el` of an operation that copies (R243 to R245): poison drops the rest of its command (of a
CPYM the one descriptor's), any other
refusal the element (and the copies from an unreadable tile). -/
def State.copyEvent (s : State) (o : AsyncOp) (el : Nat) : State :=
  let refuse (s : State) (n : Nat) (c : Cause) (a : Nat) (others : List Elem → List Elem) : State :=
    let s := s.logElem o c (unitCode 0 (s.opPart o)) a
    if c = .poison then s.updOp o.id fun o => { o with elems := o.elems.filter fun e => o.kind.isCopy && e.cmdNo != n } else (s.dropElem o.id el).updOp o.id fun o => { o with elems := others o.elems }
  match o.elems[el]? with
  | some (.copy k ws) =>
    match s.copyElem o ws with
    | .wait => s
    | .done s => s.dropElem o.id el
    | .refused s c a => refuse s k c a fun l => l
  | some (.fetch k va) =>
    match s.fetchElem o k va with
    | .wait => s
    | .done s => s.dropElem o.id el
    | .refused s c a => refuse s k c a (dropReaders k va)
  | _ => s

/-- The meaning of CPY_ELEMENT (R243, R244): element `el` of operation `id`. -/
def execCpyElement (id el : Nat) (s : State) : Host.Outcome State Fault Refusal :=
  .next (match s.op id with
    | some o => if o.kind.isCopy then s.copyEvent o el else s
    | none => s)

end Sys2Proof.Machine
end

