-- ==== Sys2Proof/Machine/CrossLane.lean ====
section
/-! DEFINITION. The cross-lane instructions and KVSLOT (R121 to R129). -/
namespace Sys2Proof.Machine

/-- A cross-lane result in a vector register. -/
def Issuer.cross (i : Issuer) (d : Operand) (f : Nat → Nat) : Res :=
  match d with
  | .v n => ⟨i.vec n.val fun l => BitVec.ofNat 32 (f l), [], 0⟩
  | _ => .none

/-- The segment width of a shuffle (R122). -/
def segWidth (sub : BitVec 3) : Nat := 32 / 2 ^ sub.toNat

/-- A shuffle: `src` gives the source lane from the segment base, the width, the lane's index in it and b (R122). -/
def Issuer.shuffle (i : Issuer) (x : Arith) (src : Nat → Nat → Nat → Nat → Nat) : Res :=
  let w := segWidth x.sub
  i.cross x.d fun l => (i.rd x.a (src (l - l % w) w (l % w) (i.rd x.b l).toNat)).toNat

/-- The meaning of SHFL (R122). -/
def execShfl (x : Arith) (s : State) : Host.Outcome State Fault Refusal :=
  s.plain false noCheck (arithUses x.d [x.a, x.b]) fun i => i.shuffle x fun sb w _ b => sb + b % w

/-- The meaning of SHFLX (R122). -/
def execShflx (x : Arith) (s : State) : Host.Outcome State Fault Refusal :=
  s.plain false noCheck (arithUses x.d [x.a, x.b]) fun i => i.shuffle x fun sb w k b => sb + (k ^^^ (b % w))

/-- The meaning of SHFLU (R122). -/
def execShflu (x : Arith) (s : State) : Host.Outcome State Fault Refusal :=
  s.plain false noCheck (arithUses x.d [x.a, x.b]) fun i => i.shuffle x fun sb _ k b => if b ≤ k then sb + k - b else sb + k

/-- The meaning of SHFLD (R122). -/
def execShfld (x : Arith) (s : State) : Host.Outcome State Fault Refusal :=
  s.plain false noCheck (arithUses x.d [x.a, x.b]) fun i =>
    i.shuffle x fun sb w k b => if k + b < w then sb + k + b else sb + k

/-- The meaning of BCAST (R123): b is read as on the scalar pipe. -/
def execBcast (x : Arith) (s : State) : Host.Outcome State Fault Refusal :=
  s.plain false noCheck (arithUses x.d [x.a, x.b]) fun i =>
    i.cross x.d fun _ => (i.rd x.a ((i.rds x.b).toNat % 32)).toNat

/-- The meaning of VOTE (R124). -/
def execVote (x : Arith) (s : State) : Host.Outcome State Fault Refusal :=
  s.plain false noCheck (arithUses x.d [x.a]) fun i =>
    let ls := i.acts
    let a (l : Nat) : Word := i.rd x.a l
    i.cross x.d fun _ =>
      match x.sub.toNat with
      | 0 => boolNat (ls.any fun l => a l != 0)
      | 1 => boolNat (ls.all fun l => a l != 0)
      | 2 => (maskOf fun l => i.active.getLsbD l && a l != 0).toNat
      | _ => boolNat (ls.all fun l => ls.all fun k => a l == a k)

/-- One combination of REDUCE and SCAN (R125) with its flags. -/
def Issuer.combine (i : Issuer) (x : Arith) (a b : Word) : Word × BitVec 5 :=
  match x.sub.toNat with
  | 0 => (reduceInt 32 (i.sat x.sat) (a.toInt + b.toInt), 0)
  | 1 => (if b.slt a then b else a, 0)
  | 2 => (if a.slt b then b else a, 0)
  | 3 => (a &&& b, 0)
  | 4 => (a ||| b, 0)
  | 5 => w32 (fp32.add (i.round x.rnd) i.ftz (fp32.read i.ftz a.toNat) (fp32.read i.ftz b.toNat))
  | 6 => w32 (fp32.minmax false i.ftz a.toNat b.toNat)
  | _ => w32 (fp32.minmax true i.ftz a.toNat b.toNat)

/-- A value as REDUCE and SCAN deliver it: under the floating-point operations a NaN is canonical (R74), and a lone operand that
FTZ reads as zero is that zero (R88); no flag is set. -/
def Issuer.deliver (i : Issuer) (x : Arith) (v : Word) : Word :=
  if x.sub.toNat < 5 then v
  else
    let c := fp32.flush i.ftz v.toNat
    BitVec.ofNat 32 (if (fp32.decode c).isNan then fp32.nan else c)

/-- Two entries of the tree, either of which may be absent (R126). -/
def Issuer.join (i : Issuer) (x : Arith) (a b : Option (Word × BitVec 5)) : Option (Word × BitVec 5) :=
  match a, b with
  | some a, some b => let r := i.combine x a.1 b.1; some (r.1, a.2 ||| b.2 ||| r.2)
  | some a, none => some a
  | none, b => b

/-- One level of the tree: neighbours joined (R126). -/
def Issuer.level (i : Issuer) (x : Arith) : List (Option (Word × BitVec 5)) → List (Option (Word × BitVec 5))
  | a :: b :: r => i.join x a b :: Issuer.level i x r
  | l => l

/-- The result of the tree over the participating lanes (R126). -/
def Issuer.tree (i : Issuer) (x : Arith) : Option (Word × BitVec 5) :=
  let t0 := (List.range 32).map fun l => if i.active.getLsbD l then some (i.rd x.a l, (0 : BitVec 5)) else none
  (((i.level x (i.level x (i.level x (i.level x (i.level x t0)))))[0]?).getD none).map fun r => (i.deliver x r.1, r.2)

/-- The meaning of REDUCE (R126). -/
def execReduce (x : Arith) (s : State) : Host.Outcome State Fault Refusal :=
  s.plain false noCheck (arithUses x.d [x.a]) fun i =>
    match x.d, i.tree x with
    | .v n, some r => ⟨i.vec n.val fun _ => r.1, [], r.2⟩
    | _, _ => .none

/-- The prefixes of SCAN in ascending lane order (R126): lane, value, and the flags joined. -/
def Issuer.scan (i : Issuer) (x : Arith) : List Nat → Option Word → BitVec 5 → List (Nat × Word) × BitVec 5
  | [], _, fl => ([], fl)
  | l :: r, acc, fl =>
    let y := match acc with
      | some a => i.combine x a (i.rd x.a l)
      | none => (i.rd x.a l, 0)
    let t := Issuer.scan i x r (some y.1) (fl ||| y.2)
    ((l, i.deliver x y.1) :: t.1, t.2)

/-- The meaning of SCAN (R126). -/
def execScan (x : Arith) (s : State) : Host.Outcome State Fault Refusal :=
  s.plain false noCheck (arithUses x.d [x.a]) fun i =>
    match x.d with
    | .v n =>
      let r := i.scan x i.acts none 0
      ⟨r.1.map fun e => (32 * n.val + e.1, e.2), [], r.2⟩
    | _ => .none

/-- The meaning of VCONF (R127). -/
def execVconf (x : Arith) (s : State) : Host.Outcome State Fault Refusal :=
  s.plain false noCheck (arithUses x.d [x.a]) fun i =>
    i.cross x.d fun l =>
      let m := (maskOf fun k => i.active.getLsbD k && k < l && i.rd x.a k == i.rd x.a l).toNat
      if m = 0 then 2 ^ 31 else m

/-- The meaning of VISECT (R128). -/
def execVisect (x : Arith) (s : State) : Host.Outcome State Fault Refusal :=
  s.plain false noCheck (arithUses x.d [x.a, x.b]) fun i =>
    i.cross x.d fun l =>
      if x.sub = 0 then (i.acts.find? fun k => i.rd x.b k == i.rd x.a l).getD 32
      else (i.acts.filter fun k => (i.rd x.b k).ult (i.rd x.a l)).length

/-- A token's slot in a page (R129). -/
def kvSlot (a b : Word) : Word :=
  let j := a.toNat % 16
  let m := b.toNat % 2 ^ 16
  BitVec.ofNat 32 (popCount (m % 2 ^ j) 16 + if m.testBit j then 0 else 2 ^ 31)

/-- The meaning of KVSLOT (R129). -/
def execKvslot (x : Arith) (s : State) : Host.Outcome State Fault Refusal :=
  s.plain false noCheck (arithUses x.d [x.a, x.b]) fun i =>
    i.put x.d (fun l => kvSlot (i.rd x.a l) (i.rd x.b l)) fun _ =>
      (kvSlot ((i.rds x.a).setWidth 32) ((i.rds x.b).setWidth 32)).setWidth 64

end Sys2Proof.Machine
end

