-- ==== Sys2Proof/Machine/Halves.lean ====
section
/-! DEFINITION. Pair words (R62 to R65): two halves that read before either writes, in one issue slot. -/
namespace Sys2Proof.Machine

/-- The full word that a half stands for (R64): D = d, A = d, B = s; MOV reads s. -/
def halfArith (h : HalfArgs) (a b : Operand) : Arith := ⟨h.d, a, b, .zero, h.rnd, false, 0, 0, 0, 0⟩

/-- A CVT half (R65): the code converted with CVT's rules, the other bits zero. -/
def cvtHalf (df sf : Nat) (h : HalfArgs) (i : Issuer) : Res :=
  let go (a : Nat) : Word × BitVec 5 := w32 (convert df sf (i.round h.rnd) i.ftz false (a % 2 ^ codeBits sf))
  i.putF h.d (fun l => go (i.rd h.s l).toNat) fun _ => go (i.rds h.s).toNat

/-- What one half computes from the registers as they stand before the pair (R64, R65). -/
def halfRes (h : Half) (i : Issuer) : Res :=
  let x := halfArith h.args h.args.d h.args.s
  match h.op with
  | .iadd => resIadd x i
  | .isub => resIsub x i
  | .imul => resImul x i
  | .imin => resImin x i
  | .imax => resImax x i
  | .and => resAnd x i
  | .or => resOr x i
  | .xor => resXor x i
  | .shl => resShl x i
  | .shr => resShr x i
  | .sra => resSra x i
  | .mov => resMov (halfArith h.args h.args.s .zero) i
  | .fadd => resFadd x i
  | .fsub => resFsub x i
  | .fmul => resFmul x i
  | .fmin => resFmin x i
  | .fmax => resFmax x i
  | .hadd2 => resHadd2 x i
  | .hmul2 => resHmul2 x i
  | .hmax2 => resHmax2 x i
  | .cvtBf16F32 => cvtHalf 0x2 0x1 h.args i
  | .cvtF32Bf16 => cvtHalf 0x1 0x2 h.args i

/-- The uses of a half: its destination, which is also its first source, and its second source. -/
def halfUses (h : Half) : List Use := [Use.w h.args.d, Use.r h.args.s]

/-- A pair on a gang (R64): both results are computed from the same view; no bank core accepts a pair (R72). -/
def State.pair (s : State) (x y : Half) : Host.Outcome State Fault Refusal :=
  match s.issue with
  | .none => .fault .noIssuer
  | .gang g G _ i =>
    .next (match usesCheck (halfUses x ++ halfUses y) i with
      | some c => s.wordTrap g G i c
      | none =>
        if G.interlocked (halfUses x ++ halfUses y) then s.stall g
        else
          let a := halfRes x i
          let b := halfRes y i
          s.finish g G i true ⟨a.vw ++ b.vw, a.sw ++ b.sw, a.flags ||| b.flags⟩)
  | .bank b _ i => .next (s.abortKernel b .illop i.pc.toNat)

/-- The meaning of the pair whose slot A is the half IADD (R65). -/
def execIaddHalf (x : HalfArgs) (y : Half) (s : State) : Host.Outcome State Fault Refusal := s.pair ⟨.iadd, x⟩ y

/-- The meaning of the pair whose slot A is the half ISUB (R65). -/
def execIsubHalf (x : HalfArgs) (y : Half) (s : State) : Host.Outcome State Fault Refusal := s.pair ⟨.isub, x⟩ y

/-- The meaning of the pair whose slot A is the half IMUL (R65). -/
def execImulHalf (x : HalfArgs) (y : Half) (s : State) : Host.Outcome State Fault Refusal := s.pair ⟨.imul, x⟩ y

/-- The meaning of the pair whose slot A is the half IMIN (R65). -/
def execIminHalf (x : HalfArgs) (y : Half) (s : State) : Host.Outcome State Fault Refusal := s.pair ⟨.imin, x⟩ y

/-- The meaning of the pair whose slot A is the half IMAX (R65). -/
def execImaxHalf (x : HalfArgs) (y : Half) (s : State) : Host.Outcome State Fault Refusal := s.pair ⟨.imax, x⟩ y

/-- The meaning of the pair whose slot A is the half AND (R65). -/
def execAndHalf (x : HalfArgs) (y : Half) (s : State) : Host.Outcome State Fault Refusal := s.pair ⟨.and, x⟩ y

/-- The meaning of the pair whose slot A is the half OR (R65). -/
def execOrHalf (x : HalfArgs) (y : Half) (s : State) : Host.Outcome State Fault Refusal := s.pair ⟨.or, x⟩ y

/-- The meaning of the pair whose slot A is the half XOR (R65). -/
def execXorHalf (x : HalfArgs) (y : Half) (s : State) : Host.Outcome State Fault Refusal := s.pair ⟨.xor, x⟩ y

/-- The meaning of the pair whose slot A is the half SHL (R65). -/
def execShlHalf (x : HalfArgs) (y : Half) (s : State) : Host.Outcome State Fault Refusal := s.pair ⟨.shl, x⟩ y

/-- The meaning of the pair whose slot A is the half SHR (R65). -/
def execShrHalf (x : HalfArgs) (y : Half) (s : State) : Host.Outcome State Fault Refusal := s.pair ⟨.shr, x⟩ y

/-- The meaning of the pair whose slot A is the half SRA (R65). -/
def execSraHalf (x : HalfArgs) (y : Half) (s : State) : Host.Outcome State Fault Refusal := s.pair ⟨.sra, x⟩ y

/-- The meaning of the pair whose slot A is the half MOV (R65). -/
def execMovHalf (x : HalfArgs) (y : Half) (s : State) : Host.Outcome State Fault Refusal := s.pair ⟨.mov, x⟩ y

/-- The meaning of the pair whose slot A is the half FADD (R65). -/
def execFaddHalf (x : HalfArgs) (y : Half) (s : State) : Host.Outcome State Fault Refusal := s.pair ⟨.fadd, x⟩ y

/-- The meaning of the pair whose slot A is the half FSUB (R65). -/
def execFsubHalf (x : HalfArgs) (y : Half) (s : State) : Host.Outcome State Fault Refusal := s.pair ⟨.fsub, x⟩ y

/-- The meaning of the pair whose slot A is the half FMUL (R65). -/
def execFmulHalf (x : HalfArgs) (y : Half) (s : State) : Host.Outcome State Fault Refusal := s.pair ⟨.fmul, x⟩ y

/-- The meaning of the pair whose slot A is the half FMIN (R65). -/
def execFminHalf (x : HalfArgs) (y : Half) (s : State) : Host.Outcome State Fault Refusal := s.pair ⟨.fmin, x⟩ y

/-- The meaning of the pair whose slot A is the half FMAX (R65). -/
def execFmaxHalf (x : HalfArgs) (y : Half) (s : State) : Host.Outcome State Fault Refusal := s.pair ⟨.fmax, x⟩ y

/-- The meaning of the pair whose slot A is the half HADD2 (R65). -/
def execHadd2Half (x : HalfArgs) (y : Half) (s : State) : Host.Outcome State Fault Refusal := s.pair ⟨.hadd2, x⟩ y

/-- The meaning of the pair whose slot A is the half HMUL2 (R65). -/
def execHmul2Half (x : HalfArgs) (y : Half) (s : State) : Host.Outcome State Fault Refusal := s.pair ⟨.hmul2, x⟩ y

/-- The meaning of the pair whose slot A is the half HMAX2 (R65). -/
def execHmax2Half (x : HalfArgs) (y : Half) (s : State) : Host.Outcome State Fault Refusal := s.pair ⟨.hmax2, x⟩ y

/-- The meaning of the pair whose slot A is the half CVT.BF16.F32 (R65). -/
def execCvtBf16F32Half (x : HalfArgs) (y : Half) (s : State) : Host.Outcome State Fault Refusal := s.pair ⟨.cvtBf16F32, x⟩ y

/-- The meaning of the pair whose slot A is the half CVT.F32.BF16 (R65). -/
def execCvtF32Bf16Half (x : HalfArgs) (y : Half) (s : State) : Host.Outcome State Fault Refusal := s.pair ⟨.cvtF32Bf16, x⟩ y

end Sys2Proof.Machine
end

