-- ==== Sys2Proof/Machine/Page.lean ====
section
/-! DEFINITION. Translation registers and page-table maintenance: XLATE, PGMAP, PGINV, PGATTR, LINECLR (R175, R177, R221,
R240, R246 to R249). -/
namespace Sys2Proof.Machine

/-! ### XLATE -/

/-- The pages that follow one, as long as they continue it (R175): each valid, with the same attributes, its frame next; with the
end, and the malformed entry at which the walk stopped. -/
def State.extend (s : State) (c : Accessor) (l : Leaf) (disc : Bool) (stop : Nat) :
    Nat → Nat → Nat → List (Nat × Leaf) × Nat × Option Nat × State
  | 0, va, _ => ([], va, none, s)
  | n + 1, va, frame =>
    if stop ≤ va || crewBase ≤ va then ([], va, none, s)
    else match s.translate c.p c.ctx va with
      | (.leaf k, s) =>
        if va % k.size = 0 && k.frame = frame && k.write = l.write && k.exec = l.exec && k.mapped = l.mapped && k.tier = l.tier
           && k.hint = l.hint && leafDiscard s.mem k = disc then
          let (r, e, w, s) := State.extend s c l disc stop n (va + k.size) (frame + k.size)
          ((va, k.recorded s.mem) :: r, e, w, s)
        else ([], va, none, s)
      | (.malformed pte, s) => ([], va, some pte, s)
      | (.invalid _ _, s) => ([], va, none, s)

/-- The translation register that XLATE makes of an address that passes check 1 (R175, R240), and a malformed entry that its walks
met. The bound of BASE + 32 MiB holds inside the page of BASE too, where that has 1 GiB, by the model's reading of R175 (DESIGN CHOICE:
notes/assumptions 64). -/
def State.xlateOf (s : State) (c : Accessor) (va : Nat) : Xt × Option Nat × State :=
  let base := BitVec.ofNat 64 va
  let empty : Xt := ⟨true, base, va, base, [], false⟩
  if inCrew va then
    match s.crewMember c.grp va, s.groups[c.grp]? with
    | some (m, off), some gr =>
      let first := va - off
      (⟨true, base, Config.scratchBase m + off, BitVec.ofNat 64 (first + gr.scratch), [(first, crewLeaf m)], false⟩, none, s)
    | _, _ => (empty, none, s)
  else match s.translate c.p c.ctx va with
    | (.leaf l, s) =>
      let page := va / l.size * l.size
      let stop := va + 2 ^ 25
      let (r, e, w, s) := s.extend c l (leafDiscard s.mem l) stop 512 (page + l.size) (l.frame + l.size)
      (⟨true, base, l.frame + (va - page), BitVec.ofNat 64 (min e stop), (page, l.recorded s.mem) :: r, false⟩, w, s)
    | (.malformed pte, s) => (empty, some pte, s)
    | (.invalid _ _, s) => (empty, none, s)

/-- A translation register written (R22, R221): in the tail's own view, logged, or in the group. -/
def State.putXt (s : State) (g n : Nat) (x : Xt) : State :=
  match s.gangs[g]? with
  | none => s
  | some G =>
    match (G.logReg (.xt n)).tail with
    | some t => s.updGang g fun _ => { G.logReg (.xt n) with tail := some { t with xts := (n, x) :: t.xts.filter (·.1 != n) } }
    | none => s.updGroup G.grp fun gr => { gr with xt := updAt gr.xt n fun _ => x }

/-- The meaning of XLATE (R240); the access flags of its PROT are free (notes/assumptions 4). -/
def execXlate (x : XlateArgs) (s : State) : Host.Outcome State Fault Refusal :=
  let us := [Use.r x.a]
  s.onGang (usesCheck us) us fun g G gr i =>
    let va := (i.rds x.a).toNat
    s.speculate g G i.pc false ⟨[.xt x.n.val], [], []⟩ fun s =>
      if !s.check1 G.grp va then
        let (n, s) := s.drawNat
        s.conclude g i.frag (some (onceFail i .prot (n % 16)))
      else
        let (t, w, s) := s.xlateOf ⟨G.part, gr.ctx, G.grp, false, false⟩ va
        let s := match w with | some pte => s.noteWalk g pte | none => s
        (s.putXt g x.n.val t).goOn g i

/-! ### PGMAP -/

/-- A range of memory filled with zeros as one write event (R185, R246): poison goes, tails that read it shed, and the copies in the L1s
are invalidated, with the tiles of which they are a part (R265), each counted (R378). -/
def State.zeroFill (s : State) (a n : Nat) : State :=
  let inside (w : Nat) : Bool := a ≤ 4 * w && 4 * w < a + n
  let goes (c : CacheLine) : Bool := inside (32 * c.line) || match c.hdr with | some h => inside (h / 4) | none => false
  let old := (((s.mem.filter fun e => a ≤ e.1 && e.1 < a + n).map fun e => e.1 / 4).eraseDups).map fun w =>
    (4 * w, BitVec.ofNat 32 (memNat s.mem (4 * w) 4), s.stamp)
  { s with
    mem := stClear (w := 8) s.mem a (a + n)
    stamp := s.stamp + 1
    poison := s.poison.filter fun w => !inside w
    owner := s.owner.filter fun e => !inside e.1
    l1 := s.l1.filter fun c => !goes c
    slices := ((s.l1.filter goes).foldl (fun s c => s.countSlice (homeSlice (128 * c.line) (c.unit / 96)) 0x42 1) s).slices
    codeOld := s.codeOld ++ old
    gangs := s.gangs.map fun g => match g.tail with
      | some t => if t.reads.any inside then { g with tail := some { t with conflict := true } } else g
      | none => g }

/-- The first-touch entry that maps an address, where PGMAP may use it (R246): its physical address and its word 0. -/
def State.pgmapEntry (s : State) (ctx va : Nat) : Option (Nat × Nat) :=
  if crewBase ≤ va then none
  else match walkVa s.mem (s.ctx ctx).root va with
    | .invalid 0 pte =>
      let e := memNat s.mem pte 8
      if !bitOf (s.ctx ctx).framepool.toNat 0 || !bitOf e 9 || bitsOf e 15 14 != 0 || bitOf e 7 || 1 < bitsOf e 11 10 then none
      else some (pte, e)
    | _ => none

/-- Where the frame pool of a context keeps its count for a tier; the array's address stands 8 bytes on (R246). -/
def State.poolCount (s : State) (ctx tier : Nat) : Nat := bitsOf (s.ctx ctx).framepool.toNat 51 6 * 64 + 16 * tier

/-- PGMAP's effect (R246), which the cluster stage shares (R362): the frame given to the page that holds `va`, 0 where
there is none. The spec does not say what poison in the pool header, the array word or the entry does to it: the bytes count as they
stand (DESIGN CHOICE: notes/assumptions 62). -/
def State.pgmap (s : State) (ctx va : Nat) : Nat × State :=
  match s.pgmapEntry ctx va with
  | none => (0, s)
  | some (pte, e) =>
    let c := s.poolCount ctx (bitsOf e 11 10)
    let n := memNat s.mem c 4
    if n = 0 then (0, s)
    else
      let f := memNat s.mem (memNat s.mem (c + 8) 8 + 8 * (n - 1)) 8
      let s := s.writeNat none none c 4 (n - 1)
      let s := s.zeroFill f 65536
      let e' := bitsOf e 63 52 * 2 ^ 52 + bitsOf f 51 16 * 2 ^ 16 + bitsOf e 15 10 * 2 ^ 10 + bitsOf e 8 1 * 2 + 1
      (f, s.writeNat none none pte 8 e')

/-- Whether the memory that PGMAP's effect reads or writes is held or not ready (R348, R375): its pool, frame and entry. -/
def State.pgmapHeld (s : State) (ctx va : Nat) : Bool :=
  match s.pgmapEntry ctx va with
  | none => false
  | some (pte, e) =>
    let c := s.poolCount ctx (bitsOf e 11 10)
    let n := memNat s.mem c 4
    let slot := memNat s.mem (c + 8) 8 + 8 * (n - 1)
    s.held c 16 || (n != 0 && (s.held slot 8 || s.held (memNat s.mem slot 8) 65536 || s.held pte 8))

/-- A malformed entry that a maintenance instruction's walk met is recorded (R173). -/
def State.logMaint (s : State) (G : Gang) (gr : Group) (w : Walk) : State :=
  match w with
  | .malformed pte => s.recordWalk G.part gr.ctx G.grp pte
  | _ => s

/-- A scalar result of a privileged instruction. -/
def scalarRes (d : Operand) (v : Nat) : Res :=
  match d with
  | .s n => ⟨[], [(n.val, BitVec.ofNat 64 v)], 0⟩
  | _ => .none

/-- A privileged instruction ends with its scalar result. -/
def State.answer (s : State) (g : Nat) (i : Issuer) (d : Operand) (v : Nat) : State :=
  s.updGang g fun G => (G.commitRes (scalarRes d v)).advance i.frag

/-- The meaning of PGMAP (R246). -/
def execPgmap (x : Ops2) (s : State) : Host.Outcome State Fault Refusal :=
  let us := [Use.w x.x, Use.r x.y]
  s.onGang (privCheck us) us fun g G gr i =>
    s.irrevocable g G fun s =>
      let va := (i.rds x.y).toNat
      let (w, s) := if crewBase ≤ va then (Walk.invalid 0 0, s) else s.walk gr.ctx va
      if s.pgmapHeld gr.ctx va then none
      else
        let (f, s) := (s.logMaint G gr w).pgmap gr.ctx va
        some (s.answer g i x.x f)

/-! ### PGINV -/

/-- Whether a page overlaps an invalidated range. -/
def overlaps (lo hi page size : Nat) : Bool := page < hi && lo < page + size

/-- The range of PGINV (R247): everything when the length is 0. -/
def invRange (a b : Nat) : Nat × Nat := if b = 0 then (0, 2 ^ 65) else (a, a + b)

/-- Whether an element performs through an invalidated entry (R247). -/
def Elem.through (lo hi : Nat) : Elem → Bool
  | .red _ (some x) _ => !x.leaf.crew && overlaps lo hi (x.va / x.leaf.size * x.leaf.size) x.leaf.size
  | .merge _ (some x) _ _ _ => !x.leaf.crew && overlaps lo hi (x.va / x.leaf.size * x.leaf.size) x.leaf.size
  | _ => false

/-- Whether an operation in flight was translated through an invalidated entry (R243, R247). -/
def AsyncOp.through (o : AsyncOp) (lo hi : Nat) : Bool :=
  match o.kind with
  | .red _ _ | .smrg => o.elems.any (Elem.through lo hi)
  | _ => (o.busy || !o.elems.isEmpty) && o.pages.any fun e => !e.2.crew && overlaps lo hi e.1 e.2.size

/-- Whether PGINV of a range must still wait (R247). -/
def State.invBusy (s : State) (ctx lo hi : Nat) : Bool := s.ops.any fun o => o.ctx = ctx && o.through lo hi

/-- A translation register as PGINV marks it (R177). -/
def Xt.inval (x : Xt) (lo hi : Nat) : Xt :=
  if x.valid && x.base.toNat < hi && lo < x.limit.toNat then { x with stale := true } else x

/-- Whether PGINV sheds a tail (R213, R221). -/
def Tail.hit (t : Tail) (lo hi : Nat) : Bool :=
  t.pages.any (fun e => overlaps lo hi e.1 e.2) || t.xts.any fun e => (e.2.inval lo hi).stale && !e.2.stale

/-- PGINV's effect (R177, R213, R247). -/
def State.pginv (s : State) (ctx lo hi : Nat) : State :=
  let s := { s with
    tlb := s.tlb.filter fun e => !(e.ctx = ctx && overlaps lo hi e.page e.leaf.size)
    groups := s.groups.map fun gr => if gr.ctx = ctx then { gr with xt := gr.xt.map fun x => x.inval lo hi } else gr }
  (List.range s.gangs.length).foldl (fun s g =>
    match s.gangs[g]? with
    | some G => if s.ctxOf G.grp = ctx && (match G.tail with | some t => t.hit lo hi | none => false) then s.shed g false else s
    | none => s) s

/-- The meaning of PGINV (R247). -/
def execPginv (x : Ops2) (s : State) : Host.Outcome State Fault Refusal :=
  let us := [Use.r x.x, Use.r x.y]
  s.onGang (privCheck us) us fun g G gr i =>
    s.irrevocable g G fun s =>
      let (lo, hi) := invRange (i.rds x.x).toNat (i.rds x.y).toNat
      if s.invBusy gr.ctx lo hi then none else some ((s.pginv gr.ctx lo hi).goOn g i)

/-! ### PGATTR -/

/-- The bits of word 0 that PGATTR replaces (R248): HINT, FIRST, DISCARD, MAPPED, EXEC, WRITE. -/
def attrMask : Nat := 0x338C

/-- The tiles of a mapped page. -/
def tilesOfLeaf (l : Leaf) : List Tile := (List.range (l.size / 256)).map fun k => ⟨l.frame + 256 * k, l.hframe + 32 * k, l⟩

/-- The record of a tile that is left as it stands (R248, R270; UNIT the home slice, for a core of die `die`). -/
def State.logTile (s : State) (ctx node : Nat) (c : Cause) (pa : Nat) (die : Nat := 0) : State :=
  s.logErr ctx 4 c 0 (unitCode 1 (homeSlice pa die)) pa node

/-- Whether a payload word of a tile is poisoned. -/
def State.payloadPoisoned (s : State) (t : Tile) : Bool := (List.range 64).any fun k => s.isPoisoned (t.pa / 4 + k)

/-- A tile as PGATTR of a core of die `die` leaves it when MAPPED clears (R248). -/
def State.unmapTile (s : State) (ctx node : Nat) (t : Tile) (die : Nat := 0) : State :=
  if leafDiscard s.mem t.leaf then s
  else if s.hdrPoisoned t then s.logTile ctx node .poison t.pa die
  else if hdrMalformed (s.tileHdr t) then s.logTile ctx node .prot t.pa die
  else if (Hdr.ofNat (s.tileHdr t)).ident then s
  else if s.payloadPoisoned t then s.logTile ctx node .poison t.pa die
  else
    let (bad, s) := s.farReads (if t.leaf.tier = 2 && !(Hdr.ofNat (s.tileHdr t)).filled then (List.range 64).map fun k => t.pa / 4 + k else [])
    if bad then s.logTile ctx node .poison t.pa die else s.materialise none t die

/-- A header reset when MAPPED sets (R248). -/
def State.mapTile (s : State) (t : Tile) : State := s.putHdr t (Hdr.identity 1 0)

/-- The meaning of PGATTR (R248). -/
def execPgattr (x : Ops3) (s : State) : Host.Outcome State Fault Refusal :=
  let us := [Use.w x.d, Use.r x.a, Use.r x.b]
  s.onGang (privCheck us) us fun g G gr i =>
    s.irrevocable g G fun s =>
      let va := (i.rds x.a).toNat
      if crewBase ≤ va then some (s.answer g i x.d 0)
      else match s.walk gr.ctx va with
        | (.leaf l, s) =>
          let page := va / l.size * l.size
          let b := (i.rds x.b).toNat
          let flips := bitOf b 7 != l.mapped
          if s.invBusy gr.ctx page (page + l.size) || (flips && (s.held l.frame l.size || s.held l.hframe (l.size / 8))) || s.held l.pte 8 then none
          else
            let node := s.nodeAddr G.grp
            let s := if !flips then s
              else if l.mapped then (tilesOfLeaf l).foldl (fun s t => s.unmapTile gr.ctx node t (dieOf G.core)) s
              else (tilesOfLeaf l).foldl State.mapTile s
            let e := memNat s.mem l.pte 8
            let s := s.writeNat none none l.pte 8 ((e - (e &&& attrMask)) + (b &&& attrMask))
            some ((s.pginv gr.ctx page (page + l.size)).answer g i x.d 1)
        | (w, s) => some ((s.logMaint G gr w).answer g i x.d 0)

/-! ### LINECLR -/

/-- A window copy of a line made zero and clean. -/
def WinCopy.zeroed (c : WinCopy) : WinCopy := { c with data := [], dirty := 0, bad := 0 }

/-- A line of zeros at its home slice and in memory, and in a window in the issuing core's own L1 (R249). -/
def State.clearLine (s : State) (l : Leaf) (core line : Nat) (window : Bool) : State :=
  let zeros := (List.range 128).map fun k => (128 * line + k, (0 : Byte))
  let s := if window then
      { s with
        l1win := updCopy s.l1win core line WinCopy.zeroed
        l2win := updCopy s.l2win (homeSlice (128 * line) (dieOf core)) line WinCopy.zeroed }
    else s
  if l.mapped then
    let t := tileOf l (128 * line)
    let h := Hdr.ofNat (s.tileHdr t)
    let h' := Hdr.identity (if 1 ≤ h.efmt && h.efmt ≤ 4 then h.efmt else 1) (h.seq + 1)
    if isFar (128 * line) then (s.putHdr t h').farWrite zeros
    else (s.writeMem none none (zeros ++ t.hdrBytes h')).own none t.words
  else if isFar (128 * line) then s.farWrite zeros
  else s.writeMem none none zeros

/-- The meaning of LINECLR (R249). R249 names no window rule, so that it acts on a TIER 2 page outside every window too, where R178 lets no
access reach it (DESIGN CHOICE: notes/assumptions 64). -/
def execLineclr (x : Ops2) (s : State) : Host.Outcome State Fault Refusal :=
  let us := [Use.w x.x, Use.r x.y]
  s.onGang (privCheck us) us fun g G gr i =>
    s.irrevocable g G fun s =>
      let va := (i.rds x.y).toNat
      if crewBase ≤ va then some (s.answer g i x.x 0)
      else match s.translate G.part gr.ctx va with
        | (.leaf l, s) =>
          let pa := l.frame + va % l.size
          if !l.write || (paTier pa).isNone then some (s.answer g i x.x 0)
          else if s.engineHeld l (pa / 128 * 128) 128 then none
          else
            let s := s.revive l
            some ((s.clearLine l G.core (pa / 128) ((s.ctx gr.ctx).inWindow va)).answer g i x.x 1)
        | (w, s) => some ((s.logMaint G gr w).answer g i x.x 0)

end Sys2Proof.Machine
end

