-- ==== Sys2Proof/Machine/Matrix.lean ====
section
/-! DEFINITION. The matrix unit of a partition (R92 to R97, R287 to R313): issue into its queue, the accumulators, block
sums, drains, deferred traps and the watchdog. -/
namespace Sys2Proof.Machine

/-! ### Arithmetic of the array -/

/-- The exact sum of signed magnitudes as one value; an exact zero is +0. -/
def exactSum (ts : List (Bool × Nat × Int)) : FVal :=
  let lo := ts.foldl (fun (a : Option Int) t => match a with | none => some t.2.2 | some e => some (min e t.2.2)) none
  match lo with
  | none => .fin false 0 0
  | some e =>
    let t : Int := ts.foldl (fun n t => let m : Int := (t.2.1 <<< (t.2.2 - e).toNat : Nat); n + if t.1 then -m else m) 0
    .fin (decide (t < 0)) t.natAbs e

/-- The nonzero finite values of a list as sign, magnitude and exponent. -/
def finTerms (ps : List FVal) : List (Bool × Nat × Int) :=
  ps.filterMap fun p => match p with | .fin n m e => if m = 0 then none else some (n, m, e) | _ => none

/-- The block value of R93 from the products: each kept down to 32 bits below the leading bit of the largest. -/
def truncSum (ps : List FVal) : FVal :=
  if ps.any FVal.isNan || (ps.contains (.inf false) && ps.contains (.inf true)) then .nan false
  else if ps.contains (.inf false) then .inf false
  else if ps.contains (.inf true) then .inf true
  else
    let ts := finTerms ps
    match ts.map fun t => (t.2.1.log2 : Int) + t.2.2 with
    | [] => .fin false 0 0
    | e :: es =>
      let q := es.foldl max e - 32
      exactSum (ts.map fun t => (t.1, (roundUnits 1 false t.2.1 t.2.2 q false).1, q))

/-- A product of two operand values, a NaN where it is invalid (R93). -/
def prodVal (x y : FVal) : FVal := (x.mul y).getD (.nan false)

/-- The block value of 32 pairs of operand values (R92, R93). -/
def pairsValue (fmt : Nat) (xs ys : List FVal) : FVal :=
  let ps := List.zipWith prodVal xs ys
  if fmt = 5 || fmt = 6 then (if ps.any FVal.isNan then .nan false else exactSum (finTerms ps)) else truncSum ps

/-- A KA26 value in its 32-bit placement (R80) plus a block value, rounded once (R94). -/
def kaAdd (ka : Word) (v : FVal) : Word := BitVec.ofNat 32 (64 * (ka26.add 0 false (ka26.decode (ka.toNat / 64)) v).1)

/-- A partial after promotion (R94). -/
def promoted (part ka : Word) : Word := BitVec.ofNat 32 (fp32.add 0 false (fp32.decode part.toNat) (fp32.decode ka.toNat)).1

/-- Every element of an accumulator promoted (R94). -/
def Acc.promote (a : Acc) : Acc :=
  { a with part := stSparse (List.zipWith promoted (stDense a.part 0 4096) (stDense a.ka 0 4096)) 0, ka := [], n := 0 }

/-- One block step of R306: every element takes its block value, and a promotion follows at n = P. -/
def Acc.block (a : Acc) (v : Nat → Nat → FVal) : Acc :=
  let ka := (List.range 4096).zipWith (fun k x => kaAdd x (v (k / 64) (k % 64))) (stDense a.ka 0 4096)
  let a := { a with ka := stSparse ka 0, n := a.n + 1 }
  if a.n = a.p then a.promote else a

/-- An output element of a drain (R95): the partial times the tensor scale. -/
def drained (q : Nat) (part : Word) : Nat := (fp32.mulR 0 false (fp32.decode part.toNat) (fp32.decode q)).1

/-- The product of two tensor scales (R95). -/
def tensorScale (sa sb : Nat) : Nat :=
  (fp32.mulR 0 false (fp32.decode (slotTscale sa)) (fp32.decode (slotTscale sb))).1

/-- The bytes of an ACCST output element, by OFMT (R312). The spec names no rounding mode for the narrowing to KF8 and KF8W of a
drain, which has no RND and ignores MODE.RM (R95, R96): the model takes nearest even (DESIGN CHOICE: notes/assumptions 49). -/
def outBytes (ofmt y : Nat) : List Byte :=
  match ofmt with
  | 0 => leBytes 4 y
  | 1 => leBytes 2 (bf16.put 0 false (fp32.decode y)).1
  | 2 => leBytes 1 (kf8.narrow 0 (fp32.decode y)).1
  | _ => leBytes 1 (kf8w.narrow 0 (fp32.decode y)).1

/-- The bytes of an ACCST element. -/
def outWidth (ofmt : Nat) : Nat := match ofmt with | 0 => 4 | 1 => 2 | _ => 1

/-! ### The unit's state -/

/-- The head of a unit's queue. -/
def State.matHead (s : State) (p : Nat) : Option MatOp := (s.part p).mq.head?

/-- An accumulator of a partition. -/
def State.acc (s : State) (p k : Nat) : Acc := ((s.part p).accs[k]?).getD Acc.zero

/-- One accumulator replaced, with the clk noted as progress of the unit. -/
def State.putAcc (s : State) (p k : Nat) (a : Acc) : State :=
  s.updPart p fun P => { P with accs := updAt P.accs k fun _ => a, progress := s.clock.toNat }

/-- The number of the accumulator that an operation names. -/
def matAcc (x : MatArgs) : Nat := boolNat x.acc

/-- PROMOINT of a gang's group (R289). -/
def State.promoOf (s : State) (g : Nat) : Nat :=
  match s.gangs[g]? with
  | some G => match s.groups[G.grp]? with | some gr => gr.promo | none => 16
  | none => 16

/-- The zero state with an owner (R288). -/
def State.zeroAcc (s : State) (g : Nat) : Acc := { Acc.zero with owner := some g, p := s.promoOf g }

/-- The accumulator an operation acts on (R288): its own, or a free one that it claims; none where another gang owns it. -/
def State.claim (s : State) (p : Nat) (o : MatOp) : Option Acc :=
  let a := s.acc p (matAcc o.args)
  match a.owner with
  | none => some (s.zeroAcc o.gang)
  | some g => if g = o.gang then some a else none

/-- Whether a gang waits for its ACCRD or ACCWR (R287). -/
def State.holding (s : State) (g p : Nat) : Bool := (s.part p).mq.any fun o => o.gang = g && (o.kind = 3 || o.kind = 4)

/-- The clk that an operation occupies the array (R293). -/
def MatOp.clks (o : MatOp) : Nat :=
  let k := 32 * (o.args.kq.toNat + 1)
  match o.kind with
  | 0 => (match slotFmt o.sa with | 2 => 2 * k | 6 => k / 2 | _ => k)
  | 1 => 5 * k / 6
  | 3 => 32
  | 4 => 32
  | 5 => 128
  | _ => 1

/-- The clk of the blocks or rows that an operation did before it ended early (R378): none where it never ran. -/
def MatOp.ranClks (o : MatOp) : Nat :=
  match o.kind with
  | 0 => o.clks * o.kb / (o.args.kq.toNat + 1)
  | 1 => o.clks * o.kb / (o.args.kq.toNat + 1)
  | 5 => o.clks * o.kb / 64
  | _ => 0

/-- The head of a unit's queue ends (R287): it leaves the queue and completes in its class; accumulators of gangs that
ended become free; `clks` are the clk for which it kept the array busy (R378). -/
def State.endMat (s : State) (p : Nat) (o : MatOp) (clks : Nat := o.clks) : State :=
  let s := s.updPart p fun P => { P with mq := P.mq.tail, progress := s.clock.toNat }
  let s := if o.kind = 0 || o.kind = 1 || o.kind = 5 then s.updOp o.op fun x => { x with busy := false } else s
  let ctx := match s.gangs[o.gang]? with | some G => s.ctxOf G.grp | none => 0
  (s.count p ctx 0x20 clks).freeAccs p

/-- A trap of the unit, raised at the gang's next issue (R294), with its record; a gang that ended takes none. Of several that wait,
each issue raises the oldest (DESIGN CHOICE: notes/assumptions 50). -/
def State.defer (s : State) (p g : Nat) (c : Cause) (acc addr : Nat) : State :=
  match s.gangs[g]? with
  | none => s
  | some G =>
    let s := s.logErr (s.ctxOf G.grp) 6 c 1 (unitCode 0 p) addr (s.nodeAddr G.grp)
    if G.stand = .ended then s
    else s.updGang g fun G => { G with deferred := G.deferred ++ [{ TrapInfo.plain c 0 0 0 with info := 1, acc := acc }] }

/-- The slices of a set of lanes. -/
def slicesOf (m : BitVec 32) : BitVec 8 := maskOf8 fun i => m.getLsbD (4 * i)

/-- A held fragment goes on (R287). -/
def State.release (s : State) (o : MatOp) : State :=
  s.updGang o.gang fun G => if G.stand = .ended then G else G.advance (slicesOf o.lanes)

/-- An operation that names another gang's accumulator (R288): precise for ACCRD and ACCWR, deferred for the others. -/
def State.notOwner (s : State) (p : Nat) (o : MatOp) : State :=
  let s := s.endMat p o o.ranClks
  if o.kind = 3 || o.kind = 4 then
    match s.gangs[o.gang]? with
    | some G =>
      if G.stand = .ended then s
      else
        let m := slicesOf o.lanes
        let pc := match G.slices.find? (fun sl => sl.live && m.getLsbD sl.frag) with | some sl => sl.pc | none => 0
        s.fault o.gang { TrapInfo.plain .illop o.lanes m pc with once := true }
    | none => s
  else s.defer p o.gang .illop 0 0

/-! ### Issue -/

/-- Where `n` bytes from an address lie wholly inside the scratchpad of a crew rank (R165, R305): their physical address. -/
def State.crewExtent (s : State) (grp va n : Nat) : Option Nat :=
  if !inCrew va then none
  else match s.crewMember grp va with
    | some (m, off) =>
      match s.groups[m]? with
      | some g => if off + n ≤ g.scratch then some (Config.scratchBase m + off) else none
      | none => none
    | none => none

/-- The slots that MMA accepts (R304). -/
def mmaCheck (x : MatArgs) : WordCheck := fun i =>
  let a := i.slot x.sa.toNat
  let b := i.slot x.sb.toNat
  if 2 ≤ slotFmt a && slotFmt a ≤ 6 && slotFmt b = slotFmt a && slotLayout a = 0 && slotLayout b = 0
     && slotSparse a = 0 && slotSparse b = 0 then none else some .illop

/-- The slots that MMAS accepts (R304). -/
def mmasCheck (x : MatArgs) : WordCheck := fun i =>
  let a := i.slot x.sa.toNat
  let b := i.slot x.sb.toNat
  if (slotFmt a = 3 || slotFmt a = 4) && slotFmt b = slotFmt a && slotLayout a = 0 && slotLayout b = 0
     && slotSparse a = 1 && slotSparse b = 0 then none else some .illop

/-- Twice the bytes of an operand element (R290). -/
def halfBytes (fmt : Nat) : Nat := match fmt with | 2 => 4 | 6 => 1 | _ => 2

/-- The bytes of 64 rows of K elements. -/
def denseBytes (fmt k : Nat) : Nat := 64 * k * halfBytes fmt / 2

/-- The bytes of a sparse A (R290). -/
def sparseBytes (k : Nat) : Nat := 64 * (k / 192) * 128

/-- The scale pairs of an operand (R290, R305): the first address of their range and its bytes. -/
def scaleRange (fmt slot va n : Nat) : Nat × Nat :=
  let o := (va - crewBase) % 2 ^ 21
  let w := 16 * halfBytes fmt
  (slotScales slot + 2 * (o / w), 2 * ((o + n) / w) - 2 * (o / w))

/-- The checks of R305 for operand ranges (address, bytes, slot), in order: the physical addresses and those of the scale
pairs, or the trap. -/
def State.matCheck (s : State) (i : Issuer) (grp acc : Nat) (scaled : Bool) (rs : List (Nat × Nat × Nat)) :
    Except TrapInfo (List (Nat × Nat)) :=
  match rs.find? fun r => r.1 % 128 != 0 with
  | some _ => .error (cmdTrap i .align 0 i.pc)
  | none =>
    match rs.find? fun r => (s.crewExtent grp r.1 r.2.1).isNone with
    | some r => .error (cmdTrap i .prot acc (BitVec.ofNat 64 r.1))
    | none =>
      let scale (r : Nat × Nat × Nat) : Nat × Nat := scaleRange (slotFmt r.2.2) r.2.2 r.1 r.2.1
      match (if scaled then rs else []).find? fun r => (s.crewExtent grp (scale r).1 (scale r).2).isNone with
      | some r => .error (cmdTrap i .prot acc (BitVec.ofNat 64 (scale r).1))
      | none => .ok (rs.map fun r =>
          ((s.crewExtent grp r.1 r.2.1).getD 0, if scaled then (s.crewExtent grp (scale r).1 (scale r).2).getD 0 else 0))

/-- An operation of an instruction that has issued, before its addresses. -/
def matOp (kind g : Nat) (i : Issuer) (x : MatArgs) : MatOp :=
  { kind, gang := g, lanes := i.lanes, active := i.active, op := 0, args := x, kb := 0, a := 0, b := 0, sca := 0, scb := 0,
    sa := i.slot x.sa.toNat, sb := i.slot x.sb.toNat, masks := [], got := [], did := [] }

/-- An operation enters the queue of its partition's unit (R287). -/
def State.enqueue (s : State) (p : Nat) (o : MatOp) : State :=
  s.updPart p fun P =>
    { P with mq := P.mq ++ [o], progress := if P.mq.isEmpty then s.clock.toNat else P.progress }

/-- MMA, MMAS and ACCST issue (R305, R306): their checks, the count in class ts, the queue. -/
def State.matIssue (s : State) (x : MatArgs) (us : List Use) (chk : WordCheck) (kind acc : Nat)
    (ranges : Issuer → List (Nat × Nat × Nat)) : Host.Outcome State Fault Refusal :=
  s.command us 1 chk fun s g G _ i =>
    match s.matCheck i G.grp acc (kind = 0 && 5 ≤ slotFmt (i.slot x.sa.toNat)) (ranges i) with
    | .error t => some (s.fault g t)
    | .ok ps =>
      let o := { matOp kind g i x with
        op := s.nextOp, a := ((ps[0]?).getD (0, 0)).1, sca := ((ps[0]?).getD (0, 0)).2
        b := ((ps[1]?).getD (0, 0)).1, scb := ((ps[1]?).getD (0, 0)).2 }
      some (((s.issueOp g 1 .matrix [] [] true).enqueue G.part o).goOn g i)

/-- The meaning of MMA (R303 to R306). -/
def execMma (x : MatArgs) (s : State) : Host.Outcome State Fault Refusal :=
  let k := 32 * (x.kq.toNat + 1)
  s.matIssue x [Use.r x.d, Use.r x.a] (mmaCheck x) 0 1 fun i =>
    let f := slotFmt (i.slot x.sa.toNat)
    [((i.rds x.d).toNat, denseBytes f k, i.slot x.sa.toNat), ((i.rds x.a).toNat, denseBytes f k, i.slot x.sb.toNat)]

/-- The meaning of MMAS (R303 to R306). -/
def execMmas (x : MatArgs) (s : State) : Host.Outcome State Fault Refusal :=
  let k := 32 * (x.kq.toNat + 1)
  s.matIssue x [Use.r x.d, Use.r x.a] (mmasCheck x) 1 1 fun i =>
    [((i.rds x.d).toNat, sparseBytes k, i.slot x.sa.toNat), ((i.rds x.a).toNat, denseBytes 3 k, i.slot x.sb.toNat)]

/-- The meaning of ACCST (R303 to R305, R312). -/
def execAccst (x : MatArgs) (s : State) : Host.Outcome State Fault Refusal :=
  s.matIssue x [Use.r x.d] noCheck 5 2 fun i => [((i.rds x.d).toNat, 4096 * outWidth x.ofmt.toNat, 0)]

/-- The issue of ACCZ and PROMO (R309): into the queue, in no class. -/
def State.matQueue (s : State) (x : MatArgs) (kind : Nat) : Host.Outcome State Fault Refusal :=
  s.onGang noCheck [] fun g G _ i =>
    s.irrevocable g G fun s => some ((s.enqueue G.part (matOp kind g i x)).goOn g i)

/-- The meaning of ACCZ (R309). -/
def execAccz (x : MatArgs) (s : State) : Host.Outcome State Fault Refusal := s.matQueue x 2

/-- The meaning of PROMO (R309). -/
def execPromo (x : MatArgs) (s : State) : Host.Outcome State Fault Refusal := s.matQueue x 6

/-- The issue of ACCRD and ACCWR (R287, R310, R311): into the queue; the fragment is held there. -/
def State.matHold (s : State) (x : MatArgs) (kind : Nat) (u : Use) : Host.Outcome State Fault Refusal :=
  s.onGang (usesCheck [u]) [u] fun g G _ i =>
    s.irrevocable g G fun s => if s.holding g G.part then none else some (s.enqueue G.part (matOp kind g i x))

/-- The meaning of ACCRD (R303, R310). -/
def execAccrd (x : MatArgs) (s : State) : Host.Outcome State Fault Refusal := s.matHold x 3 ⟨x.d, true, 32, 1, 1, 1⟩

/-- The meaning of ACCWR (R303, R311). -/
def execAccwr (x : MatArgs) (s : State) : Host.Outcome State Fault Refusal := s.matHold x 4 ⟨x.a, false, 32, 1, 1, 1⟩

/-! ### Execution -/

/-- Element `k` of a row of operand elements that starts at a physical address. -/
def operandCode (m : Memory) (fmt base k : Nat) : Nat :=
  match fmt with
  | 2 => memNat m (base + 2 * k) 2
  | 6 => if k % 2 = 0 then memNat m (base + k / 2) 1 % 16 else memNat m (base + k / 2) 1 / 16
  | _ => memNat m (base + k) 1

/-- The 32 values of block `kb` in dense row `r` of an operand (R290, R92, R93): `sc` the address of its first scale pair. -/
def denseBlock (m : Memory) (fmt k base sc r kb : Nat) : List FVal :=
  let row := base + r * (k * halfBytes fmt / 2)
  let codes := (List.range 32).map fun j => operandCode m fmt row (32 * kb + j)
  if 5 ≤ fmt then
    let q := sc + 2 * (r * (k / 32) + kb)
    codes.map fun c => blockValue fmt c (memNat m q 1) (memNat m (q + 1) 1)
  else codes.map (fmtOf fmt).decode

/-- The line of a sparse row that holds dense position `k`, by its number among the lines of the operand (R290). -/
def sparseLine (kk r k : Nat) : Nat := r * (kk / 192) + k / 192

/-- The 32 values of block `kb` in row `r` of a sparse operand (R291): the kept bytes, or +0, by the mask word `mask` that covers
them. -/
def sparseBlock (m : Memory) (fmt base kk r kb mask : Nat) : List FVal :=
  let vals := base + 128 * sparseLine kk r (32 * kb) + 32 + 4 * (32 * kb % 192 / 8)
  (List.range 32).map fun j =>
    let g := mask / 2 ^ (8 * (j / 8)) % 256
    if !bitOf g (j % 8) then .fin false 0 0
    else (fmtOf fmt).decode (memNat m (vals + 4 * (j / 8) + popCount g (j % 8)) 1)

/-- The words that `n` bytes touch. -/
def rangeWords (a n : Nat) : List Nat := if n = 0 then [] else (List.range ((a + n - 1) / 4 - a / 4 + 1)).map (a / 4 + ·)

/-- The words that block `kb` of an operation reads (R306), rows of A first, then columns of B, then scale pairs. -/
def MatOp.words (o : MatOp) (kb : Nat) : List Nat :=
  let f := slotFmt o.sa
  let k := 32 * (o.args.kq.toNat + 1)
  let u := 16 * halfBytes f
  let rows (base : Nat) : List Nat := (List.range 64).flatMap fun r => rangeWords (base + (r * (k / 32) + kb) * u) u
  let scales (base : Nat) : List Nat :=
    if o.kind = 0 && 5 ≤ f then (List.range 64).flatMap fun r => rangeWords (base + 2 * (r * (k / 32) + kb)) 2 else []
  (if o.kind = 1 then (List.range 64).flatMap fun r => rangeWords (o.a + 128 * sparseLine k r (32 * kb) + 32 + 4 * (32 * kb % 192 / 8)) 16
   else rows o.a) ++ rows o.b ++ scales o.sca ++ scales o.scb

/-- The lines of a sparse A (R291). -/
def MatOp.lines (o : MatOp) : List Nat :=
  (List.range (64 * (32 * (o.args.kq.toNat + 1) / 192))).map fun c => o.a + 128 * c

/-- Memory as an operation sees it: the operand words that it has read already as it read them (R292). -/
def MatOp.seen (o : MatOp) (m : Memory) : Memory :=
  o.got.foldl (fun m e => memPut m (4 * e.1) (leBytes 4 e.2.toNat)) m

/-- Words 0 to 7 of every line of a sparse A (R291). -/
def MatOp.maskWords (o : MatOp) (m : Memory) : List Word :=
  o.lines.flatMap fun l => (List.range 8).map fun j => BitVec.ofNat 32 (memNat m (l + 4 * j) 4)

/-- Whether the first eight words of a sparse line break R291: a reserved byte that is not 0, or a mask of more than four bits. -/
def sparseBad (ws : List Word) : Bool :=
  (ws.drop 6).any (· != 0) || (ws.take 6).any fun w => (List.range 4).any fun k => 4 < popCount (w.toNat / 2 ^ (8 * k) % 256) 8

/-- The crew-window address of an operand byte, as the group of the gang forms it (R168): the address of a record. -/
def State.crewVa (s : State) (g pa : Nat) : Nat :=
  let m := (pa - Config.scratchBase 0) / 2 ^ 21
  let rank := match (s.gangs[g]?).bind fun G => (s.groups[G.grp]?).bind fun gr => s.crews[gr.crew]? with
    | some c => (c.members.findIdx? (· == m)).getD 0
    | none => 0
  crewBase + rank * 2 ^ 21 + (pa - Config.scratchBase 0) % 2 ^ 21

/-- What stops MMA or MMAS before its next block (R291, R308): the cause, its access flag, and the address of the record. -/
def State.mmaStop (s : State) (o : MatOp) : Option (Cause × Nat × Nat) :=
  let poisoned (ws : List Nat) : Option (Cause × Nat × Nat) :=
    (ws.find? fun w => s.isPoisoned w && !o.got.any (·.1 == w)).map fun w => (.poison, 1, s.crewVa o.gang (4 * w))
  let lines := if o.kind = 1 && o.kb = 0 then o.lines else []
  match poisoned (lines.flatMap fun l => rangeWords l 32) with
  | some x => some x
  | none =>
    match lines.find? fun l => sparseBad ((List.range 8).map fun j => BitVec.ofNat 32 (memNat (o.seen s.mem) (l + 4 * j) 4)) with
    | some l => some (.badsparse, 0, s.crewVa o.gang l)
    | none => poisoned (o.words o.kb)

/-- The block value of row i and column j (R306). -/
def MatOp.blockAt (o : MatOp) (m : Memory) : Nat → Nat → FVal :=
  let f := slotFmt o.sa
  let k := 32 * (o.args.kq.toNat + 1)
  let mask (i : Nat) : Nat := ((o.masks[8 * sparseLine k i (32 * o.kb) + 32 * o.kb % 192 / 32]?).getD 0).toNat
  let as := (List.range 64).map fun i =>
    if o.kind = 1 then sparseBlock m f o.a k i o.kb (mask i) else denseBlock m f k o.a o.sca i o.kb
  let bs := (List.range 64).map fun j => denseBlock m f k o.b o.scb j o.kb
  fun i j => pairsValue f ((as[i]?).getD []) ((bs[j]?).getD [])

/-- The operation with the masks of its sparse operand read, once they have passed their check (R291). -/
def MatOp.masked (o : MatOp) (m : Memory) : MatOp :=
  if o.kind = 1 && o.kb = 0 then { o with masks := o.maskWords (o.seen m) } else o

/-- Whether the cores that hold the scratchpads of an operation's operands or results answer: one that is offline does not (R295). -/
def State.operandsUp (s : State) (o : MatOp) : Bool :=
  [o.a, o.b, o.sca, o.scb].all fun pa =>
    pa < Config.scratchBase 0 || match s.groups[(pa - Config.scratchBase 0) / 2 ^ 21]? with
      | some g => !(s.core g.core).offline
      | none => true

/-- The head operation has made a step but is not done. -/
def State.matGoesOn (s : State) (p : Nat) (o : MatOp) : State :=
  s.updPart p fun P => { P with mq := { o with kb := o.kb + 1 } :: P.mq.tail }

/-- A step of the unit on the head of its queue when that is of one of the kinds, after the owner check of R288; it makes no progress
while a core that holds an operand is offline (R295). -/
def State.matActs (s : State) (p : Nat) (kinds : List Nat) (f : State → MatOp → Acc → State) : State :=
  match s.matHead p with
    | none => s
    | some o =>
      if !kinds.contains o.kind then s
      else match s.claim p o with
        | none => s.notOwner p o
        | some a => if s.operandsUp o then f s o a else s

/-- The same as an event of the device. -/
def State.matStep (s : State) (p : Nat) (kinds : List Nat) (f : State → MatOp → Acc → State) : Host.Outcome State Fault Refusal :=
  .next (s.matActs p kinds f)

/-- The meaning of MMA_EXECUTE (R291, R306, R308): one block of the MMA or MMAS at the head. -/
def execMmaExecute (p : Nat) (s : State) : Host.Outcome State Fault Refusal :=
  s.matStep p [0, 1] fun s o a =>
    match s.mmaStop o with
    | some (c, acc, addr) => ((s.putAcc p (matAcc o.args) a).endMat p o o.ranClks).defer p o.gang c acc addr
    | none =>
      let o := o.masked s.mem
      let s := s.putAcc p (matAcc o.args) (a.block (o.blockAt (o.seen s.mem)))
      if o.kb = o.args.kq.toNat then s.endMat p o else s.matGoesOn p o

/-- One operand word of the product at the head of a unit's queue read, before the block that uses it (R292, R306); a poisoned one
stops the operation when its block comes. -/
def State.mmaWord (s : State) (p w : Nat) : State :=
  s.matActs p [0, 1] fun s o _ =>
    let mine := (o.kind = 1 && o.kb = 0 && o.lines.any fun l => l / 4 ≤ w && w < l / 4 + 8)
      || (List.range (o.args.kq.toNat + 1)).any fun k => o.kb ≤ k && (o.words k).contains w
    if !mine || s.isPoisoned w || o.got.any (·.1 == w) then s
    else
      let o : MatOp := { o with got := o.got ++ [(w, BitVec.ofNat 32 (memNat s.mem (4 * w) 4))] }
      s.updPart p fun P => { P with mq := o :: P.mq.tail }

/-- The meaning of ACCZ_EXECUTE (R309). -/
def execAcczExecute (p : Nat) (s : State) : Host.Outcome State Fault Refusal :=
  s.matStep p [2] fun s o _ =>
    (s.putAcc p (matAcc o.args) (if o.args.free then Acc.zero else s.zeroAcc o.gang)).endMat p o

/-- The meaning of PROMO_EXECUTE (R289, R309). -/
def execPromoExecute (p : Nat) (s : State) : Host.Outcome State Fault Refusal :=
  s.matStep p [6] fun s o a =>
    (s.putAcc p (matAcc o.args) { (if 0 < a.n then a.promote else a) with p := o.args.pint.toNat }).endMat p o

/-- The element that lane `l` of register E + k stands for (R310). -/
def drainIndex (x : MatArgs) (k l : Nat) : Nat := 64 * (16 * x.g.toNat + k / 2) + 32 * (k % 2) + l

/-- The meaning of ACCRD_EXECUTE (R310). -/
def execAccrdExecute (p : Nat) (s : State) : Host.Outcome State Fault Refusal :=
  s.matStep p [3] fun s o a =>
    let a := a.promote
    let q := tensorScale o.sa o.sb
    let vw := match o.args.d with
      | .v n => (maskLanes o.active).flatMap fun l => (List.range 32).map fun k =>
          (32 * (n.val + k) + l, BitVec.ofNat 32 (drained q (stGet a.part (drainIndex o.args k l))))
      | _ => []
    let s := (s.putAcc p (matAcc o.args) a).updGang o.gang fun G => if G.stand = .ended then G else G.commitRes ⟨vw, [], 0⟩
    (s.release o).endMat p o

/-- The meaning of ACCWR_EXECUTE (R311). -/
def execAccwrExecute (p : Nat) (s : State) : Host.Outcome State Fault Refusal :=
  s.matStep p [4] fun s o a =>
    let a := a.promote
    let put := match o.args.a, s.gangs[o.gang]? with
      | .v n, some G => (maskLanes o.active).flatMap fun l => (List.range 32).map fun k =>
          (drainIndex o.args k l, G.getV (n.val + k) l)
      | _, _ => []
    ((s.putAcc p (matAcc o.args) { a with part := stSetAll a.part put }).release o).endMat p o

/-- The destination words `ws` of an ACCST, numbered over its 64 rows, as byte writes (R312). -/
def MatOp.drain (o : MatOp) (a : Acc) (ws : List Nat) : List (Nat × Byte) :=
  let q := tensorScale o.sa o.sb
  let n := 4 / outWidth o.args.ofmt.toNat
  ws.flatMap fun w =>
    let bs := (List.range n).flatMap fun j => outBytes o.args.ofmt.toNat (drained q (stGet a.part (n * w + j)))
    (List.range 4).zip bs |>.map fun e => (o.a + 4 * w + e.1, e.2)

/-- The accumulator of an ACCST, promoted with its first word (R312). -/
def MatOp.promoted (o : MatOp) (a : Acc) : Acc := if o.kb = 0 && o.did.isEmpty then a.promote else a

/-- The words of the row that an ACCST writes next. -/
def MatOp.rowWords (o : MatOp) : List Nat :=
  let n := 16 * outWidth o.args.ofmt.toNat
  (List.range n).map (n * o.kb + ·)

/-- The meaning of ACCST_EXECUTE (R312): what is left of one row of 64 elements is written. -/
def execAccstExecute (p : Nat) (s : State) : Host.Outcome State Fault Refusal :=
  s.matStep p [5] fun s o a =>
    let a := o.promoted a
    let s := (s.putAcc p (matAcc o.args) a).writeMem none none (o.drain a (o.rowWords.filter fun w => !o.did.contains w))
    if o.kb = 63 then s.endMat p o else s.matGoesOn p o

/-- One destination word of the ACCST at the head of a unit's queue, in any order (R312). -/
def State.accstWord (s : State) (p w : Nat) : State :=
  s.matActs p [5] fun s o a =>
    if w < 16 * outWidth o.args.ofmt.toNat * o.kb || 1024 * outWidth o.args.ofmt.toNat ≤ w || o.did.contains w then s
    else
      let a := o.promoted a
      let o' : MatOp := { o with did := o.did ++ [w] }
      ((s.putAcc p (matAcc o.args) a).writeMem none none (o.drain a [w])).updPart p fun P => { P with mq := o' :: P.mq.tail }

/-- The meaning of MATRIX_UNIT_RESET (R295): after 2^24 clk without progress every queued operation ends, both accumulators
are free, and the gangs concerned take MATRST. -/
def execMatrixUnitReset (p : Nat) (s : State) : Host.Outcome State Fault Refusal :=
  let P := s.part p
  .next (if P.mq.isEmpty || s.clock.toNat < P.progress + 2 ^ 24 then s
    else
      let who := (P.mq.map (·.gang) ++ P.accs.filterMap (·.owner)).eraseDups
      let s := P.mq.foldl (fun s o => (if o.kind = 3 || o.kind = 4 then s.release o else s).endMat p o o.ranClks) s
      let s := s.updPart p fun P => { P with accs := P.accs.map fun _ => Acc.zero, progress := s.clock.toNat }
      who.foldl (fun s g => s.defer p g .matrst 0 0) s)

end Sys2Proof.Machine
end

