-- ==== Sys2Proof/Machine/Tails.lean ====
section
/-! DEFINITION. The device's steps on gangs: tails (R209 to R217), loads that return (R226), the issue token (R47), sleep
(R149), completions (R140), and the far reductions at the home slices (R235 to R238). -/
namespace Sys2Proof.Machine

/-! ### Tails -/

/-- Whether some store-buffer lines, or the tiles they write, wait at their home slices (R265, R348). -/
def State.bufHeld (s : State) (ls : List SbStore) : Bool :=
  ls.any fun e => (bufLines [e]).any fun line => s.heldAny [⟨0, 128 * line, e.leaf, false⟩] 128

/-- The group sees the translation registers that a tail wrote (R221). -/
def State.commitXts (s : State) (grp : Nat) (xts : List (Nat × Xt)) : State :=
  s.updGroup grp fun gr => { gr with xt := xts.foldl (fun l e => updAt l e.1 fun _ => e.2) gr.xt }

/-- A tail's stores perform, its translation registers become the group's (R210, R221), and the malformed entries of its walks are
recorded (R173). -/
def State.commitTail (s : State) (g : Nat) (G : Gang) (sbuf : List SbStore) (xts : List (Nat × Xt)) (walks : List Nat) : State :=
  ((s.drainBuffer g G.core sbuf).commitXts G.grp xts).recordWalks g walks

/-- Whether the open tail of a gang can commit whole (R209). -/
def State.canCommit (s : State) (G : Gang) : Bool :=
  match G.tail with
  | some t => !t.conflict && t.held.isNone && G.pend.isEmpty && !s.bufHeld t.sbuf
  | none => false

/-- The meaning of TAIL_COMMIT (R209, R210). -/
def execTailCommit (g : Nat) (s : State) : Host.Outcome State Fault Refusal :=
  .next (match s.gangs[g]? with
    | none => s
    | some G =>
      match G.tail with
      | none => s
      | some t =>
        if !s.canCommit G then s
        else (s.commitTail g G t.sbuf t.xts t.walks).updGang g fun G => { G with tail := none, sheds := 0 })

/-- The meaning of TAIL_INSTRUCTION_LIMIT (R209): the tail closes before its 257th instruction. -/
def execTailInstructionLimit (g : Nat) (s : State) : Host.Outcome State Fault Refusal :=
  .next (match s.gangs[g]? with
    | none => s
    | some G =>
      match G.tail with
      | some t => if 256 ≤ t.count then s.closeTail g 0x13 else s
      | none => s)

/-- The meaning of SHED (R213, R214): a tail marked by a conflict is undone. -/
def execShed (g : Nat) (s : State) : Host.Outcome State Fault Refusal :=
  .next (match s.gangs[g]? with
    | none => s
    | some G =>
      match G.tail with
      | some t => if t.conflict then s.shed g false else s
      | none => s)

/-- The meaning of CRAWL_END (R215): after 256 instructions. -/
def execCrawlEnd (g : Nat) (s : State) : Host.Outcome State Fault Refusal :=
  .next (match s.gangs[g]? with
    | none => s
    | some G => if G.crawl && 256 ≤ G.crawlCnt then s.updGang g Gang.endCrawl else s)

/-- A gang as it stood at a held fault (R216): later register writes and events are gone. -/
def Gang.atFault (g : Gang) (h : HeldFault) : Gang :=
  { g with
    v := h.v, s := h.s, sv := h.sv, ss := h.ss, slices := h.ckpt.slices, nest := h.ckpt.nest, flags := h.ckpt.flags, tail := none, pend := [], sheds := 0 }

/-- The meaning of TRAP_ENTRY (R155, R216): the tail commits up to the instruction of its held fault, and the fault is
taken. -/
def execTrapEntry (g : Nat) (s : State) : Host.Outcome State Fault Refusal :=
  .next (match s.gangs[g]? with
    | none => s
    | some G =>
      match G.tail with
      | none => s
      | some t =>
        match t.held with
        | none => s
        | some h =>
          if t.conflict || !h.pend.isEmpty || s.bufHeld h.sbuf then s
          else ((s.commitTail g G h.sbuf h.xts h.walks).updGang g fun G => G.atFault h).fault g h.trap)

/-! ### Loads, sleep, the token -/

/-- A held fault's picture of the gang `g` with a load of it delivered (R216, R226), into the bank that the mode selects. -/
def HeldFault.deliver (h : HeldFault) (g : Gang) (p : PendLoad) : HeldFault :=
  if h.pend.contains p then
    let k := p.sw.foldl Gang.putS (p.vw.foldl Gang.putV { g with v := h.v, s := h.s, sv := h.sv, ss := h.ss })
    { h with v := k.v, s := k.s, sv := k.sv, ss := k.ss, pend := h.pend.erase p }
  else h

/-- A load in flight arrives in its registers (R226). -/
def Gang.deliver (g : Gang) (n : Nat) : Gang :=
  match g.pend[n]? with
  | none => g
  | some p =>
    let g := p.sw.foldl Gang.putS (p.vw.foldl Gang.putV g)
    { g with
      pend := g.pend.eraseIdx n
      tail := g.tail.map fun t => { t with held := t.held.map fun h => h.deliver g p } }

/-- The meaning of LOAD_RETURN (R226): load `n` of a gang returns. -/
def execLoadReturn (g n : Nat) (s : State) : Host.Outcome State Fault Refusal := .next (s.updGang g fun G => G.deliver n)

/-- Whether a sleeping slice's time has passed: the clk counted modulo 2^64 (R149). -/
def slept (now until_ : Nat) : Bool := until_ != 0 && (now + 2 ^ 64 - until_ % 2 ^ 64) % 2 ^ 64 < 2 ^ 63

/-- The meaning of SLEEP_EXPIRY (R149): slice `sl` of a gang wakes. -/
def execSleepExpiry (g sl : Nat) (s : State) : Host.Outcome State Fault Refusal :=
  .next (match s.gangs[g]? with
    | none => s
    | some G => if slept s.clock.toNat ((G.sleep[sl]?).getD 0) then s.updGang g fun G => { G with sleep := updAt G.sleep sl fun _ => 0 } else s)

/-- The meaning of TOKEN_RUN_LIMIT (R47): after 64 slots of the holder the next one is another ready gang's. -/
def execTokenRunLimit (p : Nat) (s : State) : Host.Outcome State Fault Refusal :=
  .next (if (s.part p).token.isSome && 64 ≤ (s.part p).run then s.updPart p fun P => { P with yield := true } else s)

/-! ### Completions -/

/-- The oldest operation of a gang in a class (R140). -/
def State.oldest (s : State) (g cls : Nat) : Option AsyncOp := s.ops.find? fun o => o.gang = g && o.cls = cls

/-- Whether an operation has nothing left to perform. -/
def AsyncOp.over (o : AsyncOp) : Bool := o.elems.isEmpty && !o.busy

/-- The meaning of ASYNC_COMPLETION (R140): the oldest operation of a class is over and is reported. -/
def execAsyncCompletion (g cls : Nat) (s : State) : Host.Outcome State Fault Refusal :=
  .next (match s.oldest g cls with
    | none => s
    | some o =>
      if o.over then
        ({ s with ops := s.ops.filter (·.id != o.id) }).updGang g fun G => { G with cnt := updAt G.cnt cls (· - 1) }
      else s)

/-! ### Far reductions -/

/-- The partition and group through which an operation's accesses are checked. -/
def State.opAccessor (s : State) (o : AsyncOp) : Accessor :=
  match s.gangs[o.gang]? with
  | some G => ⟨G.part, o.ctx, G.grp, true, true⟩
  | none => ⟨0, o.ctx, 0, true, true⟩

/-- A far element is dropped (R236): a record, and LOSTRED for its node. -/
def State.dropFar (s : State) (o : AsyncOp) (el : Nat) (c : Cause) (unit va : Nat) : State :=
  ((s.logErr o.ctx 3 c 0 unit va (s.opNode o)).updNode o.node fun n => { n with lost := true }).dropElem o.id el

/-- A deferred element's translation at the cluster stage (R236, R365): an access, a failure that drops it, or a wait in the
stage for a page with VALID = 0. -/
inductive FarX where
  | ok (x : Xlat)
  | drop (c : Cause)
  | wait
  deriving DecidableEq, Repr

/-- The walk of a deferred element, as the cluster stage makes it. -/
def State.farWalk (s : State) (o : AsyncOp) (va : Nat) : FarX × State :=
  let c := s.opAccessor o
  match s.walk o.ctx va with
  | (.malformed pte, s) => (.drop .pagefault, s.logErr o.ctx 0x0A .pagefault 0 (unitCode 3 (clusterOf (c.p / 8))) pte (s.opNode o))
  | (.leaf l, s) =>
    match (s.ctx o.ctx).permit l va (l.frame + va % l.size) true false true with
    | .ok x => (.ok x, s)
    | .error f => (.drop f.cause, s)
  | (.invalid _ _, s) =>
    (.wait, s.fillStage (clusterOf (c.p / 8)) o.ctx (va / 65536 * 65536) 11 [] [o.id])

/-- A far element with its translation: `go` performs it, unless it waits or is dropped. -/
def State.farElement (s : State) (o : AsyncOp) (el va : Nat) (x : Option Xlat) (go : State → Xlat → State) : State :=
  match x with
  | some x => go s x
  | none =>
    match s.farWalk o va with
    | (.ok x, s) => go s x
    | (.wait, s) => s
    | (.drop c, s) => s.dropFar o el c (unitCode 3 (clusterOf ((s.opAccessor o).p / 8))) va

/-- The UNIT of the home slice of an access. -/
def State.homeUnit (s : State) (o : AsyncOp) (x : Xlat) : Nat := unitCode 1 (homeSlice x.pa (dieOf ((s.opAccessor o).p / 8)))

/-- One lane of RED at its home slice (R231, R235). -/
def State.redPerform (s : State) (o : AsyncOp) (el opc n d : Nat) (x : Xlat) : State :=
  let x : Xlat := { x with leaf := s.nowLeaf x.leaf }
  let die := dieOf ((s.opAccessor o).p / 8)
  if s.heldAny [x] n then s
  else match s.rmwFail x n with
    | some c => s.dropFar o el c (s.homeUnit o x) x.va
    | none =>
      let (_, t) := s.rmw none none x n (fun old => atomOp opc n old d) die
      (t.countSlice (homeSlice x.pa die) 0x46 1).dropElem o.id el

/-- Where an element acts, as far as its translation is known now: at issue, or by the entries in memory (R236). -/
def State.farPlace (s : State) (ctx va : Nat) (x : Option Xlat) : Option Nat :=
  match x with
  | some x => some x.pa
  | none => match walkVa s.mem (s.ctx ctx).root va with | .leaf l => some (l.frame + va % l.size) | _ => none

/-- Whether an earlier lane of a RED still has to perform on the same word (R235): one whose page is not valid yet may come to share it
wherever the offsets in 64 KiB agree (DESIGN CHOICE: notes/assumptions 57). -/
def State.redBlocked (s : State) (o : AsyncOp) (el va : Nat) (x : Option Xlat) : Bool :=
  match s.farPlace o.ctx va x with
  | none => false
  | some a => (o.elems.take el).any fun e => match e with
    | .red v y _ => (match s.farPlace o.ctx v y with | some b => a = b | none => v % 65536 = va % 65536)
    | _ => false

/-- The meaning of RED_ELEMENT (R235, R236). -/
def execRedElement (op el : Nat) (s : State) : Host.Outcome State Fault Refusal :=
  .next (match s.op op with
    | none => s
    | some o =>
      match o.kind, o.elems[el]? with
      | .red opc wide, some (.red va x d) =>
        let n := if wide then 8 else 4
        if s.redBlocked o el va x then s
        else s.farElement o el va x fun s x => s.redPerform o el opc n (d.toNat % 2 ^ (8 * n)) x
      | _, _ => s)

/-- A weight of R238: 1 where the exponents are equal, else 2 to their difference, each step rounded. -/
def mergeWeight (m top : Nat) : Nat :=
  if (fcompare 0 (fp32.decode m) (fp32.decode top)).1 then cOne
  else (fp32.exp2 0 false (fp32.decode (fp32.add 0 false (fp32.decode m) (fp32.decode top).negate).1)).1

/-- A value of a merge record with an incoming one (R238): fma(a, old, round(a' x new)). -/
def mergeValue (a a' old new : Nat) : Nat := fma32 a old (fp32.mulR 0 false (fp32.decode a') (fp32.decode new)).1

/-- The merge of R238 as word writes: offset and value. -/
def mergeWords (rd : Nat → Nat) (m l : Word) (o : List Word) : List (Nat × Nat) :=
  let top := max32 (rd 0) m.toNat
  let a := mergeWeight (rd 0) top
  let a' := mergeWeight m.toNat top
  [(0, top), (4, mergeValue a a' (rd 4) l.toNat)]
  ++ ((List.range o.length).zip o).map fun e => (128 + 4 * e.1, mergeValue a a' (rd (128 + 4 * e.1)) e.2.toNat)

/-- The merge at the home slice (R237, R238). -/
def State.mergePerform (s : State) (op : AsyncOp) (x : Xlat) (m l : Word) (o : List Word) : State :=
  let n := 128 + 4 * o.length
  let x : Xlat := { x with leaf := s.nowLeaf x.leaf }
  if s.held x.pa n then s
  else if x.leaf.mapped then s.dropFar op 0 .prot (s.homeUnit op x) x.va
  else if !leafDiscard s.mem x.leaf && (List.range (n / 4)).any fun k => s.isPoisoned (x.pa / 4 + k) then
    s.dropFar op 0 .poison (s.homeUnit op x) x.va
  else
    let zero := leafDiscard s.mem x.leaf
    let ws := mergeWords (fun k => if zero then 0 else memNat s.mem (x.pa + k) 4) m l o
    let bs := ws.flatMap fun e => (List.range 4).zip (leBytes 4 e.2) |>.map fun b => (x.pa + e.1 + b.1, b.2)
    ((s.storePage none none x.leaf bs).countSlice (homeSlice x.pa (dieOf ((s.opAccessor op).p / 8))) 0x46 1).dropElem op.id 0

/-- The meaning of SMRG_MERGE (R236, R238). -/
def execSmrgMerge (op : Nat) (s : State) : Host.Outcome State Fault Refusal :=
  .next (match s.op op with
    | none => s
    | some o =>
      match o.elems with
      | .merge va x m l v :: _ => s.farElement o 0 va x fun s x => s.mergePerform o x m l v
      | _ => s)

end Sys2Proof.Machine
end

