-- ==== Sys2Proof/Machine/Launch.lean ====
section
/-! DEFINITION. The dispatcher's accesses, launch records (R37 to R42, R82), and the completion of a node with its edges
(R354, R355, R359 to R361). -/
namespace Sys2Proof.Machine

/-! ### The dispatcher's own accesses -/

/-- The translation of an access of the dispatcher (R42, R355): a page that is valid, not mapped, in no window. -/
def State.devXlat (s : State) (ctx va : Nat) (write : Bool) : Except Cause Xlat × State :=
  if crewBase ≤ va then (.error .prot, s)
  else match s.walk ctx va with
    | (.invalid _ _, s) => (.error .pagefault, s)
    | (.malformed pte, s) => (.error .pagefault, s.logErr ctx 0x0A .pagefault 0 (unitCode 4 0) pte 0)
    | (.leaf l, s) =>
      match (s.ctx ctx).permit l va (l.frame + va % l.size) write false true with
      | .error f => (.error f.cause, s)
      | .ok x => if l.mapped then (.error .prot, s) else (.ok x, s)

/-- A coherent read of the dispatcher, which waits at the home slices (R348, R375). -/
def State.devRead (s : State) (ctx va n : Nat) : Except Cause (List Byte) × State :=
  (unitsOf va n).foldl (fun (a : Except Cause (List Byte) × State) u =>
    match a with
    | (.error c, s) => (.error c, s)
    | (.ok bs, s) =>
      match s.devXlat ctx u.1 false with
      | (.error c, s) => (.error c, s)
      | (.ok x, s) =>
        let n := u.2 + 1 - u.1
        let s := s.needReady (!s.held x.pa n)
        match s.readCoherent none x n with
        | .fail c _ => (.error c, s)
        | .ok cs _ => (.ok (bs ++ cs), s)) (.ok [], s)

/-- Whether an access of the dispatcher would wait at its home slice (R348, R375). -/
def State.devHeld (s : State) (ctx va n : Nat) : Bool :=
  (unitsOf va n).any fun u =>
    match walkVa s.mem (s.ctx ctx).root u.1 with
    | .leaf l => s.held (l.frame + u.1 % l.size) (u.2 + 1 - u.1)
    | _ => false

/-- A number written by the dispatcher as one coherent event, which waits at its home slice (R348, R375). -/
def State.devWrite (s : State) (x : Xlat) (n v : Nat) : State :=
  (s.needReady (!s.held x.pa n)).storePage none none x.leaf (laneBytes x n v)

/-! ### Launch records -/

/-- A queue declaration from its word (R38). -/
def qdeclOf (q : Nat) : QDecl := ⟨bitsOf q 15 8, bitsOf q 23 16, bitsOf q 31 24, bitsOf q 39 32, bitsOf q 47 40⟩

/-- The queue words of a record. -/
def queueWords (bs : List Byte) : List Nat := (List.range 7).map fun k => leNat ((bs.drop (64 + 8 * k)).take 8)

/-- A field of a record. -/
def recField (bs : List Byte) (o n : Nat) : Nat := leNat ((bs.drop o).take n)

/-- A launch record from its 256 bytes (R37). -/
def launchOf (bs : List Byte) : LaunchRec :=
  let f := recField bs
  { entry := f 0x00 8, gx := f 0x08 4, gy := f 0x0C 2, gz := f 0x0E 2, stages := f 0x10 1, gangs := f 0x11 1, regs := f 0x12 2,
    scratch := f 0x14 4, crew := f 0x18 1, prio := f 0x19 1, pairing := f 0x1A 1, yard := f 0x1C 4, params := f 0x20 8,
    save := f 0x28 8, result := f 0x30 8, next := f 0x38 8,
    queues := ((queueWords bs).filter fun q => q % 256 = 1).map qdeclOf,
    slots := (List.range 8).map fun k => BitVec.ofNat 128 (f (128 + 16 * k) 16) }

/-- Whether a queue word is legal (R38, R41). -/
def queueOk (stages q : Nat) : Bool :=
  if q % 256 = 0 then q = 0
  else
    let d := qdeclOf q
    q % 256 = 1 && bitsOf q 63 48 = 0 && d.qid ≤ 15 && 1 ≤ d.depth && d.depth ≤ 64 && 3 ≤ d.scope && d.scope ≤ 5
    && d.pstage < stages && d.cstage < stages && (d.scope != 3 || d.pstage = d.cstage)

/-- Whether a format slot is legal (R82). -/
def slotOk (b : Nat) : Bool :=
  let db := slotFmt b = 5 || slotFmt b = 6
  slotFmt b ≤ 12 && slotK b ≤ (if db then 31 else 0) && (if db then slotScales b != 0 && slotScales b % 2 = 0 else slotScales b = 0)
  && slotLayout b ≤ 1 && slotSparse b ≤ 1 && (slotSparse b = 0 || slotFmt b = 3 || slotFmt b = 4)

/-- Whether every field of a record is in its range (R41); `relayed` ignores the grid and asks for one stage (R361). -/
def recordOk (bs : List Byte) (relayed : Bool) : Bool :=
  let r := launchOf bs
  r.entry % 8 = 0 && 1 ≤ r.stages && r.stages ≤ 8 && 1 ≤ r.gangs && r.gangs ≤ 32 && r.regs % 32 = 0 && 32 ≤ r.regs && r.regs ≤ 640
  && r.scratch % 256 = 0 && r.scratch ≤ Config.scratchBytes && 1 ≤ r.crew && r.crew ≤ 8 && r.prio ≤ 7 && r.pairing ≤ 1
  && (r.pairing = 0 || r.gangs % 2 = 0) && recField bs 0x1B 1 = 0 && r.result % 4 = 0
  && (if relayed then r.stages = 1 else r.gx != 0 && r.gy != 0 && r.gz != 0 && r.gx % r.crew = 0)
  && ((queueWords bs).all (queueOk r.stages)) && ((r.queues.map (·.qid)).eraseDups.length = r.queues.length)
  && r.slots.all fun b => slotOk b.toNat

/-! ### Seating -/

/-- What one group asks of a core (R43 to R45): its stage and rank, its scratchpad with the queue storage that R33 puts
there, the register bytes of a gang, the partition offset of each of its gangs, and the accumulators its gangs own, by offset
and index. -/
structure Seating where
  stage : Nat
  rank : Nat
  live : Bool
  scratch : Nat
  regs : Nat
  offs : List Nat
  accs : List (Nat × Nat)
  deriving DecidableEq, Repr

/-- What stands on the cores: the core of each group, scratchpad bytes by core, register bytes of each gang by partition,
owned accumulators. -/
structure Load where
  groups : List Nat
  scratch : List (Nat × Nat)
  gangs : List (Nat × Nat)
  accs : List (Nat × Nat)
  deriving DecidableEq, Repr

/-- Nothing stands anywhere. -/
def Load.empty : Load := ⟨[], [], [], []⟩

/-- The partition of a gang of a seated group (R44), numbered over the device. -/
def seatPart (x : Seat) (off : Nat) : Nat := 8 * x.core + (x.p0 + off) % 8

/-- A group seated. -/
def Load.add (l : Load) (d : Seating) (x : Seat) : Load :=
  { groups := if d.live then x.core :: l.groups else l.groups
    scratch := (x.core, d.scratch) :: l.scratch
    gangs := (d.offs.map fun o => (seatPart x o, d.regs)) ++ l.gangs
    accs := (d.accs.map fun a => (seatPart x a.1, a.2)) ++ l.accs }

/-- The limits of R43 on one core. -/
def Load.coreOk (l : Load) (c : Nat) : Bool :=
  (l.groups.filter (· == c)).length ≤ 16
  && ((l.scratch.filter (·.1 == c)).map (·.2)).sum ≤ Config.scratchBytes
  && (List.range 8).all fun p =>
      let g := l.gangs.filter (·.1 == 8 * c + p)
      g.length ≤ 16 && (g.map (·.2)).sum ≤ Config.regFileBytes

/-- Whether two groups of one unit may stand where they do (R32, R33): members of a crew on different cores of one
cluster, groups joined by a core-scope queue on one core, crews joined by a cluster-scope queue in one cluster. -/
def pairOk (qs : List QDecl) (a : Seating × Seat) (b : Seating × Seat) : Bool :=
  let same := a.2.core = b.2.core
  let cl := clusterOf a.2.core = clusterOf b.2.core
  (a.1.stage != b.1.stage || (!same && cl))
  && qs.all fun q =>
      let joins := (q.pstage = a.1.stage && q.cstage = b.1.stage) || (q.pstage = b.1.stage && q.cstage = a.1.stage)
      !joins || a.1.stage = b.1.stage || (q.scope != 4 || a.1.rank != b.1.rank || same) && (q.scope != 5 || cl)

/-- Whether a group may take a seat beside those already seated. -/
def Load.seatOk (l : Load) (qs : List QDecl) (done : List (Seating × Seat)) (d : Seating) (x : Seat) : Bool :=
  x.p0 < 8 && done.all (pairOk qs (d, x)) && (d.accs.all fun a => !l.accs.contains (seatPart x a.1, a.2))
  && (l.add d x).coreOk x.core

/-- Whether a unit can be seated on some of the cores: every seat is tried. -/
def fitsIn (qs : List QDecl) (cores : List Nat) : List Seating → Load → List (Seating × Seat) → Bool
  | [], _, _ => true
  | d :: r, l, done =>
    cores.any fun c => (List.range 8).any fun p0 =>
      l.seatOk qs done d ⟨c, p0⟩ && fitsIn qs cores r (l.add d ⟨c, p0⟩) ((d, ⟨c, p0⟩) :: done)

/-- Whether a unit stands on the seats given. -/
def seatsOk (qs : List QDecl) : List Seating → List Seat → Load → List (Seating × Seat) → Bool
  | [], [], _, _ => true
  | d :: r, x :: xs, l, done => l.seatOk qs done d x && seatsOk qs r xs (l.add d x) ((d, x) :: done)
  | _, _, _, _ => false

/-- The stages that core- and cluster-scope queues join with a stage (R33), rising. -/
def joinedStages (qs : List QDecl) (st : Nat) : List Nat :=
  (List.range 8).foldl (fun c _ => qs.foldl (fun c q =>
    if q.scope != 3 && (c.contains q.pstage || c.contains q.cstage) then insNat (insNat c q.pstage) q.cstage else c) c) [st]

/-- The storage of queue instances that stands with a group (R33): 64 bytes and 8 for each entry. -/
def queueBytes (qs : List QDecl) (st rank : Nat) : Nat :=
  ((qs.filter fun q => q.cstage = st && (q.scope != 5 || rank = 0)).map fun q => 64 + 8 * q.depth).sum

/-- The partition offset of a gang (R44). -/
def gangOff (lr : LaunchRec) (g : Nat) : Nat := (if lr.pairing = 1 then g / 2 else g) % 8

/-- What a new group of a stage and rank asks for. -/
def freshSeating (lr : LaunchRec) (st rank : Nat) : Seating :=
  { stage := st, rank, live := true, scratch := lr.scratch + queueBytes lr.queues st rank, regs := 128 * lr.regs,
    offs := (List.range lr.gangs).map (gangOff lr), accs := [] }

/-- A unit of new groups (R32, R33): every rank of the crews of every stage joined with one, in ascending linear order. -/
def freshUnit (lr : LaunchRec) (st : Nat) : List Seating :=
  (joinedStages lr.queues st).flatMap fun t => (List.range lr.crew).map fun r => freshSeating lr t r

/-- The fits of R41: one group on an empty core, each joined set in an empty cluster, the yard in its region. -/
def launchFits (lr : LaunchRec) (yardSize : Nat) : Bool :=
  lr.yard * 32 ≤ yardSize
  && (List.range lr.stages).all fun st =>
      fitsIn [] [0] [freshSeating lr st 0] .empty [] && fitsIn lr.queues (List.range 8) (freshUnit lr st) .empty []

/-! ### Completion and edges -/

/-- The bytes of a context's yard region in use (R360). -/
def State.yardUsed (s : State) (ctx : Nat) : Nat :=
  ((s.nodes.filter fun n => n.ctx = ctx && n.stand == .launched).map fun n =>
    n.relayBytes + if n.reserved then 32 * n.lr.yard else 0).sum
  + ((s.ctx ctx).waitYards.map fun y => y.2.1).sum

/-- An edge of a successor list (R354). -/
structure Edge where
  target : Nat
  relay : Bool
  sel : Bool
  mask : Nat
  value : Nat
  join : Nat
  deriving DecidableEq, Repr

/-- An edge from its 32 bytes. -/
def edgeOf (bs : List Byte) : Edge :=
  let t := recField bs 0 8
  { target := bitsOf t 56 8 * 256, relay := bitOf t 1, sel := bitOf t 0, mask := recField bs 8 4, value := recField bs 12 4,
    join := recField bs 16 8 }

/-- Whether a reserved bit of an edge is set. -/
def edgeBad (bs : List Byte) : Bool := bitsOf (recField bs 0 8) 63 57 != 0 || bitsOf (recField bs 0 8) 7 2 != 0 || recField bs 24 8 != 0

/-- What a completing node hands on: context, record's address and place, its result address, list, yard. -/
structure Ending where
  ctx : Nat
  addr : Nat
  pa : Nat
  result : Nat
  next : Nat
  status : Nat
  yard : Option (Nat × List YardEntry)
  deriving DecidableEq, Repr

/-- A successor list as read (R355): NOTIFY and the edges. An unreadable or malformed one is recorded and has no edge; NOTIFY of a header
that could be read stands (R354). -/
def State.readEdges (s : State) (n : Ending) : Bool × List Edge × State :=
  let bad (s : State) (notify : Bool) (c : Cause) : Bool × List Edge × State := (notify, [], s.logGraph n.ctx c 0 n.next n.addr)
  if n.next = 0 then (false, [], s)
  else if n.next % 64 != 0 then bad s false .align
  else match s.devRead n.ctx n.next 16 with
    | (.error c, s) => bad s false c
    | (.ok hd, s) =>
      let h := leNat hd
      if h / 2 ^ 9 != 0 || 64 < h % 256 then bad s (bitOf h 8) .illop
      else match s.devRead n.ctx (n.next + 16) (32 * (h % 256)) with
        | (.error c, s) => bad s (bitOf h 8) c
        | (.ok body, s) =>
          let es := (List.range (h % 256)).map fun k => (body.drop (32 * k)).take 32
          if es.any edgeBad then bad s (bitOf h 8) .illop else (bitOf h 8, es.map edgeOf, s)

/-- The join word of a taken edge (R355): whether the edge stands, and whether its target is ready. -/
def State.joinEdge (s : State) (n : Ending) (num : Nat) (e : Edge) : Bool × Bool × State :=
  let drop (s : State) (c : Cause) : Bool × Bool × State := (false, false, s.logGraph n.ctx c num e.join n.addr)
  if e.join = 0 then (true, true, s)
  else if e.join % 4 != 0 then drop s .align
  else match s.devXlat n.ctx e.join true with
    | (.error c, s) => drop s c
    | (.ok x, s) =>
      match s.readCoherent none x 4 with
      | .fail c _ => drop s c
      | .ok bs _ =>
        let v := leNat bs
        if v = 0 then drop s .length else (true, v = 1, s.devWrite x 4 (v - 1))

/-- The value that an edge tests (R355): STATUS, or the result word; none, with a record, where that cannot be read. -/
def State.edgeValue (s : State) (n : Ending) (num : Nat) (e : Edge) : Option Nat × State :=
  if e.sel then (some n.status, s)
  else match s.devRead n.ctx n.result 4 with
    | (.ok bs, s) => (some (leNat bs), s)
    | (.error c, s) => (none, s.logGraph n.ctx c num n.result n.addr)

/-- Edges evaluated in list order (R355), the first with number `num`: the relay target so far. -/
def State.takeEdges (s : State) (n : Ending) : Nat → List Edge → Option Nat → Option Nat × State
  | _, [], relay => (relay, s)
  | num, e :: r, relay =>
    match s.edgeValue n num e with
    | (none, s) => s.takeEdges n (num + 1) r relay
    | (some w, s) =>
      if w &&& e.mask != e.value then s.takeEdges n (num + 1) r relay
      else
        let (stands, ready, s) := s.joinEdge n num e
        if !stands then s.takeEdges n (num + 1) r relay
        else
          let s := if ready then s.submit n.ctx e.target .edge else s
          s.takeEdges n (num + 1) r (if relay.isNone && e.relay then some e.target else relay)

/-- A node completes (R355, R359, R360): STATUS, the edges, the yard to the first taken relay edge, the interrupt. -/
def State.finishNode (s : State) (n : Ending) : State :=
  let s := s.writeNat none none (n.pa + 0x78) 8 n.status
  let (notify, es, s) := s.readEdges n
  let (relay, s) := s.takeEdges n 1 es none
  let s := match n.yard, relay with
    | some y, some t => s.updCtx n.ctx fun c => { c with waitYards := c.waitYards ++ [(t, y.1, y.2)] }
    | _, _ => s
  if notify then s.raise n.ctx 0 else s

/-- The groups of a launch (R31). -/
def LaunchRec.total (lr : LaunchRec) : Nat := lr.gx * lr.gy * lr.gz * lr.stages

/-- Whether a node has ended and nothing of it remains (R359). -/
def State.nodeQuiet (s : State) (k : Nat) (n : Node) : Bool :=
  n.placed.length = n.lr.total && (s.groups.all fun g => g.node != k || g.stand == .ended)
  && (s.ops.all fun o => o.node != k || o.over)
  && s.cmds.all fun c => match s.groups[c.grp]? with | some g => g.node != k | none => true

/-- Whether the dispatcher's accesses at the completion of a node would wait (R348, R375): record, list, result word,
join words. -/
def State.endingHeld (s : State) (n : Ending) : Bool :=
  s.held (n.pa + 0x78) 8 || s.devHeld n.ctx n.result 4 || (n.next != 0 && s.devHeld n.ctx n.next 16)
  || (s.readEdges n).2.1.any fun e => (e.join != 0 && s.devHeld n.ctx e.join 4) || s.devHeld n.ctx (n.next + 16) 2048

/-- What a node hands on at its completion. -/
def Node.ending (n : Node) : Ending :=
  { ctx := n.ctx, addr := n.addr, pa := n.pa, result := n.lr.result, next := n.lr.next,
    status := 1 + (if n.lost then 2 else 0),
    yard := if n.reserved then some (32 * n.lr.yard, n.yard) else none }

/-- The meaning of NODE_COMPLETE (R355, R359, R360). -/
def execNodeComplete (k : Nat) (s : State) : Host.Outcome State Fault Refusal :=
  .next (match s.nodes[k]? with
    | none => s
    | some n =>
      if n.stand != .launched || !(s.ctx n.ctx).active || !s.nodeQuiet k n || s.endingHeld n.ending then s
      else (s.updNode k fun n => { n with stand := .done, yard := [] }).finishNode n.ending)

/-! ### Readiness -/

/-- The waiting yard of a target, taken from its context (R360). -/
def State.takeYard (s : State) (ctx addr : Nat) : Option (Nat × List YardEntry) × State :=
  match (s.ctx ctx).waitYards.find? (·.1 == addr) with
  | none => (none, s)
  | some y => (some y.2, s.updCtx ctx fun c => { c with waitYards := c.waitYards.erase y })

/-- The sorted order of R361: key, linear id, gang, lane. -/
def yardBefore (a b : YardEntry) : Bool :=
  a.key.toNat < b.key.toNat || (a.key = b.key && (a.lin < b.lin || (a.lin = b.lin && (a.gang < b.gang || (a.gang = b.gang && a.lane < b.lane)))))

/-- An entry inserted into a sorted yard. -/
def insYard (x : YardEntry) : List YardEntry → List YardEntry
  | [] => [x]
  | y :: r => if yardBefore x y then x :: y :: r else y :: insYard x r

/-- A yard sorted (R361). -/
def sortYard (l : List YardEntry) : List YardEntry := l.foldr insYard []

/-- The grid of a node that receives a yard of N entries (R361). -/
def relayGrid (lr : LaunchRec) (n : Nat) : LaunchRec :=
  let x := (n + 32 * lr.gangs - 1) / (32 * lr.gangs)
  { lr with gx := (x + lr.crew - 1) / lr.crew * lr.crew, gy := 1, gz := 1 }

/-- A record that was read and accepted becomes a launched node (R359, R361). -/
def State.launch (s : State) (ctx : Nat) (q : Submission) (pa : Nat) (lr : LaunchRec) (y : Option (Nat × List YardEntry)) : State :=
  let (lr, es, bytes) := match y with
    | some (b, l) => (relayGrid lr l.length, sortYard l, b)
    | none => (lr, [], 0)
  let s := if y.isSome then
      (match s.devXlat ctx lr.result true with
       | (.ok x, s) => s.devWrite x 4 (es.length % 2 ^ 32)
       | (.error _, s) => s)
    else s
  let n : Node :=
    { ctx, addr := q.addr, pa, lr, k := (s.ctx ctx).launched, stand := .launched, placed := [], lost := false, yard := [],
      reserved := false, relay := es, relayBytes := bytes, readyAt := q.at_ }
  { s.updCtx ctx fun c => { c with launched := c.launched + 1 } with nodes := s.nodes ++ [n] }

/-- The head of a context's queue is read (R41, R42, R356); one that was ready twice before its record was read is dropped like a
readiness after the launch (DESIGN CHOICE: notes/assumptions 52). A relayed yard stays reserved until the record is read (R360). -/
def State.readNode (s : State) (ctx : Nat) (q : Submission) : State :=
  let s := s.updCtx ctx fun c => { c with queue := c.queue.tail }
  let drop (s : State) (c : Cause) : State := s.logGraph ctx c 0 q.addr q.addr
  if s.launched ctx q.addr then drop s .illop
  else match s.devXlat ctx q.addr true with
    | (.error c, s) => drop s c
    | (.ok x, s) =>
      if !leafDiscard s.mem x.leaf && (List.range 64).any fun k => s.isPoisoned (x.pa / 4 + k) then drop s .poison
      else
        let s := s.devWrite { x with va := x.va + 0x78, pa := x.pa + 0x78 } 8 0
        let bs := memBytes s.mem x.pa 256
        let lr := launchOf bs
        let (y, s) := s.takeYard ctx q.addr
        let refuse (c : Cause) : State :=
          (s.logErr ctx 2 c 0 (unitCode 4 0) q.addr q.addr).finishNode
            { ctx, addr := q.addr, pa := x.pa, result := lr.result, next := lr.next, status := 5, yard := none }
        if !recordOk bs y.isSome then refuse .illop
        else if !launchFits lr (s.ctx ctx).yardsize then refuse .length
        else s.launch ctx q x.pa lr y

/-- The meaning of NODE_READY (R356): the dispatcher takes the oldest ready node of a context. -/
def execNodeReady (c : Nat) (s : State) : Host.Outcome State Fault Refusal :=
  .next (match (s.ctx c).queue with
    | [] => s
    | q :: _ => if (s.ctx c).active && !s.devHeld c q.addr 256 then s.readNode c q else s)

end Sys2Proof.Machine
end

