-- ==== Sys2Proof/Machine/Place.lean ====
section
/-! DEFINITION. Placement, pre-emption and restoring of groups (R31 to R35, R43 to R45, R357, R358, R366 to R368). -/
namespace Sys2Proof.Machine

/-! ### What stands on the cores -/

/-- What stands on the cores now, without the groups that satisfy `skip`. -/
def State.onCores (s : State) (skip : Group → Bool) : Load :=
  let gone (g : Nat) : Bool := match s.groups[g]? with | some gr => skip gr | none => true
  { groups := (s.groups.filter fun g => g.stand == .resident && !skip g).map (·.core)
    scratch := s.scratchOn skip
    gangs := (s.gangs.filter fun g => g.stand == .resident && !gone g.grp).map fun g =>
      (g.part, 128 * (match s.groups[g.grp]? with | some gr => gr.regs | none => 0))
    accs := s.parts.flatMap fun p => (List.range 2).filterMap fun k =>
      match ((p.2.accs[k]?).bind (·.owner)).bind fun g => s.gangs[g]? with
      | some g => if gone g.grp then none else some (p.1, k)
      | none => none }

/-- The cores on which the dispatcher places (R375): of ready clusters, online. -/
def State.usableCores (s : State) (cl : Nat) : List Nat :=
  if s.clusters.contains cl then (List.range 8).map (8 * cl + ·) |>.filter fun c => !(s.core c).offline else []

/-! ### The order of waiting groups -/

/-- A group that waits to be placed (R357): its key (PRIO, restored or new, readiness, linear id), its node, and the saved
group. -/
structure Waiting where
  prio : Nat
  fresh : Bool
  readyAt : Nat
  lin : Nat
  node : Nat
  saved : Option Nat
  deriving DecidableEq, Repr

/-- The order of R357. -/
def Waiting.before (a b : Waiting) : Bool :=
  if a.prio != b.prio then b.prio < a.prio
  else if a.fresh != b.fresh then b.fresh
  else if a.readyAt != b.readyAt then a.readyAt < b.readyAt
  else a.lin < b.lin

/-- Whether a node may place (R359, R360): the node launched two before it is complete, and its yard has room. -/
def State.mayPlace (s : State) (n : Node) : Bool :=
  !(s.nodes.any fun m => m.ctx = n.ctx && m.k + 2 = n.k && m.stand == .launched)
  && (n.reserved || n.lr.yard = 0 || s.yardUsed n.ctx + 32 * n.lr.yard ≤ (s.ctx n.ctx).yardsize)

/-- The first group of a node that has never been placed. -/
def Node.nextLin (n : Node) : Option Nat :=
  match (List.range (n.placed.length + 1)).find? fun k => !n.placed.contains k with
  | some k => if k < n.lr.total then some k else none
  | none => none

/-- The first saved group of a node, by linear id. -/
def State.firstSaved (s : State) (node : Nat) : Option (Nat × Group) :=
  s.groups.zipIdx.foldl (fun (best : Option (Nat × Group)) e =>
    if e.1.node != node || e.1.stand != .saved then best
    else match best with
      | none => some (e.2, e.1)
      | some b => if e.1.lin < b.2.lin then some (e.2, e.1) else best) none

/-- The waiting groups of a node that come first, saved and new. -/
def State.waitingOf (s : State) (k : Nat) (n : Node) : List Waiting :=
  let c := s.ctx n.ctx
  if n.stand != .launched || !c.active || c.suspend then []
  else
    (match s.firstSaved k with | some (i, g) => [⟨n.lr.prio, false, n.readyAt, g.lin, k, some i⟩] | none => [])
    ++ (match n.nextLin with
        | some l => if s.mayPlace n then [⟨n.lr.prio, true, n.readyAt, l, k, none⟩] else []
        | none => [])

/-- The first group of the order of R357. -/
def State.firstWaiting (s : State) : Option Waiting :=
  (s.nodes.zipIdx.flatMap fun e => s.waitingOf e.2 e.1).foldl (fun (best : Option Waiting) w =>
    match best with | none => some w | some b => if w.before b then some w else best) none

/-- Coordinates of a linear id (R357): x, y, z, stage. -/
def linCoord (lr : LaunchRec) (l : Nat) : Nat × Nat × Nat × Nat :=
  (l % lr.gx, l / lr.gx % lr.gy, l / (lr.gx * lr.gy) % lr.gz, l / (lr.gx * lr.gy * lr.gz))

/-- The linear id of coordinates. -/
def linOf (lr : LaunchRec) (x y z st : Nat) : Nat := ((st * lr.gz + z) * lr.gy + y) * lr.gx + x

/-- The groups of the crews joined with a group that have been placed, by ascending linear id (R32, R33, R368). -/
def State.unitOf (s : State) (lr : LaunchRec) (g : Group) : List (Nat × Group) :=
  let stages := joinedStages lr.queues g.stage
  stages.flatMap fun t => (List.range lr.crew).filterMap fun r =>
    (s.groups.zipIdx.find? fun e =>
      e.1.node = g.node && e.1.stage = t && e.1.y = g.y && e.1.z = g.z && e.1.x = g.x / lr.crew * lr.crew + r).map fun e => (e.2, e.1)

/-- The scratchpad bytes that a group of a saved unit brings back (R45, R165): those of its crew until that is released, and the
storage of the queue instances that stand with it (R33), where a group that uses them comes back. -/
def State.savedScratch (s : State) (g : Group) : Nat :=
  let kept := g.stand == .saved || (match s.crews[g.crew]? with | some c => !c.released | none => false)
  let qs := s.queues.filter fun q => q.decl.cstage = g.stage && (q.decl.scope != 5 || g.rank = 0) && s.sharesQueue q g
    && s.groups.any fun h => s.sharesQueue q h && h.stand == .saved
  (if kept then g.scratch else 0) + (qs.map fun q => 64 + 8 * q.decl.depth).sum

/-- What a saved group asks for (R368). -/
def State.savedSeating (s : State) (lr : LaunchRec) (g : Group) : Seating :=
  let gs := g.members.filterMap fun k => s.gangs[k]?
  let live := gs.filter (·.stand == .saved)
  { stage := g.stage, rank := g.rank, live := g.stand == .saved, scratch := s.savedScratch g,
    regs := 128 * g.regs, offs := live.map fun G => gangOff lr G.idx,
    accs := live.flatMap fun G => G.accs.map fun a => (gangOff lr G.idx, a.1) }

/-- What the unit of a waiting group asks for. -/
def State.seatings (s : State) (w : Waiting) : List Seating :=
  match s.nodes[w.node]? with
  | none => []
  | some n =>
    match w.saved with
    | some i => match s.groups[i]? with | some g => (s.unitOf n.lr g).map fun e => s.savedSeating n.lr e.2 | none => []
    | none => freshUnit n.lr (linCoord n.lr w.lin).2.2.2

/-- The queue declarations of a waiting group's node. -/
def State.waitQueues (s : State) (w : Waiting) : List QDecl := match s.nodes[w.node]? with | some n => n.lr.queues | none => []

/-- Whether a waiting unit fits somewhere beside a load. -/
def State.fitsNow (s : State) (w : Waiting) (l : Load) : Bool :=
  (List.range 24).any fun cl => fitsIn (s.waitQueues w) (s.usableCores cl) (s.seatings w) l []

/-! ### Placement -/

/-- A gang at placement (R35). -/
def newGang (grp idx part : Nat) (entry : DWord) (arrival irr : Nat) : Gang :=
  { grp, idx, part, stand := .resident, v := [], s := [], sv := [], ss := [],
    slices := List.replicate 8 ⟨entry, 0, true, false, 0, 0, none⟩, nest := [], sleep := List.replicate 8 0, super := false,
    aside := [], asideNest := [], asideSleep := [], faultSlices := 0, faultOnce := false, trapcause := 0, trapaddr := 0,
    trapmask := 0, flags := 0, cnt := List.replicate 6 0, pend := [], tail := none, sheds := 0, shedPc := 0, crawl := false,
    crawlCnt := 0, deferred := [], accs := [], hadToken := false, fwait := none, inBar := none, asideBar := none, lastIssue := 0, arrival,
    stalled := false, irr, midway := none }

/-- The token of a partition at a placement (R47): where it is unheld, the gang that held one when it was saved, else the
lower gang of the pair. -/
def State.giveToken (s : State) (p g : Nat) : State :=
  if (s.part p).token.isSome then s else s.updPart p fun P => P.handTo (some g)

/-- The tokens of the partitions a group with PAIRING 1 uses, lowest pair first (R47). The spec does not say who gets an unheld token
when a group is restored of which one gang of a pair has ended: the gang that held it when it was saved comes first, then an even gang
although its partner is gone, and an odd gang that held none never does (DESIGN CHOICE: notes/assumptions 52). -/
def State.giveTokens (s : State) (lr : LaunchRec) (first : Nat) (x : Seat) : State :=
  if lr.pairing != 1 then s
  else
    let gs := (List.range lr.gangs).filter fun k => s.resident (first + k)
    let held := gs.filter fun k => match s.gangs[first + k]? with | some G => G.hadToken | none => false
    (held ++ gs.filter (· % 2 == 0)).foldl (fun s k => s.giveToken (seatPart x (gangOff lr k)) (first + k)) s

/-- One new group (R35, R44): its gangs, its tokens. -/
def State.newGroup (s : State) (node ctx crew : Nat) (lr : LaunchRec) (x y z st rank : Nat) (at_ : Seat) : State :=
  let first := s.gangs.length
  let grp := s.groups.length
  let gr : Group :=
    { ctx, node, x, y, z, stage := st, lin := linOf lr x y z st, stand := .resident, core := at_.core, p0 := at_.p0, mode := 0,
      promo := 16, xt := List.replicate 16 Xt.none, slots := lr.slots, bars := List.replicate 16 Barrier.idle, crew, rank,
      first, gangs := lr.gangs, regs := lr.regs, scratch := lr.scratch, placedAt := s.stamp, leaving := false }
  let gs := (List.range lr.gangs).map fun k => newGang grp k (seatPart at_ (gangOff lr k)) (BitVec.ofNat 64 lr.entry) (s.stamp + k) s.stamp
  ({ s with
    groups := s.groups ++ [gr], gangs := s.gangs ++ gs, stamp := s.stamp + lr.gangs }).giveTokens lr first at_

/-- The queue instances whose consumer is a new group (R33, R35): empty. -/
def State.newQueues (s : State) (node : Nat) (lr : LaunchRec) (x y z st rank core : Nat) : State :=
  { s with queues := s.queues ++ (lr.queues.filter fun q => q.cstage = st && (q.scope != 5 || rank = 0)).map fun q =>
      { node, decl := q, x := if q.scope = 5 then x / lr.crew else x, y, z, core, entries := [], blocked := [] } }

/-- The new groups of one crew (R31, R32), rank by rank. -/
def State.newCrew (s : State) (node ctx : Nat) (lr : LaunchRec) (x0 y z st : Nat) (seats : List Seat) : State :=
  let crew := s.crews.length
  let base := s.groups.length
  let s := { s with crews := s.crews ++ [⟨(List.range seats.length).map (base + ·), List.replicate 8 Barrier.idle, false⟩] }
  ((List.range seats.length).zip seats).foldl (fun s e =>
    (s.newGroup node ctx crew lr (x0 + e.1) y z st e.1 e.2).newQueues node lr (x0 + e.1) y z st e.1 e.2.core) s

/-- A new unit is placed (R357): its yard reserved (R360), every crew, the linear ids noted. -/
def State.placeFresh (s : State) (k : Nat) (n : Node) (lin : Nat) (seats : List Seat) : State :=
  let lr := n.lr
  let (x, y, z, st) := linCoord lr lin
  let x0 := x / lr.crew * lr.crew
  let stages := joinedStages lr.queues st
  let s := ((List.range stages.length).zip stages).foldl (fun s e =>
    s.newCrew k n.ctx lr x0 y z e.2 ((seats.drop (lr.crew * e.1)).take lr.crew)) s
  let lins := stages.flatMap fun t => (List.range lr.crew).map fun r => linOf lr (x0 + r) y z t
  s.updNode k fun n => { n with reserved := n.reserved || lr.yard != 0, placed := lins.foldl insNat n.placed }

/-- A saved gang resident again (R368): it is placed anew (R44), so its fetches see the stores performed until now (R193). -/
def Gang.restore (g : Gang) (part arrival : Nat) : Gang :=
  if g.stand = .saved then { g with stand := .resident, part, arrival, irr := arrival, lastIssue := 0, stalled := false } else g

/-- The accumulators of a restored gang return to its partition (R288). -/
def State.restoreAccs (s : State) (g : Nat) : State :=
  match s.gangs[g]? with
  | none => s
  | some G =>
    (s.updPart G.part fun P => { P with accs := G.accs.foldl (fun l a => updAt l a.1 fun _ => { a.2 with owner := some g }) P.accs }).updGang g
      fun G => { G with accs := [] }

/-- The bytes of a save block (R367). -/
def saveBytes (gr : Group) : Nat := (8192 + gr.gangs * (8192 + gr.regs * 128 + 65536) + gr.scratch + 4095) / 4096 * 4096

/-- Where the vector registers of gang `k`, and the scratchpad, stand in a save block (R367): the parts in the order of its table, gang
by gang (DEDUCED: notes/assumptions 33). -/
def saveGangAt (gr : Group) (k : Nat) : Nat := 8192 + k * (8192 + gr.regs * 128 + 65536) + 8192
def saveScratchAt (gr : Group) : Nat := 8192 + gr.gangs * (8192 + gr.regs * 128 + 65536)

/-- The page of a save block's part, as an ordinary store of the group finds it (R225, R367): none where that would fail, with the
record of a malformed entry (R173). -/
def State.savePage (s : State) (gr : Group) (va : Nat) : Option Xlat × State :=
  if crewBase ≤ va then (none, s)
  else match s.walk gr.ctx va with
    | (.leaf l, s) => (match (s.ctx gr.ctx).permit l va (l.frame + va % l.size) true false false with | .ok x => some x | .error _ => none, s)
    | (.malformed pte, s) => (none, match s.gangs[gr.first]? with | some G => s.recordWalk G.part gr.ctx G.grp pte | none => s)
    | (_, s) => (none, s)

/-- Some bytes of a save block, from an address on, with those of its poisoned words free: what a restore takes from a word that cannot be
read the spec does not say (notes/assumptions 33). -/
def State.saveWords (s : State) (pa n : Nat) : List Byte × State :=
  (s.poison.filter fun w => pa ≤ 4 * w && 4 * w + 4 ≤ pa + n).foldl (fun r w =>
    let (f, s) := r.2.drawBytes 4
    (r.1.take (4 * w - pa) ++ f ++ r.1.drop (4 * w - pa + 4), s)) (stDense (w := 8) s.mem pa n, s)

/-- The same through a core's window, line by line (R179), those of host and peer memory over the link (R373): free bytes where the read of
a line fails. -/
def State.saveLines (s : State) (core hint pa n : Nat) : List Byte × State :=
  (List.range ((pa + n - 1) / 128 - pa / 128 + 1)).foldl (fun r k =>
    let lo := max pa (128 * (pa / 128 + k))
    let m := min (pa + n) (128 * (pa / 128 + k) + 128) - lo
    match r.2.readWindow core hint lo m with
    | (some bs, s) => (r.1 ++ bs, s)
    | (none, s) => let (f, s) := s.drawBytes m; (r.1 ++ f, s)) ([], s)

/-- A part of a save block read back by the core on which its group stands, where it lies on pages that are neither mapped nor discarded;
the read waits at its home slices (R348, R375). -/
def State.saveRead (s : State) (gr : Group) (va n : Nat) : Option (List Byte) × State :=
  (unitsOf va n).foldl (fun (a : Option (List Byte) × State) u =>
    match a with
    | (none, s) => (none, s)
    | (some bs, s) =>
      let k := u.2 + 1 - u.1
      match s.savePage gr u.1 with
      | (none, s) => (none, s)
      | (some x, s) =>
        if x.leaf.mapped || leafDiscard s.mem x.leaf then (none, s)
        else
          let s := s.needReady (!s.held x.pa k)
          let (part, s) := if x.window then s.saveLines gr.core x.leaf.hint x.pa k else s.saveWords x.pa k
          (some (bs ++ part), s)) (some [], s)

/-- Bytes as words, the lowest byte first. -/
def wordList : List Byte → List Word
  | a :: b :: c :: d :: r => (d ++ c ++ b ++ a) :: wordList r
  | _ => []

/-- A scratchpad of `n` bytes as a list, from the place at which group `i`'s stands. -/
def State.scratchBytes (s : State) (i n : Nat) : List Byte := stDense (w := 8) s.mem (Config.scratchBase i) n

/-- No core holds a word of group `i`'s scratchpad modified: it stands on none. -/
def State.disown (s : State) (i : Nat) : State :=
  { s with owner := s.owner.filter fun e => e.1 < Config.scratchBase i / 4 || (Config.scratchBase i + 2 ^ 21) / 4 ≤ e.1 }

/-- The bytes of a restored scratchpad: a byte that an operation outstanding at the save wrote since then keeps its value (R190, R192,
R326), every other one comes from the block (R166). -/
def mergeScratch : List Byte → List Byte → List Byte → List Byte
  | now :: ns, old :: os, blk :: bs => (if now = old then blk else now) :: mergeScratch ns os bs
  | ns, _, _ => ns

/-- A group's vector registers and its scratchpad come back from its save block (R166, R367, R368): what the model cannot read back
there, and the parts whose layout the spec does not give, stand in the state as they were saved (notes/assumptions 33). -/
def State.readSave (s : State) (i save : Nat) : State :=
  match s.groups[i]? with
  | none => s
  | some gr =>
    let base := save + gr.lin * saveBytes gr
    if gr.stand = .ended && (match s.crews[gr.crew]? with | some c => c.released | none => true) then s else
    let s := gr.members.foldl (fun s g =>
      match s.gangs[g]? with
      | some G =>
        if G.stand = .ended then s
        else match s.saveRead gr (base + saveGangAt gr G.idx) (128 * gr.regs) with
          | (some bs, s) => s.updGang g fun G => { G with v := stSparse (wordList bs) 0 }
          | (none, s) => s
      | none => s) s
    let old := stBytes (tabGet s.images [] i) gr.scratch
    let s := { s.disown i with images := s.images.filter fun e => e.1 != i }
    match s.saveRead gr (base + saveScratchAt gr) gr.scratch with
    | (some bs, s) => { s with mem := memPut s.mem (Config.scratchBase i) (mergeScratch (s.scratchBytes i gr.scratch) old bs) }
    | (none, s) => s

/-- The window copies of a core's L1 go back to their homes, and those of host and peer memory at the slices of its die to that memory:
a group that is restored elsewhere finds them there, and reads no older copy on its new core (R199, R200, R329). -/
def State.flushWindows (s : State) (core : Nat) : State :=
  let mine := (s.l1win.filter (·.unit == core)).map (·.line)
  let s := mine.foldl (fun s k => (s.writeback1 core k).dropL1 core k) s
  let far := s.l2win.filter fun c => c.unit / 64 = dieOf core && isFar (128 * c.line)
  far.foldl (fun s c => (s.writeback2 c.unit c.line).dropL2 c.unit c.line) s

/-- One saved group takes its seat (R368): its queue storage moves with it. -/
def State.restoreGroup (s : State) (i : Nat) (lr : LaunchRec) (x : Seat) : State :=
  match s.groups[i]? with
  | none => s
  | some gr =>
    let s := (s.flushWindows x.core).updGroup i fun gr =>
      { gr with core := x.core, p0 := x.p0, placedAt := s.stamp, stand := if gr.stand = .saved then .resident else gr.stand }
    let s := gr.members.foldl (fun s g =>
      match s.gangs[g]? with
      | some G =>
        if G.stand = .saved then
          ({ s.updGang g fun G => G.restore (seatPart x (gangOff lr G.idx)) s.stamp with stamp := s.stamp + 1 }).restoreAccs g
        else s
      | none => s) s
    let s := { s with queues := s.queues.map fun (q : Queue) =>
        if s.sharesQueue q gr && q.decl.cstage = gr.stage && (q.decl.scope != 5 || gr.rank = 0) then { q with core := x.core } else q }
    let s := (s.giveTokens lr gr.first x).readSave i lr.save
    gr.members.foldl (fun s g => s.updGang g fun G => { G with hadToken := false }) s

/-- A core gives back the granules that its L1 has borrowed and that a placement needs (R184). -/
def State.reclaimed (s : State) (core : Nat) : State := State.reclaim core (s.l1.length + s.l1win.length) s

/-- The meaning of PLACE_GROUP (R184, R357, R368): the first waiting unit takes the seats given, when they fit. -/
def execPlaceGroup (at_ : List Seat) (s : State) : Host.Outcome State Fault Refusal :=
  .next (match s.firstWaiting with
    | none => s
    | some w =>
      match s.nodes[w.node]? with
      | none => s
      | some n =>
        if !(at_.all fun x => (s.usableCores (clusterOf x.core)).contains x.core)
           || !seatsOk (s.waitQueues w) (s.seatings w) at_ (s.onCores fun _ => false) [] then s
        else
          let s := match w.saved with
            | none => s.placeFresh w.node n w.lin at_
            | some i => match s.groups[i]? with
              | some g => ((s.unitOf n.lr g).zip at_).foldl (fun s e => s.restoreGroup e.1.1 n.lr e.2) s
              | none => s
          at_.foldl (fun s x => s.reclaimed x.core) s)

/-! ### Pre-emption -/

/-- Whether a group can be pre-empted for a waiting one (R358): resident, with a save area, of a lower PRIO. -/
def State.victim (s : State) (prio : Nat) (g : Group) : Bool :=
  g.stand == .resident && match s.nodes[g.node]? with | some n => n.lr.save != 0 && n.lr.prio < prio | none => false

/-- The units that can be pre-empted for a waiting one (R166, R358): PRIO, when placed, and their groups by first gang, which says
which group it is. -/
def State.victimUnits (s : State) (prio : Nat) : List (Nat × Nat × List Nat) :=
  (s.groups.filterMap fun g =>
    match s.nodes[g.node]? with
    | some n => if s.victim prio g then some (n.lr.prio, g.placedAt, (s.unitOf n.lr g).map (·.2.first)) else none
    | none => none).foldl (fun l u => if l.any fun (v : Nat × Nat × List Nat) => v.2.2 == u.2.2 then l else l ++ [u]) []

/-- The order of R358: the lowest PRIO first, among equals the most recently placed. -/
def insVictim (x : Nat × Nat × List Nat) : List (Nat × Nat × List Nat) → List (Nat × Nat × List Nat)
  | [] => [x]
  | y :: r => if x.1 < y.1 || (x.1 = y.1 && y.2.1 ≤ x.2.1) then x :: y :: r else y :: insVictim x r

/-- What stands on the cores without some units. -/
def State.without (s : State) (us : List (Nat × Nat × List Nat)) : Load := s.onCores fun g => us.any fun u => u.2.2.contains g.first

/-- The units of a list whose removal a waiting unit needs: from the last of the first list on, one that it fits without stays. -/
def State.needed (s : State) (w : Waiting) : List (Nat × Nat × List Nat) → List (Nat × Nat × List Nat) → List (Nat × Nat × List Nat)
  | [], us => us
  | u :: r, us =>
    let less := us.filter (· != u)
    s.needed w r (if s.fitsNow w (s.without less) then less else us)

/-- The units that are pre-empted for a waiting one, in order (R358): none where it fits now, or would not fit without them. Where
several sets would do, those of higher PRIO, or placed earlier, stay (DESIGN CHOICE: notes/assumptions 58). -/
def State.victims (s : State) (w : Waiting) : List (Nat × Nat × List Nat) :=
  let us := (s.victimUnits w.prio).foldr insVictim []
  if s.fitsNow w (s.without []) || !s.fitsNow w (s.without us) then [] else s.needed w us.reverse us

/-- Whether the first waiting group asks for the pre-emption of a group (R358): it is of the first unit that has not begun to leave. -/
def State.asksFor (s : State) (i : Nat) : Bool :=
  match s.firstWaiting, s.groups[i]? with
  | some w, some g =>
    (match (s.victims w).find? fun u => !(s.groups.any fun x => u.2.2.contains x.first && x.leaving) with
     | some u => u.2.2.contains g.first
     | none => false)
  | _, _ => false

/-- A gang stops for a pre-emption (R217, R363, R367): its tail sheds, crawl ends, it leaves the stages, where others move up, and the
faulting lanes of a gathered fault replay after the restore. -/
def State.stopGang (s : State) (g : Nat) : State :=
  if !s.resident g then s
  else
    (((s.shed g true).unwait g).updGang g fun G =>
      let G := match G.fwait with | some w => G.replayFault w.trap | none => G
      { G.endCrawl with fwait := none, sheds := 0 }).gather

/-- Whether an operation of a gang still has to drain before the save (R367): every class but rd, and bk not where the context
leaves with a bank save area (R368). -/
def State.drains (s : State) (o : AsyncOp) : Bool :=
  let c := s.ctx o.ctx
  o.cls != 5 && (o.cls != 4 || !(c.suspend && c.bksave != 0))

/-- Whether a group has drained (R367). -/
def State.drained (s : State) (gr : Group) : Bool :=
  gr.members.all fun g =>
    (s.ops.all fun o => o.gang != g || !s.drains o)
    && match s.gangs[g]? with | some G => !((s.part G.part).mq.any (·.gang == g)) | none => true

/-- The contents of a save block (R166, R367): the vector registers of each gang and the scratchpad; free bytes where the spec does not
give the layout (notes/assumptions 33). -/
def State.saveImage (s : State) (i : Nat) (gr : Group) : List Byte × State :=
  let (hdr, s) := s.drawBytes 8192
  let (body, s) := gr.members.foldl (fun (a : List Byte × State) g =>
    let (one, s) := a.2.drawBytes 8192
    let vs := match s.gangs[g]? with
      | some G => (stDense G.v 0 (32 * gr.regs)).flatMap fun w => leBytes 4 w.toNat
      | none => List.replicate (128 * gr.regs) 0
    let (acc, s) := s.drawBytes 65536
    (a.1 ++ one ++ vs ++ acc, s)) (hdr, s)
  let (pad, s) := s.drawBytes (saveBytes gr - saveScratchAt gr - gr.scratch)
  (body ++ s.scratchBytes i gr.scratch ++ pad, s)

/-- The save block of a group is written as ordinary stores, wherever they fall (R367); its scratchpad then stands on no core. -/
def State.writeSave (s : State) (i save : Nat) : State :=
  match s.groups[i]? with
  | none => s
  | some gr =>
    let base := save + gr.lin * saveBytes gr
    let (bs, s) := s.saveImage i gr
    let s := { s.disown i with images := tabSet s.images i (stSparse (s.scratchBytes i gr.scratch) 0) }
    (unitsOf base (saveBytes gr)).foldl (fun s u =>
      match s.savePage gr u.1 with
      | (some x, s) =>
        let part := (bs.drop (u.1 - base)).take (u.2 + 1 - u.1)
        s.performStores gr.first gr.core (fun l => l.hint) [x] ((List.range part.length).zip part |>.map fun e => (x.pa + e.1, e.2))
      | (none, s) => s) s

/-- Whether a store of a save block would wait at its home slice (R348, R375). -/
def State.saveHeld (s : State) (gr : Group) (save : Nat) : Bool :=
  (unitsOf (save + gr.lin * saveBytes gr) (saveBytes gr)).any fun u =>
    match (s.savePage gr u.1).1 with
    | some x => s.heldAny [x] (u.2 + 1 - u.1)
    | none => false

/-- A gang is saved (R288, R367): the accumulators it owns and its token go with it. -/
def State.saveGang (s : State) (g : Nat) : State :=
  match s.gangs[g]? with
  | none => s
  | some G =>
    if G.stand != .resident then s
    else
      let P := s.part G.part
      let own := ((List.range 2).zip P.accs).filter fun a => a.2.owner == some g
      let s := s.setPart G.part
        { (if P.token = some g then P.handTo none else P) with accs := P.accs.map fun a => if a.owner = some g then Acc.zero else a }
      s.updGang g fun G => { G with stand := .saved, accs := own, hadToken := P.token == some g }

/-- A group is released once its block is written (R367, step 6). -/
def State.saveGroup (s : State) (i : Nat) : State :=
  match s.groups[i]? with
  | none => s
  | some gr =>
    if gr.stand != .resident then s
    else ((gr.members.foldl State.saveGang s).flushWindows gr.core).updGroup i fun gr => { gr with stand := .saved, leaving := false }

/-- A unit is saved (R166, R367, steps 5 and 6): a block for each member, those that have ended with their scratchpad among them. -/
def State.saveUnit (s : State) (unit : List (Nat × Group)) (save : Nat) : State :=
  let s := (unit.filter fun e => s.keepsScratch e.2).foldl (fun s e => s.writeSave e.1 save) s
  unit.foldl (fun s e => s.saveGroup e.1) s

/-- Whether a gang has a word of which some lanes have still to act. -/
def State.midWord (s : State) (g : Nat) : Bool := match s.gangs[g]? with | some G => G.midway.isSome | none => false

/-- The meaning of PREEMPT_GROUP (R358, R366 to R368): the unit of the group stops issuing when a waiting group asks for it
or its context leaves the device; when it has drained, it is saved. -/
def execPreemptGroup (i : Nat) (s : State) : Host.Outcome State Fault Refusal :=
  .next (match s.groups[i]? with
    | none => s
    | some g =>
      match s.nodes[g.node]? with
      | none => s
      | some n =>
        let all := s.unitOf n.lr g
        let unit := all.filter fun e => e.2.stand == .resident
        if g.stand != .resident || n.lr.save = 0 then s
        else if g.leaving then
          if (unit.all fun e => s.drained e.2) && !(all.any fun e => s.keepsScratch e.2 && s.saveHeld e.2 n.lr.save) then s.saveUnit all n.lr.save
          else s
        else if unit.any fun e => e.2.members.any s.midWord then s
        else if (s.ctx g.ctx).suspend || s.asksFor i then
          unit.foldl (fun s e => (e.2.members.foldl State.stopGang s).updGroup e.1 fun g => { g with leaving := true }) s
        else s)

end Sys2Proof.Machine
end

