-- ==== Sys2Proof/Machine/Stage.lean ====
section
/-! DEFINITION. The cluster's fault stage and the host's fault ring (R362 to R365): the stage's walk, first touch,
escalation into the ring at FAULTQ, and the host's answers. -/
namespace Sys2Proof.Machine

/-- The entry in a slot of a cluster's stage. -/
def State.stageAt (s : State) (cl e : Nat) : Option StageEntry := s.stages.find? fun x => x.cluster = cl && x.slot = e

/-- One stage entry changed. -/
def State.updStage (s : State) (cl e : Nat) (f : StageEntry → StageEntry) : State :=
  { s with stages := s.stages.map fun x => if x.cluster = cl && x.slot = e then f x else x }

/-- A wait's unit settled: 1 resolved, 2 failed (R363). -/
def FaultWait.settleUnit (w : FaultWait) (unit st : Nat) : FaultWait :=
  { w with units := w.units.map fun (u : Nat × BitVec 32 × Nat) => if u.1 = unit && u.2.2 = 0 then (u.1, u.2.1, st) else u }

/-- The entry is over (R362, R363): it leaves the stage and the filters below it, and its gangs settle the unit. -/
def State.endEntry (s : State) (e : StageEntry) (st : Nat) : State :=
  let s := { s with
    stages := s.stages.filter fun (x : StageEntry) => !(x.cluster = e.cluster && x.slot = e.slot)
    filters := s.filters.filter fun (f : FilterEntry) => !(clusterOf f.core = e.cluster && f.ctx = e.ctx && f.unit = e.unit) }
  let s := e.waiters.foldl (fun s g =>
    (s.updGang g fun G => { G with fwait := G.fwait.map fun (w : FaultWait) => w.settleUnit e.unit st }).settleWait g) s
  s.gather

/-- The stage's walk for an entry (R362): an entry that is valid now, or malformed, sends its waiters back to their access;
an invalid one is mapped at first touch, else escalates (a second time after a retry, R363). -/
def State.walkEntry (s : State) (e : StageEntry) : State :=
  match s.walk e.ctx e.unit with
  | (.invalid _ _, s) =>
    if s.pgmapHeld e.ctx e.unit then s else
    let (f, s) := s.pgmap e.ctx e.unit
    if f != 0 then s.endEntry e 1
    else s.updStage e.cluster e.slot fun x => { x with escalate := true, posted := false }
  | (_, s) => s.endEntry e 1

/-- The meaning of FAULT_STAGE_WALK (R362). -/
def execFaultStageWalk (cl e : Nat) (s : State) : Host.Outcome State Fault Refusal :=
  .next (match s.stageAt cl e with
    | none => s
    | some x => if x.escalate then s else s.walkEntry x)

/-! ### The fault ring -/

/-- The elements of an operation that wait on an entry (R365): deferred, in its unit. -/
def Elem.waitsOn (unit : Nat) : Elem → Bool
  | .red va none _ => va / 65536 * 65536 = unit
  | .merge va none _ _ _ => va / 65536 * 65536 = unit
  | _ => false

/-- WAITERS of an entry (R363): gangs and deferred lanes. -/
def State.waitCount (s : State) (e : StageEntry) : Nat :=
  e.waiters.length
  + (e.defers.map fun id => match s.op id with | some o => (o.elems.filter (Elem.waitsOn e.unit)).length | none => 0).sum

/-- The 32 bytes of a ring entry (R363). -/
def State.ringEntry (s : State) (e : StageEntry) : List Byte :=
  leBytes 8 e.unit ++ leBytes 2 (e.acc % 16) ++ leBytes 2 (s.waitCount e) ++ leBytes 2 (e.cluster * 256 + e.slot) ++ leBytes 18 0

/-- Whether TAIL is out of range for HEAD (R364). -/
def tailBad (head tail : Nat) : Bool := head < tail || tail + 8192 < head

/-- One escalated entry is written when the ring has room (R363, R364); the answer says whether it was. -/
def State.postEntry (s : State) (e : StageEntry) : Bool × State :=
  let q := (s.ctx e.ctx).faultq
  let head := memNat s.mem q 8
  let tail := memNat s.mem (q + 8) 8
  if s.held q 16 then (false, s)
  else if tailBad head tail then (false, s.logErr e.ctx 9 .length 0 (unitCode 3 e.cluster) (q + 8) 0)
  else if head - tail = 8192 then (false, s)
  else
    let at_ := q + 64 + 32 * (head % 8192)
    if s.held at_ 32 then (false, s)
    else
      let s := s.writeMem none none ((List.range 32).zip (s.ringEntry e) |>.map fun b => (at_ + b.1, b.2))
      let s := s.writeNat none none q 8 ((head + 1) % 2 ^ 64)
      (true, (s.updStage e.cluster e.slot fun x => { x with posted := true }).raise e.ctx 1)

/-- Entries are written in turn while the ring has room (R364). -/
def State.postAll (s : State) : List StageEntry → State
  | [] => s
  | e :: r => match s.postEntry e with | (true, s) => s.postAll r | (false, s) => s

/-- The escalated entries of a context that the host has not been told of. -/
def State.unposted (s : State) (c : Nat) : List StageEntry := s.stages.filter fun e => e.ctx = c && e.escalate && !e.posted

/-- The meaning of FAULT_ESCALATE (R363). -/
def execFaultEscalate (cl e : Nat) (s : State) : Host.Outcome State Fault Refusal :=
  .next (match s.stageAt cl e with
    | none => s
    | some x => if x.escalate && !x.posted then (s.postEntry x).2 else s)

/-- The meaning of FAULT_RING_POLL (R364). -/
def execFaultRingPoll (c : Nat) (s : State) : Host.Outcome State Fault Refusal := .next (s.postAll (s.unposted c))

/-! ### The host's answers -/

/-- The entry that a write of RESOLVE answers (R363): of the context, and told to the host. -/
def State.answered (s : State) (c id : Nat) : Option StageEntry :=
  match s.stageAt (id / 256) (id % 256) with
  | some e => if e.ctx = c && e.posted then some e else none
  | none => none

/-- RESOLVE with ACTION 0 (R363): TAIL is read again, the entry walks again. -/
def State.resolveRetry (s : State) (c id : Nat) : State :=
  let s := s.postAll (s.unposted c)
  match s.answered c id with
  | some e => s.walkEntry e
  | none => s

/-- The deferred elements of an operation in a unit are dropped (R365). -/
def State.dropDeferred (s : State) (cl unit id : Nat) : State :=
  match s.op id with
  | none => s
  | some o =>
    let at_ := ((List.range o.elems.length).filter fun k => match o.elems[k]? with | some e => e.waitsOn unit | none => false).reverse
    at_.foldl (fun s k =>
      let va := match o.elems[k]? with | some (.red va _ _) => va | some (.merge va _ _ _ _) => va | _ => 0
      s.dropFar o k .pagefault (unitCode 3 cl) va) s

/-- RESOLVE with ACTION 1 (R363, R365): the wait ends with a failure. -/
def State.resolveFail (s : State) (c id : Nat) : State :=
  let s := s.postAll (s.unposted c)
  match s.answered c id with
  | some e => (e.defers.foldl (fun s o => s.dropDeferred e.cluster e.unit o) s).endEntry e 2
  | none => s

/-- The meaning of RESOLVE_RETRY (R363). -/
def execResolveRetry (c id : Nat) (s : State) : Host.Outcome State Fault Refusal := .next (s.resolveRetry c id)

/-- The meaning of RESOLVE_FAIL (R363, R365). -/
def execResolveFail (c id : Nat) (s : State) : Host.Outcome State Fault Refusal := .next (s.resolveFail c id)

end Sys2Proof.Machine
end

