-- ==== Sys2Proof/Machine/Host.lean ====
section
/-! DEFINITION. The host's register blocks (R352, R353), activation, teardown and suspension of contexts (R352, R368), and
the accesses of the host and of peers to device memory (R371, R374). -/
namespace Sys2Proof.Machine

/-! ### Registers of a context -/

/-- Whether a function reaches a context's block (R370, R371): 0 is the physical function, k virtual function k. -/
def State.reaches (s : State) (fn c : Nat) : Bool :=
  c < 64 && if fn = 0 then !s.vfOwns c else fn = c + 1 && s.vfOwns c

/-- SUBFREE (R352). -/
def Context.subfree (c : Context) : Nat := if c.active then 1024 - c.queued else 0

/-- CTXCTL as the host reads it (R352). -/
def Context.ctl (c : Context) : Nat := boolNat c.suspended * 4 + boolNat c.suspend * 2 + boolNat c.active

/-- A write of SUBMIT of one of the 64 contexts (R1, R352): ignored while the context is inactive; a reserved bit, or a full queue, is
recorded. -/
def State.hostSubmit (s : State) (c : Nat) (x : DWord) : State :=
  let v := x.toNat
  if 64 ≤ c || !(s.ctx c).active then s
  else if bitsOf v 63 57 != 0 || bitsOf v 7 0 != 0 then s.logGraph c .illop 0 v 0
  else if (s.ctx c).subfree = 0 then s.logGraph c .length 0 v 0
  else s.submit c v .host

/-- The meaning of SUBMIT (R352). -/
def execSubmit (c : Nat) (x : DWord) (s : State) : Host.Outcome State Fault Refusal := .next (s.hostSubmit c x)

/-! ### Activation -/

/-- Whether a context record is accepted (R353): no reserved byte, aligned addresses, and values that CWR would accept. -/
def ctxRecOk (bs : List Byte) : Bool :=
  let f := recField bs
  f 0x58 40 = 0 && f 0x180 128 = 0 && f 0 8 % 8192 = 0 && f 0x38 8 % 4096 = 0 && f 0x40 8 % 4096 = 0 && f 0x48 8 % 4096 = 0
  && (List.range 4).all (fun k => ctxRegOk (0x10 + k) (f (0x10 + 8 * k) 8)) && ctxRegOk 0x15 (f 0x30 8)
  && (List.range 32).all fun k => ctxRegOk (0x20 + k) (f (0x80 + 8 * k) 8)

/-- The context that a record loads (R353). -/
def Context.load (c : Context) (bs : List Byte) : Context :=
  let f := recField bs
  let w (o : Nat) : DWord := BitVec.ofNat 64 (f o 8)
  { c with
    active := true, suspended := false, torn := false, root := f 0 8, trapvec := w 8, kvbase := w 0x10, kvpool := w 0x18, framepool := w 0x20,
    rotbase := w 0x28, errlog := w 0x30, faultq := f 0x38 8, yardbase := f 0x40 8, yardsize := f 0x48 8, bksave := f 0x50 8,
    ncwin := stSetAll [] ((List.range 32).map fun k => (k, w (0x80 + 8 * k))), queue := [], launched := 0, waitYards := [] }

/-- Whether a record can be read: populated, not poisoned (R169, R186). -/
def State.recReadable (s : State) (pa n : Nat) : Bool :=
  (paTier pa = some 0 || paTier pa = some 1) && !((List.range (n / 4)).any fun k => s.isPoisoned (pa / 4 + k))

/-- ACTIVE from 0 to 1 of one of the 64 contexts (R1, R353, R376): Lamgil has verified its images, the record is read, its values loaded. -/
def State.activate (s : State) (c : Nat) : State :=
  let pa := (s.ctx c).ctxrec.toNat
  let bs := memBytes s.mem pa 512
  if 64 ≤ c || !s.lamgil || (s.ctx c).active || s.held pa 512 then s
  else if !s.recReadable pa 512 || !ctxRecOk bs then s.logGraph c .illop 0 pa 0
  else { s.updCtx c fun x => x.load bs with tlb := s.tlb.filter fun e => e.ctx != c }

/-- The meaning of CTXCTL_ACTIVATE (R353). -/
def execCtxctlActivate (c : Nat) (s : State) : Host.Outcome State Fault Refusal := .next (s.activate c)

/-! ### Teardown -/

/-- ACTIVE from 1 to 0 (R352): the groups of the context end, its nodes never complete, queued nodes and waiting yards are
dropped; operations in flight go on. -/
def State.teardown (s : State) (c : Nat) : State :=
  if !(s.ctx c).active then s
  else
    let gs := (s.groups.zipIdx.filter fun e => e.1.ctx = c && e.1.stand != .ended).map (·.2)
    let s := gs.foldl State.endGroup s
    let s := s.updCtx c fun x => { x with active := false, suspended := false, torn := true, queue := [], waitYards := [] }
    State.gather { s with
      groups := s.groups.map fun (g : Group) => if g.ctx = c then { g with leaving := false } else g
      nodes := s.nodes.map fun (n : Node) => if n.ctx = c && n.stand == .launched then { n with stand := .torn, yard := [] } else n
      stages := s.stages.filter fun e => e.ctx != c || !e.defers.isEmpty }

/-- The meaning of CTXCTL_TEARDOWN (R352). -/
def execCtxctlTeardown (c : Nat) (s : State) : Host.Outcome State Fault Refusal := .next (s.teardown c)

/-! ### Suspension -/

/-- SUSPEND with its new value: SUSPENDED is 0 again, but for a context that has been torn down and has left the device (R352). -/
def Context.withSuspend (x : Context) (b : Bool) : Context := { x with suspend := b, suspended := !x.active && x.suspended }

/-- SUSPEND set (R367, R368): no group of the context is placed, and its groups may be pre-empted. -/
def State.setSuspend (s : State) (c : Nat) : State :=
  if (s.ctx c).suspend then s else s.updCtx c fun x => x.withSuspend true

/-- SUSPEND cleared (R368): saved groups and bank items are eligible again. -/
def State.clearSuspend (s : State) (c : Nat) : State :=
  if (s.ctx c).suspend then s.updCtx c fun x => x.withSuspend false else s

/-- The meaning of CTXCTL_SUSPEND (R368). -/
def execCtxctlSuspend (c : Nat) (s : State) : Host.Outcome State Fault Refusal := .next (s.setSuspend c)

/-- The meaning of CTXCTL_RESUME (R368). -/
def execCtxctlResume (c : Nat) (s : State) : Host.Outcome State Fault Refusal := .next (s.clearSuspend c)

/-- Whether bank work of a context stands on the device (R352, R368): with a bank save area, only an item that runs. -/
def State.bankWorkLeft (s : State) (c : Nat) : Bool :=
  s.cmds.any fun d => d.ctx = c && (!s.bankLeaves c || s.items.any fun it => it.cmd = d.id && it.stand == .running)

/-- Whether a group, bank work or another operation of a context is on the device (R352, R368). -/
def State.workLeft (s : State) (c : Nat) : Bool :=
  (s.groups.any fun g => g.ctx = c && g.stand == .resident) || s.bankWorkLeft c
  || s.ops.any fun o => o.ctx = c && o.cls != 4 && !o.over

/-- The bytes of a bank save area (R353). -/
def bankSaveBytes : Nat := 40 * 2 ^ 20

/-- Whether bank items of a context go into its save area (R368). -/
def State.savesBank (s : State) (c : Nat) : Bool := (s.cmds.any fun d => d.ctx = c) && s.bankLeaves c

/-- The suspended bank items of a context go into its save area (R367, R368), as bytes that the model leaves free. -/
def State.saveBank (s : State) (c : Nat) : State :=
  if s.savesBank c then
    let (bs, s) := s.drawBytes bankSaveBytes
    s.writeMem none none ((List.range bs.length).zip bs |>.map fun e => ((s.ctx c).bksave + e.1, e.2))
  else s

/-- The meaning of CONTEXT_SUSPENDED (R352, R368): SUSPENDED becomes 1 when a context that was torn down, or that SUSPEND takes off the
device, has no work there; the save area must be ready (R375) and free. -/
def execContextSuspended (c : Nat) (s : State) : Host.Outcome State Fault Refusal :=
  .next (if !(s.ctx c).torn && !(s.ctx c).suspend || (s.ctx c).suspended || s.workLeft c
      || (s.savesBank c && s.held (s.ctx c).bksave bankSaveBytes) then s
    else (s.saveBank c).updCtx c fun x => { x with suspended := true, torn := false })

/-! ### Register writes -/

/-- A write of CTXREC (R352): refused values are recorded; ignored while the context is active. -/
def State.writeCtxrec (s : State) (c : Nat) (x : DWord) : State :=
  if bitsOf x.toNat 8 0 != 0 || bitsOf x.toNat 63 52 != 0 then s.logGraph c .illop 0 x.toNat 0
  else if (s.ctx c).active then s
  else s.updCtx c fun k => { k with ctxrec := x }

/-- A write of CTXCTL (R352): SUSPEND and ACTIVE take their new values. -/
def State.writeCtxctl (s : State) (c : Nat) (x : DWord) : State :=
  if bitsOf x.toNat 63 3 != 0 then s.logGraph c .illop 0 x.toNat 0
  else
    let s := if x.getLsbD 1 then s.setSuspend c else s.clearSuspend c
    if x.getLsbD 0 then s.activate c else s.teardown c

/-- A write of RESOLVE (R352, R363). -/
def State.writeResolve (s : State) (c : Nat) (x : DWord) : State :=
  let id := bitsOf x.toNat 15 0
  if bitsOf x.toNat 63 18 != 0 then s.logGraph c .illop 0 x.toNat 0
  else match bitsOf x.toNat 17 16 with
    | 0 => s.resolveRetry c id
    | 1 => s.resolveFail c id
    | _ => s.postAll (s.unposted c)

/-- A write of a word of the mailbox (R372, R377): the request word is not written while a request stands. -/
def State.writeMailbox (s : State) (off : Nat) (x : DWord) : State :=
  let o := off / 4 * 4
  let old := leNat ((List.range 4).map fun k => stGet s.mailbox k)
  if 4096 ≤ off || (o = 0 && old = 1) then s
  else { s with mailbox := stSetAll s.mailbox ((List.range 4).zip (leBytes 4 x.toNat) |>.map fun e => (o + e.1, e.2)) }

/-- The host writes a register (R352, R371, R372): the blocks of a function's contexts, and, by the physical function, the
mailbox, the slice counters and VF Enable. Register blocks answer once Lamgil is ready, configuration space once the link
is (R375). -/
def State.hostWrite (s : State) (fn : Nat) (r : HostReg) (x : DWord) : State :=
  match r with
  | .ctxrec c => if s.lamgil && s.reaches fn c then s.writeCtxrec c x else s
  | .ctxctl c => if s.lamgil && s.reaches fn c then s.writeCtxctl c x else s
  | .resolve c => if s.lamgil && s.reaches fn c then s.writeResolve c x else s
  | .submit c => if s.lamgil && s.reaches fn c then s.hostSubmit c x else s
  | .mailbox o => if s.lamgil && fn = 0 then s.writeMailbox o x else s
  | .sliceSel i j =>
    if s.lamgil && fn = 0 && i < 128 && j < 8 then
      { s with slices := tabSet s.slices i { s.slice i with sel := stSet (s.slice i).sel j (x &&& 0xFFF) } }
    else s
  | .sliceCnt i j =>
    if s.lamgil && fn = 0 && i < 128 && j < 8 then
      { s with slices := tabSet s.slices i { s.slice i with cnt := stSet (s.slice i).cnt j x } }
    else s
  | .vfEnable => if s.link && fn = 0 then { s with vfs := x.setWidth 32 } else s

/-- The meaning of HOST_REGISTER_WRITE (R352, R371, R372). -/
def execHostRegisterWrite (fn : Nat) (r : HostReg) (x : DWord) (s : State) : Host.Outcome State Fault Refusal :=
  .next (s.hostWrite fn r x)

/-! ### Accesses of the host and of peers -/

/-- The entries of a page table at an address that memory lists as valid. -/
def validEntries (m : Memory) (table n : Nat) : List Nat :=
  (m.filter fun e => table ≤ e.1 && e.1 < table + 16 * n && e.1 % 16 = table % 16 && e.2.getLsbD 0).map (·.1)

/-- Every leaf under a table of a level (R171 to R173). -/
def leavesUnder (m : Memory) : Nat → Nat → List Leaf
  | level, table =>
    let (_, n, size) := walkLevel level
    (validEntries m table n).flatMap fun pte =>
      let w0 := memNat m pte 8
      let w1 := memNat m (pte + 8) 8
      if bitsOf w0 15 14 = 3 then
        match level with
        | 0 => []
        | l + 1 => leavesUnder m l (bitsOf w1 51 9 * 512)
      else if size = 0 || level != bitsOf w0 15 14 || leafMalformed w0 w1 size then []
      else [leafOf pte w0 w1 size]

/-- The mapped leaf of an active context whose frame holds a physical address: what makes an access through the physical
function a tile access (R264, R374). -/
def State.mappedAt (s : State) (pa : Nat) : Option Leaf :=
  s.ctxs.findSome? fun c =>
    if c.2.active then (leavesUnder s.mem 4 c.2.root).find? fun l => l.mapped && l.frame ≤ pa && pa < l.frame + l.size else none

/-- The access that an incoming request makes: its translation, or none where it fails (R371, R374). A virtual function reaches host or peer
memory through the windows of its context, as the context does (R373). -/
def State.incomingXlat (s : State) (x : Incoming) : Option Xlat :=
  let a := x.addr / 4 * 4
  match x.ctx with
  | none =>
    if paTier a = some 0 || paTier a = some 1 then
      match s.mappedAt a with
      | some l => some ⟨a, a, l, false⟩
      | none => some ⟨a, a, Leaf.none, false⟩
    else none
  | some c =>
    if 2 ^ 40 ≤ a || !s.vfOwns c || !(s.ctx c).active then none
    else match walkVa s.mem (s.ctx c).root a with
      | .leaf l => ((s.ctx c).permit l a (l.frame + a % l.size) x.data.isSome false false).toOption
      | _ => none

/-- The malformed entry that a virtual function's access meets is recorded like that of every walk (R173, R240). -/
def State.incomingWalk (s : State) (x : Incoming) : State :=
  match x.ctx with
  | some c =>
    if 2 ^ 40 ≤ x.addr || !s.vfOwns c || !(s.ctx c).active then s
    else match walkVa s.mem (s.ctx c).root (x.addr / 4 * 4) with
      | .malformed pte => s.logErr c 0x0A .pagefault 0 (unitCode 4 0) pte 0
      | _ => s
  | none => s

/-- Whether an incoming access waits on the memory of page-table entries (R375). -/
def State.incomingWaits (s : State) (x : Incoming) : Bool :=
  match x.ctx with
  | some c => s.vfOwns c && (s.ctx c).active && !s.walkReady (s.ctx c).root (x.addr / 4 * 4)
  | none => false

/-- A read of the host or of a peer completes (R371, R374). -/
def State.reply (s : State) (v : Reply) : State := { s with replies := s.replies ++ [v] }

/-- An incoming access that fails: a read completes with `v`, a write is dropped (R371, R374). -/
def State.incomingFails (s : State) (v : Reply) (data : Option Word) : State := if data.isNone then s.reply v else s

/-- A word of a coherent read that a request makes at its home slice, over the link where it lies in host or peer memory. -/
def State.incomingRead (s : State) (t : Xlat) : State :=
  match s.readHome none t 4 with
  | (.ok bs _, s) => s.reply (.data (BitVec.ofNat 64 (leNat bs)))
  | (.fail _ _, s) => s.reply .abort

/-- Whether an incoming access to a tile fails (R374): the header poisoned or malformed, or a payload word that the access
needs poisoned. -/
def State.incomingTileFails (s : State) (t : Xlat) : Bool :=
  let tl := tileOf t.leaf t.pa
  let h := s.tileHdr tl
  !leafDiscard s.mem t.leaf
  && (s.hdrPoisoned tl || hdrMalformed h
      || if (Hdr.ofNat h).ident then s.isPoisoned (t.pa / 4)
         else !(Hdr.ofNat h).filled && s.payloadPoisoned tl)

/-- An incoming word access to a tile (R264, R374): materialised, and read or written, as one event. -/
def State.incomingTile (s : State) (t : Xlat) (data : Option Word) : State :=
  let tl := tileOf t.leaf t.pa
  let (bad, s') := s.farReads (s.tileNeed tl (laneBytes t 4 0))
  if s.incomingTileFails t then s.incomingFails .abort data
  else if bad then s'.incomingFails .abort data
  else match data with
    | some v => s'.storePage none none t.leaf (laneBytes t 4 v.toNat)
    | none =>
      if leafDiscard s.mem t.leaf || (Hdr.ofNat (s.tileHdr tl)).ident then s'.incomingRead t
      else (s'.materialise none tl).reply (.data (BitVec.ofNat 64 (leNat (((s.tileImage tl).drop (t.pa % 256)).take 4))))

/-- An incoming word access to other memory (R374): a poisoned word fails it, and a discarded page comes back with a write. -/
def State.incomingWord (s : State) (t : Xlat) (data : Option Word) : State :=
  let disc := t.leaf.size != 0 && leafDiscard s.mem t.leaf
  if !disc && s.isPoisoned (t.pa / 4) then s.incomingFails .abort data
  else match data with
    | none => if t.leaf.size = 0 then s.reply (.data (BitVec.ofNat 64 (memNat s.mem t.pa 4))) else s.incomingRead t
    | some v =>
      if t.leaf.size = 0 then s.writeMem none none (laneBytes t 4 v.toNat) else s.storePage none none t.leaf (laneBytes t 4 v.toNat)

/-- The meaning of INCOMING_ACCESS (R371, R374, R378): one coherent event at the home slice, which counts it and where it waits on held
lines; a failing one performs nothing. -/
def execIncomingAccess (x : Incoming) (s : State) : Host.Outcome State Fault Refusal :=
  .next (if s.incomingWaits x then s
    else match s.incomingXlat x with
    | none => (s.incomingWalk x).incomingFails (if x.ctx.isNone then .abort else .unsupported) x.data
    | some t =>
      if s.heldAny [t] 4 then s
      else
        let s := s.countSlice (homeSlice t.pa 0) (if x.data.isSome then 0x41 else 0x40) 1
        if t.leaf.mapped then s.incomingTile t x.data else s.incomingWord t x.data)

end Sys2Proof.Machine
end

