-- ==== Sys2Proof/Machine/Kv.lean ====
section
/-! DEFINITION. The key-value page system: descriptors, tables and the pool, the kv commands with their element event,
KVLDK and KVLDV, KVPOP and KVREF (R277 to R286, R296 to R301, R314 to R321). -/
namespace Sys2Proof.Machine

/-! ### Descriptors -/

/-- A page descriptor (R278). -/
structure Desc where
  ref : Nat
  surv : Nat
  pos : Nat
  kframe : Nat
  vframe : Nat
  form : Nat
  pad : Nat
  deriving DecidableEq, Repr

/-- The 256 bits of a descriptor as fields (R278). -/
def Desc.ofNat (x : Nat) : Desc :=
  ⟨bitsOf x 15 0, bitsOf x 31 16, bitsOf x 63 32, bitsOf x 127 64, bitsOf x 191 128, bitsOf x 223 192, bitsOf x 255 224⟩

/-- The 256 bits of a descriptor (R278). -/
def Desc.toNat (d : Desc) : Nat :=
  d.ref + d.surv * 2 ^ 16 + d.pos * 2 ^ 32 + d.kframe * 2 ^ 64 + d.vframe * 2 ^ 128 + d.form * 2 ^ 192 + d.pad * 2 ^ 224

/-- FILL, SEALED, EFMT, D and the element bytes (R296). -/
def Desc.fill (d : Desc) : Nat := bitsOf d.form 4 0
def Desc.sealed (d : Desc) : Bool := bitOf d.form 16
def Desc.efmt (d : Desc) : Nat := bitsOf d.form 15 12
def Desc.dim (d : Desc) : Nat := 16 * 2 ^ bitsOf d.form 10 8
def Desc.ebytes (d : Desc) : Nat := elemBytes d.efmt
/-- The bytes of one slot. -/
def Desc.slotBytes (d : Desc) : Nat := d.dim * d.ebytes

/-- Whether a descriptor is malformed (R296). -/
def Desc.malformed (d : Desc) : Bool :=
  bitsOf d.form 31 17 != 0 || bitOf d.form 11 || bitsOf d.form 7 5 != 0 || d.pad != 0 || 16 < d.fill
  || d.surv / 2 ^ d.fill != 0 || 4 < bitsOf d.form 10 8 || d.efmt < 1 || 3 < d.efmt

/-- The set bits of a survivor bitmap. -/
def popc16 (x : Nat) : Nat := ((List.range 16).filter fun k => bitOf x k).length

/-- The slot of logical index j (R279). -/
def Desc.slotOf (d : Desc) (j : Nat) : Nat := popc16 (d.surv % 2 ^ j)

/-! ### Reads at issue -/

/-- The result of a step at issue: a value, a trap, or a wait on a word that a bank command holds. -/
inductive KRes (α : Type) where
  | ok (x : α) (s : State)
  | trap (t : TrapInfo) (s : State)
  | wait
  deriving DecidableEq, Repr

/-- A step after another. -/
def KRes.andThen {α β : Type} (r : KRes α) (f : α → State → KRes β) : KRes β :=
  match r with
  | .ok x s => f x s
  | .trap t s => .trap t s
  | .wait => .wait

/-- Who asks, at issue. -/
structure KvAsk where
  c : Accessor
  core : Nat
  i : Issuer
  deriving DecidableEq, Repr

/-- A number read from memory with its translation. -/
structure KvWord where
  v : Nat
  x : Xlat
  deriving DecidableEq, Repr

/-- A register that an instruction needs must not hold 0 (R277); the access flags of the PROT are free. -/
def State.kvNeed (s : State) (i : Issuer) (reg : DWord) : KRes Nat :=
  if reg = 0 then
    let (n, s) := s.drawNat
    .trap (cmdTrap i .prot (n % 16) i.pc) s
  else .ok reg.toNat s

/-- A check at issue that has a cause and no address (R281). -/
def State.kvCheck (s : State) (i : Issuer) (bad : Bool) (c : Cause) : KRes Unit :=
  if bad then .trap (cmdTrap i c 0 i.pc) s else .ok () s

/-- A read event at issue (R281), checked by R225; whether the request reaches the home slice is free (R378, notes/assumptions 63). -/
def State.kvRead (s : State) (q : KvAsk) (va n : Nat) : KRes KvWord :=
  match s.checkAccess { q.c with write := false } none va n with
  | (.error f, s) => .trap (pageTrap q.i 1 (f, va)) s
  | (.ok x, s) =>
    if s.heldAny [x] n then .wait
    else match (s.countSliceFree (homeSlice x.pa (dieOf q.core)) 0x40).readData q.core x.leaf.hint none x n with
      | (.fail c _, s) => .trap (cmdTrap q.i c 1 (BitVec.ofNat 64 va)) s
      | (.ok bs _, s) => .ok ⟨leNat bs, x⟩ s

/-- Whether a word lies where the key-value structures may not (R316). -/
def kvMisplaced (x : Xlat) : Bool := x.leaf.mapped || x.window || x.leaf.tier = 2

/-- A word that a command will write (R281, R316), checked by R225 with write permission; the entry stays the one found here (R174). -/
def State.kvDest (s : State) (q : KvAsk) (va n : Nat) : KRes Xlat :=
  match s.checkAccess { q.c with write := true } none va n with
  | (.error f, s) => .trap (pageTrap q.i 2 (f, va)) s
  | (.ok x, s) => if kvMisplaced x then .trap (cmdTrap q.i .prot 2 (BitVec.ofNat 64 va)) s else .ok { x with leaf := x.leaf.recorded s.mem } s

/-- The header of a sequence table (R279): LENGTH, NPAGES, CAP. -/
def State.kvTable (s : State) (q : KvAsk) (a : Nat) : KRes (KvWord × KvWord × KvWord) :=
  (s.kvRead q a 4).andThen fun l s => (s.kvRead q (a + 4) 4).andThen fun n s => (s.kvRead q (a + 8) 4).andThen fun c s =>
    .ok (l, n, c) s

/-- A page of a table: its id, the word that names it, its descriptor; none for id 0xFFFF_FFFF (R296). -/
structure KvPage where
  id : Nat
  entry : KvWord
  desc : Option (Xlat × Desc)
  deriving DecidableEq, Repr

/-- The page that a word names (R277, R279). -/
def State.kvPage (s : State) (q : KvAsk) (kvbase va : Nat) : KRes KvPage :=
  (s.kvRead q va 4).andThen fun w s =>
    if w.v = 0xFFFFFFFF then .ok ⟨w.v, w, none⟩ s
    else (s.kvRead q (kvbase + 32 * w.v) 32).andThen fun d s => .ok ⟨w.v, w, some (d.x, Desc.ofNat d.v)⟩ s

/-- The pages of entries `k` to `k + n - 1` of a table. -/
def State.kvPages (s : State) (q : KvAsk) (kvbase a k : Nat) : Nat → KRes (List KvPage)
  | 0 => .ok [] s
  | n + 1 =>
    (s.kvPage q kvbase (a + 0x40 + 4 * k)).andThen fun p s =>
      (State.kvPages s q kvbase a (k + 1) n).andThen fun r s => .ok (p :: r) s

/-- The placement and form checks of R316 on what was read: the first that fails raises PROT. -/
def State.kvPlaced (s : State) (i : Issuer) (ws : List KvWord) (ps : List KvPage) : KRes Unit :=
  let bad := (ws.filterMap fun w => if kvMisplaced w.x then some w.x.va else none)
    ++ ps.filterMap fun p => match p.desc with
      | none => some p.entry.x.va
      | some (x, d) => if kvMisplaced p.entry.x then some p.entry.x.va
          else if kvMisplaced x || d.malformed then some x.va else none
  match bad with
  | va :: _ => .trap (cmdTrap i .prot 1 (BitVec.ofNat 64 va)) s
  | [] => .ok () s

/-- The translations of words to be written. -/
def State.kvDests (s : State) (q : KvAsk) (n : Nat) : List Nat → KRes (List Xlat)
  | [] => .ok [] s
  | va :: r => (s.kvDest q va n).andThen fun x s => (State.kvDests s q n r).andThen fun t s => .ok (x :: t) s

/-- A command ends at issue: its trap, a wait, or the operation with its elements (R212, R281). -/
def State.kvIssue (g : Nat) (i : Issuer) (r : KRes (List Elem × List (Nat × Leaf))) : Option State :=
  match r with
  | .wait => none
  | .trap t s => some (s.fault g t)
  | .ok (es, ps) s => some ((s.issueOp g 3 .kv es ps false).goOn g i)

/-- The pages of translations, for PGINV. -/
def xlatPages (xs : List Xlat) : List (Nat × Leaf) := (xs.map fun x => (x.va / x.leaf.size * x.leaf.size, x.leaf)).eraseDups

/-- A kv command of a gang (R61, R281). -/
def State.kvCommand (s : State) (us : List Use)
    (body : State → KvAsk → Context → KRes (List Elem × List (Nat × Leaf))) : Host.Outcome State Fault Refusal :=
  s.command us 3 noCheck fun s g G gr i =>
    State.kvIssue g i (body s ⟨⟨G.part, gr.ctx, G.grp, false, false⟩, G.core, i⟩ (s.ctx gr.ctx))

/-! ### The kv commands -/

/-- What KVFORK checks and reads at issue, and its elements with their pages. -/
def State.kvForkPlan (s : State) (x : KvArgs) (q : KvAsk) (ctx : Context) : KRes (List Elem × List (Nat × Leaf)) :=
  let d := (q.i.rds x.d).toNat
  let a := (q.i.rds x.a).toNat
  (s.kvNeed q.i ctx.kvbase).andThen fun kb s =>
  (s.kvCheck q.i (d % 64 != 0 || a % 64 != 0) .align).andThen fun _ s =>
  (s.kvTable q d).andThen fun (dl, dn, dc) s =>
  (s.kvTable q a).andThen fun (sl, sn, sc) s =>
  (s.kvCheck q.i (dn.v != 0 || dc.v < sn.v) .length).andThen fun _ s =>
  (s.kvPages q kb a 0 sn.v).andThen fun ps s =>
  (s.kvCheck q.i (ps.any fun p => match p.desc with | some (_, d) => d.ref = 65535 | none => false) .length).andThen fun _ s =>
  (s.kvPlaced q.i [dl, dn, dc, sl, sn, sc] ps).andThen fun _ s =>
  (s.kvDests q 4 ([d, d + 4] ++ (List.range sn.v).map fun k => d + 0x40 + 4 * k)).andThen fun ws s =>
  (s.kvDests q 32 (ps.map fun p => kb + 32 * p.id)).andThen fun ds s =>
    .ok ((ws.zip ([sl.v, sn.v] ++ ps.map (·.id))).map (fun e => Elem.put e.1 (BitVec.ofNat 32 e.2)) ++ ds.map Elem.refInc,
      xlatPages (ws ++ ds)) s

/-- The meaning of KVFORK (R281, R316). -/
def execKvfork (x : KvArgs) (s : State) : Host.Outcome State Fault Refusal :=
  s.kvCommand [Use.r x.d, Use.r x.a] fun s q ctx => s.kvForkPlan x q ctx

/-- What KVSETPOS checks and reads at issue, and its elements with their pages. -/
def State.kvSetposPlan (s : State) (x : KvArgs) (q : KvAsk) (ctx : Context) : KRes (List Elem × List (Nat × Leaf)) :=
  let d := (q.i.rds x.d).toNat
  let k := (q.i.rds x.a).toNat % 2 ^ 32
  (s.kvNeed q.i ctx.kvbase).andThen fun kb s =>
  (s.kvRead q (d + 4) 4).andThen fun n s =>
  (s.kvCheck q.i (n.v ≤ k) .length).andThen fun _ s =>
  (s.kvPage q kb (d + 0x40 + 4 * k)).andThen fun p s =>
  (s.kvCheck q.i (match p.desc with | some (_, d) => 1 < d.ref | none => false) .kvcow).andThen fun _ s =>
  (s.kvPlaced q.i [n] [p]).andThen fun _ s =>
  (s.kvDest q (kb + 32 * p.id) 32).andThen fun y s =>
    .ok ([.setPos y ((q.i.rds x.b).setWidth 32)], xlatPages [y]) s

/-- The meaning of KVSETPOS (R281, R316). -/
def execKvsetpos (x : KvArgs) (s : State) : Host.Outcome State Fault Refusal :=
  s.kvCommand [Use.r x.d, Use.r x.a, Use.r x.b] fun s q ctx => s.kvSetposPlan x q ctx

/-- Whether a push has begun on the pool at a physical address and has COUNT still to write: a pop or another push waits (R280). -/
def State.poolBusy (s : State) (pa : Nat) : Bool := s.ops.any fun o => o.elems.any fun e => match e with | .count pool _ => pool.pa = pa | _ => false

/-- The pool header (R280): COUNT, CAP, ARRAY. -/
def State.kvPool (s : State) (q : KvAsk) (pool : Nat) : KRes (KvWord × KvWord × KvWord) :=
  (s.kvRead q pool 4).andThen fun n s => (s.kvRead q (pool + 4) 4).andThen fun c s => (s.kvRead q (pool + 8) 8).andThen fun a s =>
    .ok (n, c, a) s

/-- The pages of a pool array that are there must be ones on which it may lie (R316): the first that is not raises PROT. No rule says
whether this check's walks record a malformed entry: they pass over it, and an access that meets it records it (DESIGN CHOICE: notes/assumptions 64). -/
def State.kvArray (s : State) (q : KvAsk) (arr cap : Nat) : KRes Unit :=
  let bad (u : Nat × Nat) : Bool :=
    if inCrew u.1 then false
    else match walkVa s.mem (s.ctx q.c.ctx).root u.1 with
      | .leaf l => kvMisplaced ⟨u.1, l.frame, l, (s.ctx q.c.ctx).inWindow u.1⟩
      | _ => false
  match (unitsOf arr (4 * cap)).find? bad with
  | some u => .trap (cmdTrap q.i .prot 1 (BitVec.ofNat 64 u.1)) s
  | none => .ok () s

/-- What KVDROP checks and reads at issue, and its elements with their pages. -/
def State.kvDropPlan (s : State) (x : KvArgs) (q : KvAsk) (ctx : Context) : KRes (List Elem × List (Nat × Leaf)) :=
  let d := (q.i.rds x.d).toNat
  (s.kvNeed q.i ctx.kvbase).andThen fun kb s =>
  (s.kvNeed q.i ctx.kvpool).andThen fun pool s =>
  (s.kvCheck q.i (d % 64 != 0) .align).andThen fun _ s =>
  (s.kvTable q d).andThen fun (dl, dn, dc) s =>
  (s.kvPool q pool).andThen fun (pn, pc, pa) s =>
  (s.kvPages q kb d 0 dn.v).andThen fun ps s =>
  (s.kvPlaced q.i [dl, dn, dc, pn, pc, pa] ps).andThen fun _ s =>
  (s.kvArray q pa.v pc.v).andThen fun _ s =>
  (s.kvDests q 4 [d, d + 4]).andThen fun ws s =>
  (s.kvDests q 32 (ps.map fun p => kb + 32 * p.id)).andThen fun ds s =>
  (s.kvDest q pool 4).andThen fun px s =>
  (s.kvDests q 4 ((List.range (min dn.v (pc.v - pn.v))).map fun k => pa.v + 4 * (pn.v + k))).andThen fun ax s =>
    .ok ((ds.zip (ps.map (·.id))).map (fun e => Elem.refDec e.1 e.2 px) ++ ws.map fun w => Elem.put w 0,
      xlatPages (ws ++ ds ++ [px] ++ ax)) s

/-- The meaning of KVDROP (R281, R316). -/
def execKvdrop (x : KvArgs) (s : State) : Host.Outcome State Fault Refusal :=
  s.kvCommand [Use.r x.d] fun s q ctx => s.kvDropPlan x q ctx

/-- What KVEVICT checks and reads at issue, and its elements with their pages. -/
def State.kvEvictPlan (s : State) (x : KvArgs) (q : KvAsk) (ctx : Context) : KRes (List Elem × List (Nat × Leaf)) :=
  let d := (q.i.rds x.d).toNat
  let t := (q.i.rds x.a).toNat % 2 ^ 32
  let j := t % 16
  (s.kvNeed q.i ctx.kvbase).andThen fun kb s =>
  (s.kvCheck q.i (d % 64 != 0) .align).andThen fun _ s =>
  (s.kvRead q d 4).andThen fun l s =>
  (s.kvCheck q.i (l.v ≤ t) .length).andThen fun _ s =>
  (s.kvPage q kb (d + 0x40 + 4 * (t / 16))).andThen fun p s =>
  (s.kvCheck q.i (match p.desc with | some (_, d) => 1 < d.ref | none => false) .kvcow).andThen fun _ s =>
  (s.kvPlaced q.i [l] [p]).andThen fun _ s =>
    match p.desc with
    | none => .ok ([], []) s
    | some (_, e) =>
      if !bitOf e.surv j then .ok ([], []) s
      else
        let s0 := e.slotOf j
        let live := popc16 e.surv
        let sz := e.slotBytes
        let frames := [e.kframe, e.vframe]
        (s.kvDest q (kb + 32 * p.id) 32).andThen fun y s =>
          match s.checkRanges { q.c with write := false } (frames.map fun f => (f + (s0 + 1) * sz, (live - 1 - s0) * sz)) with
          | (.error f, s) => .trap (pageTrap q.i 1 f) s
          | (.ok rs, s) =>
            match s.checkRanges { q.c with write := true } (frames.map fun f => (f + s0 * sz, (live - s0) * sz)) with
            | (.error f, s) => .trap (pageTrap q.i 2 f) s
            | (.ok ws, s) => .ok ([.evict y j sz frames], xlatPages [y] ++ rs ++ ws) s

/-- The meaning of KVEVICT (R316, R317). -/
def execKvevict (x : KvArgs) (s : State) : Host.Outcome State Fault Refusal :=
  s.kvCommand [Use.r x.d, Use.r x.a] fun s q ctx => s.kvEvictPlan x q ctx

/-- Whether KVAPP needs a new page (R281, R296). -/
def needsPage (last : Option KvPage) : Bool :=
  match last with
  | none => true
  | some p => match p.desc with | some (_, d) => d.fill = 16 || d.sealed | none => false

/-- The elements of KVAPP on a page with the given first free slot (R281, R316). -/
def State.kvAppend (s : State) (q : KvAsk) (a b : Nat) (d : Desc) (slot : Nat) (len : Xlat) (n : Nat) (y : Xlat) :
    KRes (List Elem × List (Nat × Leaf)) :=
  let sz := d.slotBytes
  let k := planLin (d.kframe + slot * sz) a sz
  let v := planLin (d.vframe + slot * sz) b sz
  (s.kvCheck q.i (a % 4 != 0 || b % 4 != 0) .align).andThen fun _ s =>
    match s.checkRanges { q.c with write := false } (k.src ++ v.src) with
    | (.error f, s) => .trap (pageTrap q.i 1 f) s
    | (.ok rs, s) =>
      match s.checkRanges { q.c with write := true } (k.dst ++ v.dst) with
      | (.error f, s) => .trap (pageTrap q.i 2 f) s
      | (.ok ws, s) =>
        let ps := xlatPages [len, y] ++ rs ++ ws
        .ok ([.grow y, .put len (BitVec.ofNat 32 (n + 1))] ++ planElems 0 ps k ++ planElems 1 ps v, ps) s

/-- What KVAPP writes at issue when it opens a page (R281): the pop, the descriptor, the entry, NPAGES. -/
def State.kvOpen (s : State) (own : Nat) (pool entry np y : Xlat) (count id n : Nat) (d : Desc) (pos : Nat) : State :=
  let w (s : State) (x : Xlat) (k v : Nat) : State := s.storePage none (storeOwner own x.leaf.hint) x.leaf (laneBytes x k v)
  let d' := { d with ref := 1, surv := 0, pos := pos, form := d.form - d.fill }
  w (w (w (w s pool 4 (count - 1)) y 32 d'.toNat) entry 4 id) np 4 (n + 1)

/-- What KVAPP checks and reads at issue, and its elements with their pages. -/
def State.kvAppPlan (s : State) (x : KvArgs) (q : KvAsk) (ctx : Context) : KRes (List Elem × List (Nat × Leaf)) :=
  let d := (q.i.rds x.d).toNat
  let a := (q.i.rds x.a).toNat
  let b := (q.i.rds x.b).toNat
  (s.kvNeed q.i ctx.kvbase).andThen fun kb s =>
  (s.kvCheck q.i (d % 64 != 0) .align).andThen fun _ s =>
  (s.kvTable q d).andThen fun (l, n, c) s =>
  (s.kvPages q kb d (n.v - 1) (if n.v = 0 then 0 else 1)).andThen fun last s =>
    if needsPage last.head? then
      (s.kvCheck q.i (n.v = c.v) .length).andThen fun _ s =>
      (s.kvNeed q.i ctx.kvpool).andThen fun pool s =>
      (s.kvPool q pool).andThen fun (pn, pc, pa) s =>
      (s.kvCheck q.i (pn.v = 0) .kvpool).andThen fun _ s =>
      (s.kvPage q kb (pa.v + 4 * (pn.v - 1))).andThen fun p s =>
      (s.kvPlaced q.i [l, n, c, pn, pc, pa] (last ++ [p])).andThen fun _ s =>
      (s.kvArray q pa.v pc.v).andThen fun _ s =>
        match p.desc with
        | none => .ok ([], []) s
        | some (_, e) =>
          (s.kvDests q 4 [pool, d + 0x40 + 4 * n.v, d + 4, d]).andThen fun ws s =>
          (s.kvDest q (kb + 32 * p.id) 32).andThen fun y s =>
            match ws with
            | [px, ex, nx, lx] =>
              if s.held ex.pa 4 || s.poolBusy px.pa then .wait
              else
                let pos := match last.head?.bind (·.desc) with | some (_, z) => (z.pos + 16) % 2 ^ 32 | none => 0
                (s.kvAppend q a b e 0 lx l.v y).andThen fun r s =>
                  .ok r (s.kvOpen q.core px ex nx y pn.v p.id n.v e pos)
            | _ => .ok ([], []) s
    else
      match last.head?.bind (·.desc) with
      | none => (s.kvPlaced q.i [l, n, c] last).andThen fun _ s => .ok ([], []) s
      | some (_, e) =>
        (s.kvCheck q.i (decide (1 < e.ref)) .kvcow).andThen fun _ s =>
        (s.kvPlaced q.i [l, n, c] last).andThen fun _ s =>
        (s.kvDest q d 4).andThen fun lx s =>
        (s.kvDest q (kb + 32 * (last.head?.map (·.id)).getD 0) 32).andThen fun y s =>
          s.kvAppend q a b e (popc16 e.surv) lx l.v y

/-- The meaning of KVAPP (R281, R299, R300, R316). -/
def execKvapp (x : KvArgs) (s : State) : Host.Outcome State Fault Refusal :=
  s.kvCommand [Use.r x.d, Use.r x.a, Use.r x.b] fun s q ctx => s.kvAppPlan x q ctx

/-! ### The element event -/

/-- A read-write event of a descriptor (R187, R281): a malformed one is refused (R296). -/
def State.descEvent (s : State) (x : Xlat) (f : Desc → State → ElemEnd) : ElemEnd :=
  if s.held x.pa 32 then .wait
  else match s.readCoherent none x 32 with
    | .fail c _ => .refused s c x.pa
    | .ok bs _ =>
      let d := Desc.ofNat (leNat bs)
      if d.malformed then .refused s .prot x.pa else f d s

/-- A descriptor written. -/
def State.putDesc (s : State) (x : Xlat) (d : Desc) : State := s.storePage none none x.leaf (laneBytes x 32 d.toNat)

/-- A number in memory that is not discarded, 0 on a discarded page (R185). -/
def State.kvNat (s : State) (x : Xlat) (o n : Nat) : Nat := if leafDiscard s.mem x.leaf then 0 else memNat s.mem (x.pa + o) n

/-- The first poisoned word of `n` bytes at a translated address on a page that is not discarded, by its offset. -/
def State.kvPoison (s : State) (x : Xlat) (n : Nat) : Option Nat :=
  if leafDiscard s.mem x.leaf then none else ((List.range (n / 4)).map (4 * ·)).find? fun k => s.isPoisoned ((x.pa + k) / 4)

/-- The word of a pool array that a push writes, through the pages translated at issue where they hold it. -/
def State.poolSlot (s : State) (o : AsyncOp) (va : Nat) : Except XFail Xlat × State :=
  match pageOf (s.opPages o) va with
  | some e => (.ok ⟨va, physOf e va, e.2, false⟩, s)
  | none => s.resolve (s.opPart o) o.ctx (s.opGroup o) va true false true

/-- Elements that come after an operation's others. -/
def State.addElems (s : State) (o : AsyncOp) (es : List Elem) : State := s.updOp o.id fun o => { o with elems := o.elems ++ es }

/-- The push of a page that KVDROP has brought to 0 (R280, R281), a word event on the pool's array, after which COUNT follows; the page is
lost with a record when COUNT has reached CAP, which names it by its descriptor's address (DESIGN CHOICE: notes/assumptions 56). -/
def State.pushPage (s : State) (o : AsyncOp) (x : Xlat) (page : Nat) (pool : Xlat) : ElemEnd :=
  if s.held pool.pa 16 || s.poolBusy pool.pa then .wait
  else match s.kvPoison pool 16 with
  | some k => .refused s .poison (pool.pa + k)
  | none =>
    let count := s.kvNat pool 0 4
    if s.kvNat pool 4 4 ≤ count then .done (s.logErr o.ctx 7 .kvpool 0 (unitCode 0 (s.opPart o)) x.va (s.opNode o))
    else
      let va := s.kvNat pool 8 8 + 4 * count
      match s.poolSlot o va with
      | (.error f, s) => .refused (s.recordFail (s.opPart o) o.ctx (s.opGroup o) f) f.cause va
      | (.ok w, s) =>
        if kvMisplaced w then .refused s .prot va
        else if s.held w.pa 4 then .wait
        else .done ((s.storePage none none w.leaf (laneBytes w 4 page)).addElems o [.count pool (BitVec.ofNat 32 (count + 1))])

/-- The words that the moves of an eviction write (R317), from the snapshot of one frame. -/
def evictWords (f s0 live sz : Nat) (snap : List Byte) : List (Nat × List SrcByte) :=
  (List.range ((live - s0) * sz / 4)).map fun k =>
    (f + s0 * sz + 4 * k, (List.range 4).map fun j => .byte ((snap[4 * k + j]?).getD 0))

/-- The source bytes of the snapshot of one frame (R317): the slots after the evicted one. -/
def evictSrc (f s0 live sz : Nat) : List SrcByte := (List.range ((live - 1 - s0) * sz)).map fun k => .at_ (f + (s0 + 1) * sz + k)

/-- The snapshots of the frames. -/
def State.evictSnaps (s : State) (ps : List (Nat × Leaf)) (s0 live sz : Nat) : List Nat → Except (Cause × Nat) (List (Nat × List Byte))
  | [] => .ok []
  | f :: r =>
    match s.srcBytes ps (evictSrc f s0 live sz), State.evictSnaps s ps s0 live sz r with
    | .error e, _ => .error e
    | _, .error e => .error e
    | .ok l, .ok t => .ok ((f, l.map fun b => b.getD 0) :: t)

/-- Whether a bank command holds a byte of the slots that an eviction moves. -/
def State.evictHeld (s : State) (ps : List (Nat × Leaf)) (s0 live sz : Nat) (fs : List Nat) : Bool :=
  fs.any fun f => (List.range ((live - s0) * sz)).any fun k =>
    match pageOf ps (f + s0 * sz + k) with | some e => s.engineHeld e.2 (physOf e (f + s0 * sz + k)) 1 | none => false

/-- The moves of an eviction as elements (R317). -/
def evictElems (ps : List (Nat × Leaf)) (s0 live sz : Nat) (l : List (Nat × List Byte)) : List Elem :=
  l.flatMap fun e => planElems 0 ps ⟨[], [], evictWords e.1 s0 live sz e.2⟩

/-- The pages of the slots that an eviction reads and writes: those translated at issue, and further ones where SURV has changed since
(R317). -/
def State.evictPages (s : State) (o : AsyncOp) (s0 live sz : Nat) (fs : List Nat) : Except (XFail × Nat) (List (Nat × Leaf)) × State :=
  let c : Accessor := ⟨s.opPart o, o.ctx, s.opGroup o, false, false⟩
  match s.checkUnits c (fs.flatMap fun f => unitsOf (f + (s0 + 1) * sz) ((live - 1 - s0) * sz)) (s.opPages o) with
  | (.error e, s) => (.error e, s)
  | (.ok ps, s) => s.checkUnits { c with write := true } (fs.flatMap fun f => unitsOf (f + s0 * sz) ((live - s0) * sz)) ps

/-- The descriptor event of an eviction (R317): the slot of j and the live slots are those of the SURV that it finds; the snapshot is
read at it, and the moves become elements. -/
def State.evictElem (s : State) (o : AsyncOp) (x : Xlat) (j sz : Nat) (fs : List Nat) : ElemEnd :=
  s.descEvent x fun d s =>
    let s0 := d.slotOf j
    let live := popc16 d.surv
    match s.evictPages o s0 live sz fs with
    | (.error (f, a), s) => .refused (s.recordFail (s.opPart o) o.ctx (s.opGroup o) f) f.cause a
    | (.ok ps, s) =>
      if s.evictHeld ps s0 live sz fs then .wait
      else
        let far := s.copyFar ps [(0, fs.flatMap fun f => evictSrc f s0 live sz)]
        let (bad, s) := s.farReads far
        if bad then .refused s .poison (4 * far.headD 0)
        else match s.evictSnaps ps s0 live sz fs with
          | .error (c, a) => .refused s c a
          | .ok l =>
            let d' := { d with surv := d.surv - (if bitOf d.surv j then 2 ^ j else 0) }
            let s := s.requests (s.opDie o) 0x40 ((srcWords ps [(0, fs.flatMap fun f => evictSrc f s0 live sz)]).map (4 * ·))
            .done ((s.putDesc x d').updOp o.id fun o => { o with elems := o.elems ++ evictElems ps s0 live sz l, pages := ps })

/-- Where an element of a kv command that is no copied word reads, and where it writes. -/
def Elem.reaches : Elem → List Nat × List Nat
  | .put x _ | .count x _ => ([], [x.pa])
  | .refInc x | .refDec x _ _ | .grow x | .setPos x _ | .evict x _ _ _ => ([x.pa], [x.pa])
  | .push _ _ pool => ([pool.pa], [])
  | _ => ([], [])

/-- One element of a kv command that is not a copied word (R281, R317). -/
def State.kvElem (s : State) (o : AsyncOp) (e : Elem) : ElemEnd :=
  match e with
  | .put x v => if s.held x.pa 4 then .wait else .done (s.storePage none none x.leaf (laneBytes x 4 v.toNat))
  | .refInc x => s.descEvent x fun d s =>
      if d.ref = 65535 then
        let (n, s) := s.drawNat
        .done (s.putDesc x { d with ref := n % 2 ^ 16 })
      else .done (s.putDesc x { d with ref := d.ref + 1 })
  | .refDec x page pool => s.descEvent x fun d s =>
      let t := s.putDesc x { d with ref := d.ref - 1 }
      if d.ref = 0 then .refused s .length x.pa
      else .done (if d.ref = 1 then t.addElems o [.push x page pool] else t)
  | .push x page pool => s.pushPage o x page pool
  | .count pool v => if s.held pool.pa 4 then .wait else .done (s.storePage none none pool.leaf (laneBytes pool 4 v.toNat))
  | .grow x => s.descEvent x fun d s =>
      .done (s.putDesc x { d with surv := (d.surv ||| 2 ^ d.fill) % 2 ^ 16, form := d.form - d.fill + (d.fill + 1) % 32 })
  | .setPos x v => s.descEvent x fun d s => .done (s.putDesc x { d with pos := v.toNat })
  | .evict x j sz fs => s.evictElem o x j sz fs
  | _ => .wait

/-- Whether an element of KVDROP must wait for an earlier entry, or for its push (R281). -/
def laterDrop (es : List Elem) (el : Nat) : Bool :=
  match es[el]? with
  | some (.refDec _ _ _) =>
    ((es.take el).any fun e => match e with | .refDec _ _ _ => true | _ => false)
    || es.any fun e => match e with | .push _ _ _ | .count _ _ => true | _ => false
  | _ => false

/-- The meaning of KV_ELEMENT (R243, R281, R317): element `el` of operation `id`; a refused element is recorded, and poison
drops the rest of the command. -/
def execKvElement (id el : Nat) (s : State) : Host.Outcome State Fault Refusal :=
  .next (match s.op id with
    | none => s
    | some o =>
      match o.kind, o.elems[el]? with
      | .kv, some (.copy _ _) => s.copyEvent o el
      | .kv, some (.fetch _ _) => s.copyEvent o el
      | .kv, some e =>
        if laterDrop o.elems el then s
        else match s.kvElem o e with
          | .wait => s
          | .done s => ((s.dropElem id el).requests (s.opDie o) 0x40 e.reaches.1).requests (s.opDie o) 0x41 e.reaches.2
          | .refused s c a =>
            let s := s.logElem o c (unitCode 0 (s.opPart o)) a
            if c = .poison then s.dropElems id else s.dropElem id el
      | _, _ => s)

/-! ### KVPOP and KVREF -/

/-- An access of KVPOP and KVREF (R283): the word, a failure that is recorded, or a wait on a bank command. -/
inductive SyncEnd where
  | ok (x : Xlat) (s : State)
  | bad (s : State)
  | wait
  deriving DecidableEq, Repr

/-- A record of a privileged pool instruction (R283, R320, R382). -/
def State.logPool (s : State) (c : Accessor) (kind : Nat) (e : Cause) (addr : Nat) : State :=
  s.logErr c.ctx kind e 0 (unitCode 0 c.p) addr (s.nodeAddr c.grp)

/-- The checks of R283 for `n` bytes at an address aligned to `al`. -/
def State.kvSync (s : State) (c : Accessor) (va al n : Nat) (write : Bool) : SyncEnd :=
  match s.checkAccess { c with write := write, coherent := true } none va al with
  | (.error f, s) => .bad ((s.recordFail c.p c.ctx c.grp f).logPool c 4 f.cause va)
  | (.ok x, s) =>
    if x.leaf.mapped then .bad (s.logPool c 4 .prot va)
    else if s.held x.pa n then .wait
    else match s.kvPoison x n with
      | some k => .bad (s.logPool c 4 .poison (va + k))
      | none => .ok x s

/-- A write of KVPOP or KVREF. -/
def State.kvPut (s : State) (core : Nat) (x : Xlat) (o n v : Nat) : State :=
  s.storePage none (storeOwner core x.leaf.hint) x.leaf (laneBytes { x with pa := x.pa + o } n v)

/-- The requests of KVPOP or KVREF at the home slices of the words and descriptors that it has read and written (R378, notes/assumptions
63); whether one reaches its slice is free. -/
def State.kvRequests (s : State) (core : Nat) (rd wr : List Xlat) : State :=
  let go (src : Nat) (s : State) (x : Xlat) : State := s.countSliceFree (homeSlice x.pa (dieOf core)) src
  wr.foldl (go 0x41) (rd.foldl (go 0x40) s)

/-- The answer of a failed KVPOP or KVREF. -/
def kvNo : Nat := 2 ^ 64 - 1

/-- KVPOP on the pool at `pool` (R283, R320): the answer, or a wait. The record of an id that is refused names the array entry that
holds it, which stands for the pool and the id (DESIGN CHOICE: notes/assumptions 56). -/
def State.kvPop (s : State) (c : Accessor) (core kb pool : Nat) : Option (Nat × State) :=
  match s.kvSync c pool 16 16 true with
  | .wait => none
  | .bad s => some (kvNo, s)
  | .ok p s =>
    let count := s.kvNat p 0 4
    if s.poolBusy p.pa then none
    else if count = 0 then some (kvNo, s.kvRequests core [p] [])
    else if s.kvNat p 4 4 < count then some (kvNo, (s.logPool c 4 .kvpool pool).kvRequests core [p] [])
    else
      let slot := s.kvNat p 8 8 + 4 * (count - 1)
      match s.kvSync c slot 4 4 false with
      | .wait => none
      | .bad s => some (kvNo, s.kvRequests core [p] [])
      | .ok w s =>
        let id := s.kvNat w 0 4
        if id = 0xFFFFFFFF then some (kvNo, (s.logPool c 4 .prot slot).kvRequests core [p, w] [])
        else match s.kvSync c (kb + 32 * id) 32 32 true with
          | .wait => none
          | .bad s => some (kvNo, s.kvRequests core [p, w] [])
          | .ok y s =>
            let d := Desc.ofNat (s.kvNat y 0 32)
            if d.malformed then some (kvNo, (s.logPool c 4 .prot slot).kvRequests core [p, w, y] [])
            else
              let s := s.kvPut core p 0 4 (count - 1)
              let s := s.kvPut core y 0 32 { d with ref := 1, surv := 0, form := d.form - d.fill }.toNat
              some (id, s.kvRequests core [p, w, y] [p, y])

/-- The meaning of KVPOP (R283, R320). -/
def execKvpop (x : KvArgs) (s : State) : Host.Outcome State Fault Refusal :=
  let us := [Use.w x.d]
  s.onGang (privCheck us) us fun g G gr i =>
    s.irrevocable g G fun s =>
      let ctx := s.ctx gr.ctx
      match (s.kvNeed i ctx.kvbase).andThen fun kb s => (s.kvNeed i ctx.kvpool).andThen fun pool s => .ok (kb, pool) s with
      | .wait => none
      | .trap t s => some (s.fault g t)
      | .ok (kb, pool) s => (s.kvPop ⟨G.part, gr.ctx, G.grp, true, true⟩ G.core kb pool).map fun r => r.2.answer g i x.d r.1

/-- The push of KVREF (R280, R320): the words it needs are checked before anything is written; the record of a lost push names the
page by the address `desc` of its descriptor. -/
def State.kvRefPush (s : State) (c : Accessor) (core pool page desc : Nat) (f : State → State) : Option (Bool × State) :=
  match s.kvSync c pool 16 16 true with
  | .wait => none
  | .bad s => some (false, s)
  | .ok p s =>
    let count := s.kvNat p 0 4
    if s.poolBusy p.pa then none
    else if s.kvNat p 4 4 ≤ count then some (true, ((f s).logPool c 7 .kvpool desc).kvRequests core [p] [])
    else match s.kvSync c (s.kvNat p 8 8 + 4 * count) 4 4 true with
      | .wait => none
      | .bad s => some (false, s.kvRequests core [p] [])
      | .ok w s => some (true, (((f s).kvPut core w 0 4 page).kvPut core p 0 4 (count + 1)).kvRequests core [p] [w, p])

/-- KVREF of a page by a signed change (R283, R320): the answer, or a wait. -/
def State.kvRefTo (s : State) (c : Accessor) (core kb pool id : Nat) (delta : Int) : Option (Nat × State) :=
  if id = 0xFFFFFFFF then some (kvNo, s.logPool c 4 .prot (kb + 32 * id))
  else match s.kvSync c (kb + 32 * id) 32 32 true with
    | .wait => none
    | .bad s => some (kvNo, s)
    | .ok y s =>
      let d := Desc.ofNat (s.kvNat y 0 32)
      let n : Int := d.ref + delta
      if d.malformed then some (kvNo, (s.logPool c 4 .prot (kb + 32 * id)).kvRequests core [y] [])
      else if n < 0 || 65535 < n then some (kvNo, s.kvRequests core [y] [])
      else
        let put (s : State) : State := s.kvPut core y 0 32 { d with ref := n.toNat }.toNat
        if n = 0 then (s.kvRefPush c core pool id (kb + 32 * id) put).map fun r =>
          (if r.1 then 0 else kvNo, r.2.kvRequests core [y] (if r.1 then [y] else []))
        else some (n.toNat, (put s).kvRequests core [y] [y])

/-- The meaning of KVREF (R283, R320). -/
def execKvref (x : KvArgs) (s : State) : Host.Outcome State Fault Refusal :=
  let us := [Use.w x.d, Use.r x.a, Use.r x.b]
  s.onGang (privCheck us) us fun g G gr i =>
    s.irrevocable g G fun s =>
      let ctx := s.ctx gr.ctx
      match (s.kvNeed i ctx.kvbase).andThen fun kb s => (s.kvNeed i ctx.kvpool).andThen fun pool s => .ok (kb, pool) s with
      | .wait => none
      | .trap t s => some (s.fault g t)
      | .ok (kb, pool) s =>
        (s.kvRefTo ⟨G.part, gr.ctx, G.grp, true, true⟩ G.core kb pool ((i.rds x.a).toNat % 2 ^ 32) (sxNat (i.rds x.b).toNat 32)).map
          fun r => r.2.answer g i x.d r.1

end Sys2Proof.Machine
end

