-- ==== Sys2Proof/Machine/KvLoad.lean ====
section
/-! DEFINITION. KVLDK and KVLDV (R284, R298, R318, R319). -/
namespace Sys2Proof.Machine

/-- A read of a key-value load: its place among the reads of the word, its address and bytes, and the event that it is part of (R187). -/
structure KvRead where
  idx : Nat
  va : Nat
  n : Nat
  key : Nat × Nat
  deriving DecidableEq, Repr

/-- What a key-value load has read so far: accesses, read-set words, the pages of accesses that failed (R213), malformed entries
that its walks met (R173); the number of its reads, the lane whose reads these are (32 for those that all lanes share), the reads that
were made before, those made now, and whether it only finds out what it has to read, past words that a bank command holds. -/
structure KvGot where
  xs : List Xlat
  reads : List Nat
  pages : List (Nat × Nat)
  walks : List Nat
  count : Nat
  lane : Nat
  seen : List KvSeen
  made : List KvRead
  scout : Bool
  deriving DecidableEq, Repr

/-- Nothing read but what was read before. -/
def KvGot.start (seen : List KvSeen) (scout : Bool) : KvGot := ⟨[], [], [], [], 0, 32, seen, [], scout⟩

/-- Nothing read. -/
def KvGot.none : KvGot := KvGot.start [] false

/-- The event that a read is part of (R187): that of a tile, of a lane's word, of a descriptor; one of its own where its checks fail. -/
def KvGot.key (g : KvGot) (n : Nat) (x : Option Xlat) : Nat × Nat :=
  match x with
  | some x => if x.leaf.mapped then (34, x.pa / 256) else if n = 32 then (33, x.pa / 4) else (g.lane, x.pa / 4)
  | Option.none => (35, g.count)

/-- A read that is made now. -/
def KvGot.make (g : KvGot) (va n : Nat) (x : Option Xlat) : KvGot :=
  { g with made := g.made ++ [⟨g.count, va, n, g.key n x⟩], count := g.count + 1 }

/-- One access more. -/
def KvGot.add (g : KvGot) (x : Xlat) (ws : List Nat) : KvGot := { g with xs := g.xs ++ [x], reads := ws.foldl insNat g.reads }

/-- One access that its checks refuse. -/
def KvGot.miss (g : KvGot) (f : XFail) : KvGot := { g with pages := g.pages ++ f.page.toList, walks := g.walks ++ f.badPte.toList }

/-- A read of a key-value load: the number, a failure (`early`: that of an access check rather than of the read), or a wait on a word
that a bank command holds. -/
inductive LdEnd where
  | ok (v : Nat) (g : KvGot) (s : State)
  | fail (f : XFail) (early : Bool) (g : KvGot) (s : State)
  | wait
  deriving DecidableEq, Repr

/-- A read of `n` bytes through the gang's view, with the checks of R225 (R318); the words of a failing read enter the read set too
(R208). One that was made before is what it was then. -/
def State.kvFetch (s : State) (c : Accessor) (t : Option Tail) (g : KvGot) (va n : Nat) : LdEnd :=
  match g.seen.find? (·.idx == g.count) with
  | some e =>
    let g := { g with count := g.count + 1 }
    match e.fail with
    | Option.none => .ok e.v g s
    | some (f, early) => .fail f early (if early then g.miss f else g) s
  | Option.none =>
    match s.checkAccess c none va n with
    | (.error f, s) => .fail f true ((g.make va n Option.none).miss f) s
    | (.ok x, s) =>
      let g := g.make va n (some x)
      if s.heldAny [x] n && !g.scout then .wait
      else match s.readData (c.p / 8) x.leaf.hint t x n with
        | (.fail e ws, s) => .fail ⟨e, false, Option.none, Option.none⟩ false (g.add x ws) s
        | (.ok bs ws, s) => .ok (leNat bs) (g.add x ws) s

/-- The shared reads of a key-value load (R318, orders 2 to 6): the descriptor and the index within the page, a failure,
or a wait. -/
inductive KvHead where
  | ok (d : Desc) (j : Nat) (g : KvGot) (s : State)
  | fail (c : Cause) (acc : Nat) (gather : List Nat) (g : KvGot) (s : State)
  | wait
  deriving DecidableEq, Repr

/-- The failure of a shared read at an address. -/
def kvHeadFail (f : XFail) (va : Nat) (g : KvGot) (s : State) : KvHead :=
  .fail f.cause 1 (if f.gather then [va / 65536 * 65536] else []) g s

/-- Orders 2 to 6 of R318, after the reads `g0`. -/
def State.kvHead (s : State) (c : Accessor) (t : Option Tail) (g0 : KvGot) (kvbase a tok : Nat) : KvHead :=
  if a % 64 != 0 then .fail .align 0 [] g0 s
  else match s.kvFetch c t g0 a 4 with
    | .wait => .wait
    | .fail f _ g s => kvHeadFail f a g s
    | .ok len g s =>
      if len ≤ tok then .fail .length 0 [] g s
      else
        let va := a + 0x40 + 4 * (tok / 16)
        match s.kvFetch c t g va 4 with
        | .wait => .wait
        | .fail f _ g s => kvHeadFail f va g s
        | .ok id g s =>
          if id = 0xFFFFFFFF then .fail .prot 1 [] g s
          else match s.kvFetch c t g (kvbase + 32 * id) 32 with
            | .wait => .wait
            | .fail f _ g s => kvHeadFail f (kvbase + 32 * id) g s
            | .ok v g s =>
              let d := Desc.ofNat v
              if d.malformed then .fail .prot 1 [] g s else .ok d (tok % 16) g s

/-- The reads of the lanes: values per lane, early failures (order 7), late ones (order 8), and what they have read. -/
structure KvLanes where
  vals : List (Nat × List Nat)
  early : List LaneFail
  late : List LaneFail
  got : KvGot
  deriving DecidableEq, Repr

/-- The reads of lane `l` at several addresses in order, every one of them made, so that a failure of order 7 stands before one of
order 8 (R318); none where one waits. -/
def State.kvLane (s : State) (c : Accessor) (t : Option Tail) (l : Nat) (k : KvLanes) (vs : List Nat) : List (Nat × Nat) → Option (KvLanes × State)
  | [] => some ({ k with vals := k.vals ++ [(l, vs)] }, s)
  | (va, n) :: r =>
    match s.kvFetch c t k.got va n with
    | .wait => Option.none
    | .ok v g s => State.kvLane s c t l { k with got := g } (vs ++ [v]) r
    | .fail f early g s =>
      let e : LaneFail := (l, va, f.cause, f.gather)
      State.kvLane s c t l
        (if early then { k with early := k.early ++ [e], got := g } else { k with late := k.late ++ [e], got := g }) (vs ++ [0]) r

/-- The lanes in ascending order; none when one waits. -/
def State.kvLanes (s : State) (c : Accessor) (t : Option Tail) (k : KvLanes) : List (Nat × List (Nat × Nat)) → Option (KvLanes × State)
  | [] => some (k, s)
  | (l, rs) :: r =>
    match s.kvLane c t l { k with got := { k.got with lane := l } } [] rs with
    | Option.none => Option.none
    | some (k, s) => State.kvLanes s c t k r

/-- A cosine or sine of a phase in 2^-32 turns, an exact zero as +0 (R284, R298). -/
def turnCode (c : Nat) : Nat := if c % 2 ^ 31 = 0 then 0 else c
def cosTurn (phi : Nat) : Nat := turnCode (fp32.cosp 0 false (.fin false phi (-32))).1
def sinTurn (phi : Nat) : Nat := turnCode (fp32.sinp 0 false (.fin false phi (-32))).1

/-- A product rounded to FP32. -/
def mul32 (a b : Nat) : Nat := (fp32.mulR 0 false (fp32.decode a) (fp32.decode b)).1

/-- The rotation of a pair of FP32 codes (R284). -/
def rotatePair (x y phi : Nat) : Nat × Nat :=
  let c := cosTurn phi
  let s := sinTurn phi
  (fma32 x c (fp32.modify true false (mul32 y s)), fma32 x s (mul32 y c))

/-- The pair that a lane delivers, in FP32 (R284, R319); a value's NaN is the canonical one, as of every conversion (R74). -/
def kvPair (key : Bool) (d : Desc) (j : Nat) (vs : List Nat) : Nat × Nat :=
  let x := widen d.efmt ((vs[0]?).getD 0)
  let y := widen d.efmt ((vs[1]?).getD 0)
  if key then rotatePair x y ((d.pos + j) * (vs[2]?).getD 0 % 2 ^ 32) else (narrowTo 1 x, narrowTo 1 y)

/-- Two FP32 codes as packed BF16 (R284, R319). -/
def packPair (p : Nat × Nat) : Word := BitVec.ofNat 32 (narrowTo 2 p.1 + narrowTo 2 p.2 * 2 ^ 16)

/-- The registers that a lane receives (R284, R318, R319). -/
def kvWrite (x : KvArgs) (l : Nat) (p : Nat × Nat) (clear : Bool) : List (Nat × Word) :=
  (match x.d with
    | .v n => if x.sub = 0 then [(32 * n.val + l, packPair p)]
        else [(32 * n.val + l, BitVec.ofNat 32 p.1), (32 * (n.val + 1) + l, BitVec.ofNat 32 p.2)]
    | _ => [])
  ++ (match x.c with
    | .v n => if x.fl then [(32 * n.val + l, if clear then 1 else 0)] else []
    | _ => [])

/-- The addresses that lane `l` reads (R284, R298, R318): none beyond D or with a clear survivor bit. -/
def kvAddrs (x : KvArgs) (key : Bool) (d : Desc) (j rot l : Nat) : List (Nat × Nat) :=
  let i := l + x.eofs.toNat
  if !bitOf d.surv j || d.dim ≤ 2 * i then []
  else
    let base := (if key then d.kframe else d.vframe) + d.slotOf j * d.slotBytes
    [(base + 2 * i * d.ebytes, d.ebytes), (base + (2 * i + 1) * d.ebytes, d.ebytes)] ++ if key then [(rot + 4 * i, 4)] else []

/-- The lanes that fail, each once: those that a check of order 7 refuses before those whose read fails (R318). -/
def KvLanes.fails (k : KvLanes) : List LaneFail :=
  let once (l : List LaneFail) : List LaneFail := l.foldl (fun r f => if r.any (·.1 = f.1) then r else r ++ [f]) []
  once (k.early ++ k.late)

/-- What the lanes that have not failed receive (R225, R284, R318, R319). -/
def KvLanes.res (k : KvLanes) (x : KvArgs) (key : Bool) (d : Desc) (j : Nat) : Res :=
  let ok := k.vals.filter fun e => !k.fails.any (·.1 = e.1)
  ⟨ok.flatMap fun e => kvWrite x e.1 (if e.2.isEmpty then (0, 0) else kvPair key d j e.2) (!bitOf d.surv j), [], 0⟩

/-- The reads that a gang's word has made apart from the others (R187). -/
def Gang.seen (g : Gang) : List KvSeen := match g.midway with | some w => w.seen | none => []

/-- The gang at the end of a key-value load: nothing of its word is still to act. -/
def Gang.endKvLoad (g : Gang) (r : Res) (got : KvGot) : Gang := g.beginLoad r got.reads (pagesOf got.xs ++ got.pages)

/-- KVLDK and KVLDV of a gang after their word checks (R318, R319). A shared read that fails traps every active lane. Of the reads of
the lanes, those of order 7 name the cause before those of order 8; a failing lane receives nothing, and the other lanes go on, as of any
load (R225, R381; DEDUCED: notes/assumptions 35). -/
def State.kvLoad (s : State) (x : KvArgs) (key : Bool) (g : Nat) (G : Gang) (gr : Group) (i : Issuer) : State :=
  let c : Accessor := ⟨G.part, gr.ctx, G.grp, false, false⟩
  let ctx := s.ctx gr.ctx
  let finish (s : State) (r : Res) (t : Option TrapInfo) (got : KvGot) : State :=
    (s.updGang g fun G => { G with midway := Option.none }).speculate g G i.pc false ⟨r.regs, [], if G.crawl then [] else got.reads⟩
      fun s => ((s.touchAll G.part gr.ctx false (·.hint) got.xs).updGang g fun G => G.endKvLoad r got).conclude g i.frag t
  let trap (s : State) (e : Cause) (acc : Nat) (us : List Nat) (got : KvGot) : State :=
    finish s .none (some { TrapInfo.plain e i.active i.frag i.pc with
      acc := acc, gather := us.map fun u => (u, i.active), walks := got.walks }) got
  if ctx.kvbase = 0 || (key && ctx.rotbase = 0) then
    let (n, s) := s.drawNat
    trap s .prot (n % 16) [] .none
  else match s.kvHead c G.tail (.start G.seen false) ctx.kvbase.toNat (i.rds x.a).toNat ((i.rds x.b).toNat % 2 ^ 32) with
    | .wait => s.stall g
    | .fail e acc us got s => trap s e acc us got
    | .ok d j got s =>
      match s.kvLanes c G.tail ⟨[], [], [], got⟩ (i.acts.map fun l => (l, kvAddrs x key d j ctx.rotbase.toNat l)) with
      | none => s.stall g
      | some (k, s) =>
        let res := k.res x key d j
        if s.requestsFull G.core (if G.crawl then 0 else res.vw.length) then s.stall g
        else finish s res ((reportFails i false 1 k.fails).map fun t => { t with walks := k.got.walks }) k.got

/-- The reads that a key-value load in crawl mode has still to make, in order, as things stand (R284, R318). -/
def State.kvScript (s : State) (x : KvArgs) (key : Bool) (G : Gang) (gr : Group) (i : Issuer) : List KvRead :=
  let c : Accessor := ⟨G.part, gr.ctx, G.grp, false, false⟩
  let ctx := s.ctx gr.ctx
  if ctx.kvbase = 0 || (key && ctx.rotbase = 0) then []
  else match s.kvHead c none (.start G.seen true) ctx.kvbase.toNat (i.rds x.a).toNat ((i.rds x.b).toNat % 2 ^ 32) with
    | .wait => []
    | .fail _ _ _ got _ => got.made
    | .ok d j got s =>
      match s.kvLanes c none ⟨[], [], [], got⟩ (i.acts.map fun l => (l, kvAddrs x key d j ctx.rotbase.toNat l)) with
      | none => got.made
      | some (k, _) => k.got.made

/-- One read made apart from the others, with what it leaves in the caches; none where it waits. -/
def State.kvSee (s : State) (G : Gang) (gr : Group) (r : KvRead) : Option (KvSeen × State) :=
  match s.kvFetch ⟨G.part, gr.ctx, G.grp, false, false⟩ none .none r.va r.n with
  | .wait => none
  | .ok v g s => some (⟨r.idx, v, none⟩, s.touchAll G.part gr.ctx false (·.hint) g.xs)
  | .fail f early g s => some (⟨r.idx, 0, some (f, early)⟩, s.touchAll G.part gr.ctx false (·.hint) g.xs)

/-- Reads made one after another. -/
def State.kvSeeAll (s : State) (G : Gang) (gr : Group) : List KvRead → Option (List KvSeen × State)
  | [] => some ([], s)
  | r :: rs => (s.kvSee G gr r).bind fun e => (State.kvSeeAll e.2 G gr rs).map fun t => (e.1 :: t.1, t.2)

/-- The next `k` read events of a key-value load in crawl mode, those of one tile or of one lane's word together (R187, R215): what they
have read, and the state after; none where nothing is left to read or a read waits. -/
def State.kvAhead (s : State) (x : KvArgs) (key : Bool) (G : Gang) (gr : Group) (i : Issuer) (k : Nat) : Option (List KvSeen × State) :=
  let todo := s.kvScript x key G gr i
  let keys := (todo.map (·.key)).eraseDups.take k
  let now := todo.filter fun r => keys.contains r.key
  if now.isEmpty then none else s.kvSeeAll G gr now

/-- The uses of a key-value load (R315). -/
def kvLoadUses (x : KvArgs) : List Use :=
  [if x.sub = 0 then Use.w x.d else Use.wq x.d, Use.r x.a, Use.r x.b] ++ if x.fl then [Use.w x.c] else []

/-- The meaning of KVLDK (R284, R318). -/
def execKvldk (x : KvArgs) (s : State) : Host.Outcome State Fault Refusal :=
  s.onGang (usesCheck (kvLoadUses x)) (kvLoadUses x) fun g G gr i => s.kvLoad x true g G gr i

/-- The meaning of KVLDV (R319). -/
def execKvldv (x : KvArgs) (s : State) : Host.Outcome State Fault Refusal :=
  s.onGang (usesCheck (kvLoadUses x)) (kvLoadUses x) fun g G gr i => s.kvLoad x false g G gr i

end Sys2Proof.Machine
end

