-- ==== Sys2Proof/Machine/Maps.lean ====
section
/-! DEFINITION. The map instructions and their element event (R268 to R276). -/
namespace Sys2Proof.Machine

/-- The uses of a map range instruction. -/
def mapUses (x : MapArgs) (b c : Bool) : List Use :=
  [Use.r x.d, Use.r x.a] ++ (if b then [Use.r x.b] else []) ++ if c then [Use.r x.c] else []

/-- Checks 1 and 3 of R225 for the units of a range (R269, check 4): the unit's first address with its leaf. -/
def State.walkUnits (s : State) (c : Accessor) : List (Nat × Nat) → Except (XFail × Nat) (List (Nat × Leaf)) × State
  | [] => (.ok [], s)
  | (lo, hi) :: r =>
    let go (l : Leaf) (s : State) : Except (XFail × Nat) (List (Nat × Leaf)) × State :=
      match State.walkUnits s c r with
      | (.ok t, s) => (.ok ((lo, l) :: t), s)
      | e => e
    if !s.check1 c.grp lo then (.error (⟨.prot, false, none, none⟩, lo), s)
    else if !s.check1 c.grp hi then (.error (⟨.prot, false, none, none⟩, hi), s)
    else if inCrew lo then go Leaf.none s
    else match s.translate c.p c.ctx lo with
      | (.invalid _ _, s) => (.error (⟨.pagefault, true, none, none⟩, lo), s)
      | (.malformed pte, s) => (.error (⟨.pagefault, false, some pte, none⟩, lo), s)
      | (.leaf l, s) => go (l.recorded s.mem) s

/-- Check 5 of R269 for a page. -/
def Context.mapPage (c : Context) (pre : Bool) (va : Nat) (l : Leaf) : Bool :=
  l.write && !c.inWindow va && l.tier != 2 && l.size != 0 && (paTier (l.frame + va % l.size)).isSome
  && (if pre then !l.mapped && l.hframe % (l.size / 8) = 0 else l.mapped)

/-- Whether a map command writes ahead of the mapping (R271): it waits for no bank command. -/
def MapCmd.ahead : MapCmd → Bool
  | .set _ pre => pre
  | _ => false

/-- The elements of a map command on `n` bytes from an address (R270, R272): one for each tile, named by its first address; ahead of
the mapping one for each header word, which the word's offset in the tile names. -/
def mapElems (m : MapCmd) (d n : Nat) : List Elem :=
  (List.range (n / 256)).flatMap fun k =>
    if m.ahead then (List.range 8).map fun j => .tile (d + 256 * k + 4 * j) else [.tile (d + 256 * k)]

/-- A map range instruction at issue (R268, R269): its checks in order, then its elements. A value operand and a length have no failing
address: TRAPADDR is the PC for ILLOP and d for LENGTH (DESIGN CHOICE: notes/assumptions 62). -/
def State.mapRange (s : State) (g : Nat) (G : Gang) (gr : Group) (i : Issuer) (d a : Nat) (bad pre : Bool) (m : MapCmd) :
    Option State :=
  let n := a % 2 ^ 32
  if bad then some (s.fault g (cmdTrap i .illop 2 i.pc))
  else if d % 256 != 0 then some (s.fault g (cmdTrap i .align 2 (BitVec.ofNat 64 d)))
  else if n % 256 != 0 then some (s.fault g (cmdTrap i .length 2 (BitVec.ofNat 64 d)))
  else
    match s.walkUnits ⟨G.part, gr.ctx, G.grp, true, true⟩ (unitsOf d n) with
    | (.error f, s) => some (s.fault g (pageTrap i 2 f))
    | (.ok us, s) =>
      match us.find? fun u => !(s.ctx gr.ctx).mapPage pre u.1 u.2 with
      | some u => some (s.fault g (cmdTrap i .prot 2 (BitVec.ofNat 64 u.1)))
      | none =>
        let ps := (us.map fun u => (u.1 / u.2.size * u.2.size, u.2)).eraseDups
        some ((s.issueOp g 2 (.map m) (mapElems m d n) ps false).goOn g i)

/-- The value operand of a map instruction (R268). -/
def mapVal (i : Issuer) (o : Operand) : Word := (i.rds o).setWidth 32

/-- A composing edit (R270): limits that fail at issue, and the map it applies. -/
def State.mapEdit (s : State) (x : MapArgs) (b c : Bool) (f : Issuer → Bool × MapCmd) : Host.Outcome State Fault Refusal :=
  s.command (mapUses x b c) 2 noCheck fun s g G gr i =>
    let (bad, m) := f i
    s.mapRange g G gr i (i.rds x.d).toNat (i.rds x.a).toNat bad false m

/-- The meaning of MSCL (R270). -/
def execMscl (x : MapArgs) (s : State) : Host.Outcome State Fault Refusal :=
  s.mapEdit x true false fun i => (false, .edit (mapVal i x.b) 0 0xFF800000 0x7F800000 0 0)

/-- The meaning of MOFS (R270). -/
def execMofs (x : MapArgs) (s : State) : Host.Outcome State Fault Refusal :=
  s.mapEdit x true false fun i => (false, .edit 0x3F800000 (mapVal i x.b) 0xFF800000 0x7F800000 0 0)

/-- The meaning of MCLP (R270): neither limit a NaN, LO not above HI, with -0 below +0. -/
def execMclp (x : MapArgs) (s : State) : Host.Outcome State Fault Refusal :=
  s.mapEdit x true true fun i =>
    let lo := mapVal i x.b
    let hi := mapVal i x.c
    (isNan32 lo.toNat || isNan32 hi.toNat || lt32 hi.toNat lo.toNat, .edit 0x3F800000 0 lo hi 0 0)

/-- The meaning of MFIL (R270). -/
def execMfil (x : MapArgs) (s : State) : Host.Outcome State Fault Refusal :=
  s.mapEdit x true false fun i => (false, .edit 0 (mapVal i x.b) 0xFF800000 0x7F800000 0 0)

/-- The meaning of MPRM (R270). -/
def execMprm (x : MapArgs) (s : State) : Host.Outcome State Fault Refusal :=
  s.mapEdit x true false fun i =>
    let v := (i.rds x.b).toNat
    (bitsOf v 63 12 != 0, .edit 0x3F800000 0 0xFF800000 0x7F800000 (bitsOf v 3 0) (bitsOf v 11 4))

/-- The meaning of MMAT (R273). -/
def execMmat (x : MapArgs) (s : State) : Host.Outcome State Fault Refusal := s.mapEdit x false false fun _ => (false, .mat)

/-- The meaning of MDROP (R273). -/
def execMdrop (x : MapArgs) (s : State) : Host.Outcome State Fault Refusal := s.mapEdit x false false fun _ => (false, .drop)

/-- The header image in s_E to s_E+3 (R271). -/
def setImage (i : Issuer) (b : Operand) : BitVec 256 :=
  match b with
  | .s n => i.getS (n.val + 3) ++ i.getS (n.val + 2) ++ i.getS (n.val + 1) ++ i.getS n.val
  | _ => 0

/-- Check 1 of MSET (R272): what the device can refuse without the tile's EFMT. With EFMT 0 that is no r or m, not even one out of range in
every format, which each tile refuses (DESIGN CHOICE: notes/assumptions 62). -/
def setBad (v : Nat) : Bool :=
  let h := Hdr.ofNat v
  bitsOf v 255 192 != 0 || bitsOf v 175 170 != 0 || bitsOf v 167 164 != 0 || bitsOf v 159 144 != 0 || bitsOf v 143 140 != 0
  || h.seq != 0 || 4 < h.efmt
  || (h.efmt != 0 && (indexWidth h.efmt ≤ h.r || 2 ^ indexWidth h.efmt ≤ h.m))
  || (h.ident && h != Hdr.identity h.efmt 0)
  || (!h.filled && (isNan32 h.a || isNan32 h.b || isNan32 h.lo || isNan32 h.hi || lt32 h.hi h.lo))

/-- The meaning of MSET (R271, R272). -/
def execMset (x : MapArgs) (s : State) : Host.Outcome State Fault Refusal :=
  s.command [Use.r x.d, Use.r x.a, ⟨x.b, false, 1, 1, 4, 4⟩] 2 noCheck fun s g G gr i =>
    let v := setImage i x.b
    s.mapRange g G gr i (i.rds x.d).toNat (i.rds x.a).toNat (setBad v.toNat) (x.sub = 1) (.set v (x.sub = 1))

/-! ### The element event -/

/-- How an element event on a tile ends: unchanged, changed, or refused with a record (a discarded page has come back first). -/
inductive TileEnd where
  | done (s : State)
  | refused (s : State) (c : Cause)
  deriving DecidableEq, Repr

/-- The header that MSET writes (R272): EFMT 0 keeps the tile's, or takes FP32 where that names no format, as R229 does (DEDUCED:
notes/assumptions 55); SEQ one more, 0 for `.PRE`; none where r or m does not fit the EFMT. -/
def setHdr (old v : Nat) (pre : Bool) : Option Hdr :=
  let o := Hdr.ofNat old
  let h := Hdr.ofNat v
  let kept := if 1 ≤ o.efmt && o.efmt ≤ 4 then o.efmt else 1
  let h := { h with efmt := if h.efmt = 0 then kept else h.efmt, seq := if pre then 0 else (o.seq + 1) % 2 ^ 16 }
  if hdrMalformed h.toNat then none else some h

/-- Bytes 4j to 4j + 3 of a header written as a word event on the header frame (R267, R272). -/
def State.putHdrWord (s : State) (t : Tile) (h : Hdr) (j : Nat) : State :=
  s.writeMem none none (((t.hdrBytes h).drop (4 * j)).take 4)

/-- One map element on a tile that no bank command holds (R270, R272, R273); `j` is the header word of an element ahead of the
mapping. MPRM with r or m out of range on a discarded page revives the page first and is then refused; MMAT of a tile with IDENT = 1 leaves no
record though a payload word is poisoned (DESIGN CHOICE: notes/assumptions 62). -/
def State.mapTileEvent (s : State) (m : MapCmd) (t : Tile) (j : Nat) : TileEnd :=
  let live (s : State) (f : Hdr → TileEnd) : TileEnd :=
    if s.hdrPoisoned t then .refused s .poison
    else if hdrMalformed (s.tileHdr t) then .refused s .prot
    else f (Hdr.ofNat (s.tileHdr t))
  match m with
  | .set v pre =>
    let s := if pre then s else s.revive t.leaf
    match setHdr (memNat s.mem t.hpa 32) v.toNat pre with
    | some h => .done (if pre then s.putHdrWord t h j else s.putHdr t h)
    | none => .refused s .illop
  | .edit a b lo hi r mm =>
    let s := s.revive t.leaf
    live s fun h =>
      if indexWidth h.efmt ≤ r || 2 ^ indexWidth h.efmt ≤ mm then .refused s .illop
      else
        let e : Edit := ⟨a.toNat, b.toNat, lo.toNat, hi.toNat, r, mm⟩
        if (h.compose e).isNone && s.payloadPoisoned t then .refused s .poison
        else .done (s.editTile t e)
  | .mat =>
    if leafDiscard s.mem t.leaf then .done s
    else live s fun h =>
      if h.ident then .done s else if s.payloadPoisoned t then .refused s .poison else .done (s.materialise none t)
  | .drop =>
    if leafDiscard s.mem t.leaf then .done s
    else live s fun h => if h.ident then .done s else .done (s.putHdr t (Hdr.identity h.efmt (h.seq + 1)))

/-- The elements of a tile that is refused are gone with the one that met it. -/
def dropTile (va : Nat) (es : List Elem) : List Elem :=
  es.filter fun e => match e with | .tile a => a / 256 != va / 256 | _ => true

/-- The meaning of MAP_EDIT_ELEMENT (R270 to R273): element `el` of operation `id`; it waits while a bank command holds
the tile (R265), and a refused tile is recorded and left as it stands. -/
def execMapEditElement (id el : Nat) (s : State) : Host.Outcome State Fault Refusal :=
  .next (match s.op id with
    | none => s
    | some o =>
      match o.kind, o.elems[el]? with
      | .map m, some (.tile va) =>
        match pageOf (s.opPages o) va with
        | none => s
        | some e =>
          let t := tileOf e.2 (physOf e va)
          let j := va % 256 / 4
          if !m.ahead && s.engineHeld e.2 t.pa 256 then s
          else
            let s := if j = 0 then s.countSlice (homeSlice t.pa 0) 0x45 1 else s
            match s.mapTileEvent m t j with
            | .done s => s.dropElem id el
            | .refused s c => (s.updOp id fun o => { o with elems := dropTile va o.elems }).logTile o.ctx (s.opNode o) c t.pa
      | _, _ => s)

/-! ### MGET -/

/-- The header that a gang's MGET finds (R229, R267, R274), after its own tail's stores. -/
def State.seenHdr (s : State) (b : Option Tail) (t : Tile) : Nat := s.viewHdr b t

/-- What MGET of a gang fails with beyond R225 (R274). -/
def State.mgetFail (s : State) (b : Option Tail) (x : Xlat) : Option Cause :=
  if !x.leaf.mapped then some .prot
  else
    let t := tileOf x.leaf x.pa
    if !leafDiscard s.mem x.leaf && s.hdrPoisonIn b t then some .poison
    else if hdrMalformed (s.viewHdr b t) then some .prot
    else none

/-- The meaning of MGET (R274). The whole tile enters the read set, the directory's one unit (R219, R265; DESIGN CHOICE:
notes/assumptions 62). -/
def execMget (x : Ops2) (s : State) : Host.Outcome State Fault Refusal :=
  let us := [⟨x.x, true, 1, 1, 4, 4⟩, Use.r x.y]
  s.onGang (usesCheck us) us fun g G gr i =>
    let va := (i.rds x.y).toNat
    let c : Accessor := ⟨G.part, gr.ctx, G.grp, false, false⟩
    let fail (s : State) (f : XFail) (ws : List Nat) (ps : List (Nat × Nat)) : State :=
      s.speculate g G i.pc false ⟨[], [], if G.crawl then [] else ws⟩ fun s =>
        (s.updGang g fun G => G.beginLoad .none ws ps).conclude g i.frag
          ((reportFails i true 1 [(0, va, f.cause, f.gather)]).map fun t => { t with walks := f.badPte.toList })
    match s.checkAccess c none va 1 with
    | (.error f, s) => fail s f [] f.page.toList
    | (.ok y, s) =>
      if y.leaf.mapped && s.heldAny [y] 1 then s.stall g
      else match s.mgetFail G.tail y with
      | some e => fail s ⟨e, false, none, none⟩ (if y.leaf.mapped then (tileOf y.leaf y.pa).words else []) (pagesOf [y])
      | none =>
        let t := tileOf y.leaf y.pa
        let h := s.seenHdr G.tail t
        let r : Res := match x.x with
            | .s n => ⟨[], [(n.val, BitVec.ofNat 64 h), (n.val + 1, BitVec.ofNat 64 (h / 2 ^ 64)),
                (n.val + 2, BitVec.ofNat 64 (h / 2 ^ 128)), (n.val + 3, 0)], 0⟩
            | _ => .none
        s.speculate g G i.pc false ⟨r.regs, [], if G.crawl then [] else t.words⟩ fun s =>
            (s.updGang g fun G => ((G.commitRes r).enterReads t.words).notePages [y]).goOn g i

end Sys2Proof.Machine
end

