-- ==== Sys2Proof/Machine/Crypto.lean ====
section
/-! DEFINITION. The functions that Lamgil applies (R376, R377): SHA-384, and ECDSA over brainpoolP384r1 (the constants are
those of the standards that R376 names). -/
namespace Sys2Proof.Machine

/-! ### SHA-384 -/

/-- The number that big-endian bytes make (R376). -/
def beNat (bs : List Byte) : Nat := bs.foldl (fun n b => 256 * n + b.toNat) 0

/-- `n` bytes of a number, most significant first (R376). -/
def beBytes (n x : Nat) : List Byte := (leBytes n x).reverse

/-- The whole part of the `e`-th root of `x`, found bit by bit from bit `n - 1` down, above the part `r` already found. -/
def rootFrom (e x : Nat) : Nat → Nat → Nat
  | 0, r => r
  | n + 1, r => rootFrom e x n (if (r + 2 ^ n) ^ e ≤ x then r + 2 ^ n else r)

/-- The first 64 bits behind the point of the `e`-th root of `p`, for a root below 8. -/
def rootFraction (e p : Nat) : DWord := BitVec.ofNat 64 (rootFrom e (p * 2 ^ (64 * e)) 67 0)

/-- The first 80 primes, which end with 409. -/
def shaPrimes : List Nat := (List.range 410).filter fun n => 2 ≤ n && (List.range 21).all fun d => d < 2 || n ≤ d || n % d != 0

/-- The round constants: from the cube roots of the primes. -/
def shaConstants : List DWord := shaPrimes.map (rootFraction 3)

/-- The eight working words of the hash. -/
structure ShaWords where
  up : DWord × DWord × DWord × DWord
  down : DWord × DWord × DWord × DWord
  deriving DecidableEq, Repr

/-- What stands in the working words before the first block: from the square roots of the ninth to the sixteenth prime. -/
def shaStart : ShaWords :=
  let r (k : Nat) : DWord := rootFraction 2 ((shaPrimes[k]?).getD 0)
  ⟨(r 8, r 9, r 10, r 11), (r 12, r 13, r 14, r 15)⟩

/-- The exclusive or of three right rotations. -/
def rot3 (x : DWord) (i j k : Nat) : DWord := x.rotateRight i ^^^ x.rotateRight j ^^^ x.rotateRight k

/-- One round with the sum of its constant and its message word: both halves move up by one word. -/
def ShaWords.round (h : ShaWords) (kw : DWord) : ShaWords :=
  let (p, q, r, carry) := h.up
  let (x, y, z, last) := h.down
  let pick := z ^^^ (x &&& (y ^^^ z))
  let most := (p &&& q) ||| (r &&& (p ||| q))
  let step := last + kw + pick + rot3 x 14 18 41
  ⟨(step + most + rot3 p 28 34 39, p, q, r), (carry + step, x, y, z)⟩

/-- The sixteen message words of the next round, from those of this one, oldest first. -/
def shaWindow (w : List DWord) : List DWord :=
  let m (k : Nat) : DWord := (w[k]?).getD 0
  let near := (m 1).rotateRight 1 ^^^ (m 1).rotateRight 8 ^^^ m 1 >>> 7
  let far := (m 14).rotateRight 19 ^^^ (m 14).rotateRight 61 ^^^ m 14 >>> 6
  w.drop 1 ++ [m 0 + near + m 9 + far]

/-- The rounds over the constants that are left. -/
def shaRounds : List DWord → List DWord → ShaWords → ShaWords
  | [], _, h => h
  | k :: ks, w, h => shaRounds ks (shaWindow w) (h.round (k + (w[0]?).getD 0))

/-- The working words added one by one. -/
def ShaWords.plus (h g : ShaWords) : ShaWords :=
  let add (a b : DWord × DWord × DWord × DWord) : DWord × DWord × DWord × DWord :=
    (a.1 + b.1, a.2.1 + b.2.1, a.2.2.1 + b.2.2.1, a.2.2.2 + b.2.2.2)
  ⟨add h.up g.up, add h.down g.down⟩

/-- The hash over `n` blocks of 128 bytes. -/
def shaOver : Nat → List Byte → ShaWords → ShaWords
  | 0, _, h => h
  | n + 1, bs, h =>
    let w := (List.range 16).map fun k => BitVec.ofNat 64 (beNat ((bs.drop (8 * k)).take 8))
    shaOver n (bs.drop 128) (h.plus (shaRounds shaConstants w h))

/-- SHA-384 of a message (R376): 48 bytes, the first six words after the padded message. -/
def sha384 (bs : List Byte) : List Byte :=
  let whole := (bs.length + 144) / 128
  let zeros := 128 * whole - 17 - bs.length
  let h := shaOver whole (bs ++ [0x80] ++ List.replicate zeros 0 ++ beBytes 16 (8 * bs.length)) shaStart
  let (a, b, c, d) := h.up
  [a, b, c, d, h.down.1, h.down.2.1].flatMap fun w => beBytes 8 w.toNat

/-! ### ECDSA -/

/-- The field, the coefficients, the order and the base point of brainpoolP384r1. -/
def curveP : Nat := 0x8cb91e82a3386d280f5d6f7e50e641df152f7109ed5456b412b1da197fb71123acd3a729901d1a71874700133107ec53
def curveA : Nat := 0x7bc382c63d8c150c3c72080ace05afa0c2bea28e4fb22787139165efba91f90f8aa5814a503ad4eb04a8c7dd22ce2826
def curveB : Nat := 0x04a8c7dd22ce28268b39b55416f0447c2fb77de107dcd2a62e880ea53eeb62d57cb4390295dbc9943ab78696fa504c11
def curveN : Nat := 0x8cb91e82a3386d280f5d6f7e50e641df152f7109ed5456b31f166e6cac0425a7cf3ab6af6b7fc3103b883202e9046565
def curveG : Nat × Nat :=
  (0x1d1c64f068cf45ffa2a63a81b7c13f6b8847a3e77ef14fe3db7fcafe0cbd10e8e826e03436d646aaef87b2e247d4af1e,
   0x8abe1d7520f9c2a45cb1eb8e95cfd55262b70b29feec5864e19c054ff99129280e4646217791811142820341263c5315)

/-- A power modulo `m`, over the low `n` bits of the exponent. -/
def powMod (m : Nat) : Nat → Nat → Nat → Nat
  | 0, _, _ => 1 % m
  | n + 1, x, e => (if e % 2 = 1 then x else 1) * powMod m n (x * x % m) (e / 2) % m

/-- The inverse modulo a prime of at most 384 bits. -/
def invMod (m x : Nat) : Nat := powMod m 384 (x % m) (m - 2)

/-- A difference modulo `p`. -/
def subMod (m x y : Nat) : Nat := (x % m + m - y % m) % m

/-- A point of the curve; none is the point at infinity. -/
abbrev Point := Option (Nat × Nat)

/-- The sum of two points. -/
def pointAdd (a b : Point) : Point :=
  match a, b with
  | none, b => b
  | a, none => a
  | some (x, y), some (u, v) =>
    if x = u && (y + v) % curveP = 0 then none
    else
      let l := if x = u then (3 * x * x + curveA) * invMod curveP (2 * y) % curveP
        else subMod curveP v y * invMod curveP (subMod curveP u x) % curveP
      let z := subMod curveP (l * l) (x + u)
      some (z, subMod curveP (l * subMod curveP x z) y)

/-- A multiple of a point, over the low `n` bits of the factor. -/
def pointMul : Nat → Nat → Point → Point
  | 0, _, _ => none
  | n + 1, k, a =>
    let r := pointMul n (k / 2) (pointAdd a a)
    if k % 2 = 1 then pointAdd a r else r

/-- Whether a point lies on the curve. -/
def onCurve (q : Nat × Nat) : Bool :=
  q.1 < curveP && q.2 < curveP && q.2 * q.2 % curveP = (q.1 * q.1 * q.1 + curveA * q.1 + curveB) % curveP

/-- ECDSA verification of a digest (R376): r and s from 1 to the order less 1. -/
def ecdsaOk (q : Nat × Nat) (r s : Nat) (digest : List Byte) : Bool :=
  let w := invMod curveN s
  let e := beNat digest
  r != 0 && r < curveN && s != 0 && s < curveN && onCurve q
  && match pointAdd (pointMul 384 (e * w % curveN) (some curveG)) (pointMul 384 (r * w % curveN) (some q)) with
     | some p => p.1 % curveN = r
     | none => false

/-- An ECDSA signature with a key and a nonce (R377). -/
def ecdsaSign (key nonce : Nat) (digest : List Byte) : Nat × Nat :=
  match pointMul 384 nonce (some curveG) with
  | some p => (p.1 % curveN, invMod curveN nonce * (beNat digest + p.1 % curveN * key) % curveN)
  | none => (0, 0)

end Sys2Proof.Machine
end

