-- ==== Sys2Proof/Machine/Platform.lean ====
section
/-! DEFINITION. The platform (R2, R34, R366, R372 to R380): Lamgil's checks and reports, units that become ready or go
offline, soft errors, resets, the clock, and what the links do. -/
namespace Sys2Proof.Machine

/-! ### Registers of R372 that the host reads -/

/-- A number with the bits of a list set. -/
def bitSet (l : List Nat) : Nat := (l.eraseDups.map fun k => 2 ^ k).sum

/-- READY0 (R375). -/
def State.ready0 (s : State) : Nat :=
  boolNat s.link + 2 * boolNat s.lamgil + 2 ^ 2 * bitSet s.clusters + 2 ^ 26 * bitSet s.stacksUp
/-- READY1 and READY2 (R372). -/
def State.ready1 (s : State) : Nat := bitSet s.channels % 2 ^ 64
def State.ready2 (s : State) : Nat := bitSet s.channels / 2 ^ 64
/-- ONLINE (R372): the cores of ready clusters that are not offline, and the ready clusters. -/
def State.online (s : State) : Nat :=
  ((List.range 24).map fun c => (s.usableCores c).length).sum + 2 ^ 8 * s.clusters.eraseDups.length

/-- The register of a context's block at an offset (R352). -/
def blockReg (c : Nat) : Nat → Option HostReg
  | 0x00 => some (.submit c)
  | 0x08 => some (.ctxrec c)
  | 0x10 => some (.ctxctl c)
  | 0x18 => some (.resolve c)
  | _ => none

/-- The register that a write at an offset of a function's BAR 0 reaches (R371, R372); none where nothing is written. -/
def barReg (fn off : Nat) : Option HostReg :=
  if fn != 0 then blockReg (fn - 1) off
  else if 0x1000 ≤ off && off < 0x2000 then some (.mailbox (off - 0x1000))
  else if 0x100000 ≤ off && off < 0x104000 then blockReg ((off - 0x100000) / 0x100) (off % 0x100)
  else if 0x200000 ≤ off && off < 0x204000 then
    let i := (off - 0x200000) / 0x80
    let j := off % 0x80 / 16
    if off % 16 = 0 then some (.sliceSel i j) else if off % 16 = 8 then some (.sliceCnt i j) else none
  else none

/-- What a context's block reads as (R352): SUBMIT and RESOLVE are written only; the block of a virtual function reads as zero to the
physical one (R371). -/
def State.blockRead (s : State) (fn c off : Nat) : Nat :=
  if !s.reaches fn c then 0
  else match off with
    | 0x08 => (s.ctx c).ctxrec.toNat
    | 0x10 => (s.ctx c).ctl
    | 0x20 => (s.ctx c).subfree
    | _ => 0

/-- What the host reads at an offset of a function's BAR 0 (R371, R372): 64 bits, 32 of the mailbox; 0 where nothing stands
(DESIGN CHOICE: notes/assumptions 60). -/
def State.barRead (s : State) (fn off : Nat) : Nat :=
  if fn != 0 then s.blockRead fn (fn - 1) off
  else match off with
    | 0x0000 => s.ready0
    | 0x0008 => s.ready1
    | 0x0010 => s.ready2
    | 0x0018 => s.online
    | _ =>
      if 0x1000 ≤ off && off < 0x2000 then leNat ((List.range 4).map fun k => stGet s.mailbox ((off - 0x1000) / 4 * 4 + k))
      else if 0x100000 ≤ off && off < 0x104000 then s.blockRead 0 ((off - 0x100000) / 0x100) (off % 0x100)
      else match barReg 0 off with
        | some (.sliceSel i j) => (stGet (s.slice i).sel j).toNat
        | some (.sliceCnt i j) => (stGet (s.slice i).cnt j).toNat
        | _ => 0

/-- The host reads a register (R371, R375): nothing answers before the link is up. -/
def State.hostRead (s : State) (fn off : Nat) : State :=
  s.reply (if s.link then .data (BitVec.ofNat 64 (s.barRead fn off)) else .unsupported)

/-- The host writes at an offset of a function's BAR 0 (R371, R372); a write that reaches no register is ignored. -/
def State.hostStore (s : State) (fn off : Nat) (v : DWord) : State :=
  match barReg fn off with
  | some r => s.hostWrite fn r v
  | none => s

/-! ### Lamgil -/

/-- Bytes of the mailbox (R372). -/
def State.mailBytes (s : State) (o n : Nat) : List Byte := (List.range n).map fun k => stGet s.mailbox (o + k)

/-- Bytes put into the mailbox. -/
def State.mailPut (s : State) (o : Nat) (bs : List Byte) : State :=
  { s with mailbox := stSetAll s.mailbox ((List.range bs.length).zip bs |>.map fun e => (o + e.1, e.2)) }

/-- The body of an image (R376), and its trailer. -/
def imageBody (im : List Byte) : List Byte := im.take (im.length - 256)
def imageTrailer (im : List Byte) : List Byte := im.drop (im.length - 256)
/-- PUBKEY of a trailer. -/
def trailerKey (t : List Byte) : List Byte := (t.drop 8).take 96

/-- Whether an image is well formed and its signature holds (R376). -/
def imageOk (im : List Byte) : Bool :=
  let t := imageTrailer im
  let n (o : Nat) : Nat := beNat ((t.drop o).take 48)
  256 ≤ im.length && recField t 0 4 = 0x00010000 && recField t 4 4 = im.length - 256 && recField t 4 4 % 256 = 0
  && (t.drop 0xC8).all (· == 0) && ecdsaOk (n 8, n 0x38) (n 0x68) (n 0x98) (sha384 (imageBody im))

/-- Whether Lamgil accepts firmware and configuration record (R376). -/
def imagesOk (firmware config : List Byte) : Bool :=
  imageOk firmware && imageOk config && sha384 (trailerKey (imageTrailer firmware)) == Config.vendorDigest
  && trailerKey (imageTrailer config) == ((imageBody firmware).drop 0x40).take 96

/-- The meaning of FIRMWARE_VERIFY (R375, R376): LAMGIL is set when both images are accepted. -/
def execFirmwareVerify (s : State) : Host.Outcome State Fault Refusal :=
  .next (if !s.offline.contains .lamgil && imagesOk s.firmware s.config then { s with lamgil := true } else s)

/-- The identity public key (R376). -/
def identityPublic : List Byte :=
  match pointMul 384 Config.identityKey (some curveG) with
  | some q => beBytes 48 q.1 ++ beBytes 48 q.2
  | none => List.replicate 96 0

/-- The signed part of an attestation report (R377). -/
def State.report (s : State) : List Byte :=
  leBytes 4 0x00010001 ++ leBytes 4 s.online ++ sha384 s.firmware ++ sha384 s.config ++ s.mailBytes 0x10 48 ++ identityPublic

/-- A report with its signature (R377). -/
def State.signedReport (s : State) : List Byte :=
  let d := sha384 s.report
  let (r, t) := ecdsaSign Config.identityKey (Config.identityNonce d) d
  s.report ++ beBytes 48 r ++ beBytes 48 t

/-- The meaning of ATTESTATION_REQUEST (R377): the request word holds 1; the report is built and the word cleared. -/
def execAttestationRequest (s : State) : Host.Outcome State Fault Refusal :=
  .next (if s.lamgil && leNat (s.mailBytes 0 4) = 1 then (s.mailPut 0x100 s.signedReport).mailPut 0 [0, 0, 0, 0] else s)

/-! ### Units -/

/-- The meaning of UNIT_READY (R375): a unit that is not offline sets its flag; a stack is zero-filled first. Lamgil's
flag is FIRMWARE_VERIFY's. -/
def execUnitReady (u : Device) (s : State) : Host.Outcome State Fault Refusal :=
  .next (if s.offline.contains u then s
    else match u with
      | .link => { s with link := true }
      | .cluster c => if c < 24 && !s.clusters.contains c then { s with clusters := insNat s.clusters c } else s
      | .stack k =>
        if k < 2 && !s.stacksUp.contains k then
          { s.zeroFill (k * 0x200000000) 0x200000000 with stacksUp := insNat s.stacksUp k }
        else s
      | .channel c => if c < 128 && !s.channels.contains c then { s with channels := insNat s.channels c } else s
      | .lamgil | .core _ | .slice _ | .bank _ => s)

/-- Poisoning writes of words by the directory (R186, R202): write events, which shed the tails that read them (R213). A tail that only
stored a part of such a word commits, and the word stays poisoned (DESIGN CHOICE: notes/assumptions 57). -/
def State.poisonWords (s : State) (ws : List Nat) : State :=
  if ws.isEmpty then s
  else
    { s with
      poison := ws.foldl insNat s.poison
      owner := s.owner.filter fun e => !ws.contains e.1
      stamp := s.stamp + 1
      gangs := s.gangs.map (Gang.markConflict · ws) }

/-- A window copy in which some words are poisoned: what was modified in them is lost (R202, R379). -/
def WinCopy.spoil (c : WinCopy) (ws : List Nat) : WinCopy :=
  let hit (k : Nat) : Bool := ws.contains (32 * c.line + k)
  { c.cleaned hit with bad := c.bad ||| maskOf hit }

/-- The copies of home slices in which some words are poisoned. -/
def State.spoilHomes (s : State) (ws : List Nat) : State :=
  { s with l2win := s.l2win.map fun (c : WinCopy) => if ws.any (· / 32 = c.line) then c.spoil ws else c }

/-- The cores of a unit. -/
def deviceCores : Device → List Nat
  | .cluster c => (List.range 8).map (8 * c + ·)
  | .core c => [c]
  | _ => []

/-- Whether a word lies in the scratchpad of a group that stands on a core (R164, R165). -/
def State.scratchAt (s : State) (core w : Nat) : Bool :=
  2 ^ 52 ≤ 4 * w && match s.groups[(4 * w - 2 ^ 52) / 2 ^ 21]? with | some g => g.core = core && s.keepsScratch g | none => false

/-- The L1 and the scratchpad of a core are lost (R202): the words in `lost` become poison, the other dirty window words were written
back. -/
def State.loseCore (s : State) (lost : List Nat) (core : Nat) : State :=
  let copies := s.l1win.filter fun c => c.unit = core
  let gone := (copies.flatMap fun c => wordsOf c.dirtyBytes).filter lost.contains
  let s := copies.foldl (fun s c => s.backL1 core c.line fun k => !lost.contains (32 * c.line + k)) s
  let owned := lost.filter fun w => tabGet s.owner Config.cores w = core || s.scratchAt core w
  let s := { s with
    l1 := s.l1.filter fun c => c.unit != core
    l1win := s.l1win.filter fun c => c.unit != core
    owner := s.owner.filter fun e => e.2 != core
    tlb := s.tlb.filter fun e => e.core != core }
  let s := ((s.poisonWords owned).poisonWords gone).spoilHomes gone
  s.setCore core { s.core core with offline := true }

/-- An L2 slice is lost (R202): of the words in `lost`, those that it holds modified become poison; other dirty words were written
back. -/
def State.loseSlice (s : State) (lost : List Nat) (i : Nat) : State :=
  let copies := s.l2win.filter fun c => c.unit = i
  let gone := (copies.flatMap fun c => wordsOf c.dirtyBytes).filter lost.contains
  let s := copies.foldl (fun s c => s.backL2 i c.line fun k => !lost.contains (32 * c.line + k)) s
  let home := lost.filter fun w =>
    (s.l2.any fun c => c.unit = i && c.line = w / 32 && c.mod.getLsbD (w % 32)) && !(s.owner.any fun e => e.1 = w)
  let s := { s with
    l2 := s.l2.filter fun c => c.unit != i
    l2win := s.l2win.filter fun c => c.unit != i }
  (s.poisonWords home).poisonWords gone

/-- The matrix units of an offline core: what they had queued is gone, and counts as over. -/
def State.loseMatrix (s : State) (core : Nat) : State :=
  (List.range 8).foldl (fun s k =>
    let p := 8 * core + k
    let ids := ((s.part p).mq.filter fun o => o.kind = 0 || o.kind = 1 || o.kind = 5).map (·.op)
    { s.updPart p fun P => { P.handTo none with mq := [], accs := [Acc.zero, Acc.zero] } with
      ops := s.ops.map fun (o : AsyncOp) => if ids.contains o.id then { o with busy := false } else o }) s

/-- The items of an offline bank core end (R349, R366), `n` of them at most. -/
def State.loseItems (b : Nat) : Nat → State → State
  | 0, s => s
  | n + 1, s =>
    match s.items.findIdx? fun it => it.core = b && it.stand != .done with
    | some k => State.loseItems b n (s.loseItem k)
    | none => s

/-- The bank cores of a unit. -/
def deviceBanks : Device → List Nat
  | .stack k => (List.range 256).map (256 * k + ·)
  | .bank b => [b]
  | _ => []

/-- The UNIT of a record about a unit (R369). -/
def deviceCode : Device → Nat
  | .core c => unitCode 0 (8 * c)
  | .slice i => unitCode 1 i
  | .bank b => unitCode 2 b
  | .stack k => unitCode 2 (256 * k)
  | .cluster c => unitCode 3 c
  | .link | .lamgil | .channel _ => unitCode 4 0

/-- The contexts concerned by a unit, each with the record address of a node: those that have a group or a bank item on it, and where
none has, every active context (DESIGN CHOICE: notes/assumptions 59). -/
def State.concerned (s : State) (u : Device) : List (Nat × Nat) :=
  let gs := (s.gangs.filter fun g => g.stand == .resident && (deviceCores u).contains g.core).map fun g => (s.ctxOf g.grp, s.nodeAddr g.grp)
  let bs := s.items.filterMap fun it =>
    if it.stand != .done && (deviceBanks u).contains it.core then (s.cmd it.cmd).map fun c => (c.ctx, s.nodeAddr c.grp) else none
  match (gs ++ bs).foldl (fun (l : List (Nat × Nat)) e => if l.any (·.1 == e.1) then l else l ++ [e]) [] with
  | [] => (s.ctxs.filter (·.2.active)).map fun c => (c.1, 0)
  | l => l

/-- Records of a unit that went offline (R366), one for each context concerned; the spec names no cause. -/
def State.logUnit (s : State) (u : Device) (l : List (Nat × Nat)) : State :=
  l.foldl (fun s e => let (n, s) := s.drawNat; s.logErr e.1 8 (anyCause n) 0 (deviceCode u) 0 e.2) s

/-- A unit's ready flag clears (R375), and the unit stays offline until the next reset (R2). -/
def State.flagOff (s : State) (u : Device) : State :=
  let s := { s with offline := s.offline ++ [u] }
  match u with
  | .link => { s with link := false }
  | .lamgil => { s with lamgil := false }
  | .cluster c => { s with clusters := s.clusters.filter (· != c) }
  | .stack k => { s with stacksUp := s.stacksUp.filter (· != k) }
  | .channel c => { s with channels := s.channels.filter (· != c) }
  | .core _ | .slice _ | .bank _ => s

/-- A unit is taken offline (R2, R366): its groups end, its modified copies become poison, its bank items end. -/
def State.takeOffline (s : State) (u : Device) (lost : List Nat) : State :=
  if s.offline.contains u then s
  else
    let who := s.concerned u
    let grps := ((s.gangs.filter fun g => g.stand == .resident && (deviceCores u).contains g.core).map (·.grp)).eraseDups
    let s := grps.foldl State.endGroup s
    let s := (deviceCores u).foldl (fun s c => (s.loseCore lost c).loseMatrix c) s
    let s := match u with | .slice i => s.loseSlice lost i | _ => s
    let s := s.flagOff u
    let s := (deviceBanks u).foldl (fun s b => s.loseItems b s.items.length) s
    s.logUnit u who

/-- The meaning of UNIT_OFFLINE (R366); `lost` says which modified words had not been written back. -/
def execUnitOffline (u : Device) (lost : List Nat) (s : State) : Host.Outcome State Fault Refusal := .next (s.takeOffline u lost)

/-! ### Soft errors and scrubbing -/

/-- The meaning of SOFT_ERROR (R379): a clean window copy is fetched again, a dirty one is lost in both words of the codeword. -/
def execSoftError (x : Strike) (s : State) : Host.Outcome State Fault Refusal :=
  .next (match x with
    | .corrected i => s.countSlice i 0x47 1
    | .clean => s
    | .memory pa => if isFar pa then s else s.poisonWords [pa / 8 * 2, pa / 8 * 2 + 1]
    | .copy l2 u pa =>
      let ws := [pa / 8 * 2, pa / 8 * 2 + 1]
      match copyOf (if l2 then s.l2win else s.l1win) u (pa / 128) with
      | none => s
      | some c =>
        if (c.dirtyOf fun k => ws.contains (32 * c.line + k)).isEmpty then s
        else if l2 then (s.poisonWords ws).spoilHomes ws
        else { (s.poisonWords ws).spoilHomes ws with l1win := updCopy s.l1win u (pa / 128) fun d => d.spoil ws }
    | .gang g =>
      match s.gangs[g]? with
      | none => s
      | some G =>
        if G.stand != .resident then s
        else
          let node := s.nodeAddr G.grp
          let (n, s) := s.drawNat
          (s.endGroup G.grp).logErr (s.ctxOf G.grp) 1 .poison 0 (unitCode 0 G.part) (n % 2 ^ 64) node
    | .bankStore b =>
      match s.running b with
      | none => s
      | some k =>
        match (s.items[k]?).bind fun it => (s.cmd it.cmd).map fun c => (it, c) with
        | some (it, c) =>
          match it.kern with
          | some kn => s.abortKernel b .poison kn.pc.toNat
          | none => s.stopItem k it c (.poison, 0)
        | none => s)

/-- The meaning of SCRUB (R379): no value changes; the clk of the pass is noted. -/
def execScrub (bulk : Bool) (s : State) : Host.Outcome State Fault Refusal :=
  .next (if bulk then { s with scrubBulk := s.clock.toNat } else { s with scrubStack := s.clock.toNat })

/-- The meaning of THERMAL_THROTTLE (R380): the partition's slot of this clk is withheld. -/
def execThermalThrottle (p : Nat) (s : State) : Host.Outcome State Fault Refusal :=
  .next (s.updPart p fun P => { P with throttled := true })

/-! ### Resets -/

/-- The meaning of FLR_VF (R380): the context of virtual function `k` is torn down. -/
def execFlrVf (k : Nat) (s : State) : Host.Outcome State Fault Refusal :=
  .next (if 1 ≤ k && s.vfOwns (k - 1) then s.teardown (k - 1) else s)

/-- The meaning of FLR_PF (R380). -/
def execFlrPf (s : State) : Host.Outcome State Fault Refusal :=
  .next (
    let s := (List.range 64).foldl State.teardown { s with vfs := 0 }
    let s := { s with
      ctxs := s.ctxs.map fun (e : Nat × Context) =>
        let c : Context := { e.2 with ctxrec := 0, suspend := false, suspended := false, queue := [] }
        (e.1, c)
      slices := [] }
    s.mailPut 0 [0, 0, 0, 0])

/-- The meaning of FUNDAMENTAL_RESET (R375, R380): every unit restarts, and the images in flash and the bytes of memory stay
(a stack is zero-filled when it becomes ready). -/
def execFundamentalReset (s : State) : Host.Outcome State Fault Refusal :=
  .next { State.reset with
    agenda := s.agenda, free := s.free, firmware := s.firmware, config := s.config
    mem := s.mem.filter fun e => e.1 < 2 ^ 52
    poison := s.poison.filter fun w => 4 * w < 2 ^ 52 }

/-! ### The clock and the links -/

/-- Whether a clk counts for a context on a core (R378): while it has a resident gang there (DESIGN CHOICE: notes/assumptions 61). -/
def State.clkOf (s : State) (core ctx : Nat) : Bool :=
  s.gangs.any fun g => g.stand == .resident && g.core = core && s.ctxOf g.grp = ctx

/-- The clk counts of a core (R378). -/
def State.tick (s : State) (n : Nat) (c : Core) : Core :=
  { c with evcnt := (List.range 16).foldl (fun t k =>
      if bitsOf (stGet c.evsel k).toNat 7 0 = 1 && s.clkOf n (tabGet c.evctx 64 k) then stSet t k (stGet t k + 1) else t) c.evcnt }

/-- The meaning of CLOCK_COUNT (R34, R46): the count advances, and every partition has a new slot; records that waited for the memory
of their log are tried again (R369, R375). -/
def execClockCount (s : State) : Host.Outcome State Fault Refusal :=
  let t := { s with
    clock := s.clock + 1
    parts := s.parts.map fun (e : Nat × Part) =>
      let p : Part := { e.2 with issued := false, throttled := false }
      (e.1, p)
    gangs := s.gangs.map fun (g : Gang) => { g with stalled := false }
    cores := s.cores.map fun (e : Nat × Core) => (e.1, s.tick e.1 e.2) }
  .next (t.drainLog [] t.logq)

/-- The meaning of DIRTY_WINDOW_WRITEBACK (R199): a line leaves an L1, or a slice when `l2` is set, and its dirty bytes are
written back. -/
def execDirtyWindowWriteback (l2 : Bool) (u line : Nat) (s : State) : Host.Outcome State Fault Refusal :=
  .next (if l2 then (s.writeback2 u line).dropL2 u line else (s.writeback1 u line).dropL1 u line)

/-- One dirty word of a window copy is written back, and the copy stays (R199). -/
def State.backWord (s : State) (l2 : Bool) (u word : Nat) : State :=
  if l2 then s.backL2 u (word / 32) fun k => k = word % 32 else s.backL1 u (word / 32) fun k => k = word % 32

/-- A window line that a cache reads by itself (R179): an L1 with its home slice, or the slice alone. -/
def State.preload (s : State) (core ctx va : Nat) (l2 : Bool) : State :=
  if crewBase ≤ va then s
  else match s.walk ctx va with
    | (.leaf l, s) =>
      let pa := l.frame + va % l.size
      if !(s.ctx ctx).inWindow va || l.mapped || leafDiscard s.mem l || s.held pa 1 || (paTier pa).isNone then s
      else if l2 then (s.fillL2 (homeSlice pa (dieOf core)) l.hint (pa / 128)).2
      else (s.fillL1 core (homeSlice pa (dieOf core)) l.hint (pa / 128)).2
    | (_, s) => s

/-- The host or a peer stores a byte of its own memory. -/
def State.farStore (s : State) (pa : Nat) (b : Byte) : State :=
  if isFar pa then { s with mem := stSet (w := 8) s.mem pa b } else s

/-- The meaning of ATS_TRANSLATION (R373): the host returns a translation for a 4 KiB page. -/
def execAtsTranslation (page host : Nat) (s : State) : Host.Outcome State Fault Refusal :=
  .next { s with ats := tabSet s.ats page host }

/-- The meaning of SYSTEM_WRITE_ACKNOWLEDGE (R199, R373): `n` writes are acknowledged. -/
def execSystemWriteAcknowledge (n : Nat) (s : State) : Host.Outcome State Fault Refusal :=
  .next { s with farPend := s.farPend - n }

/-- The meaning of PEER_LINK_DOWN (R374): the link of a peer port goes down or comes up. -/
def execPeerLinkDown (port : Nat) (down : Bool) (s : State) : Host.Outcome State Fault Refusal :=
  .next { s with peerDown := if down then insNat s.peerDown port else s.peerDown.filter (· != port) }

end Sys2Proof.Machine
end

