-- ==== Sys2Proof/Machine/Dispatch.lean ====
section
/-! DEFINITION. The dispatch of every instruction and device step to its meaning: one arm per constructor. -/
namespace Sys2Proof.Machine

/-- What an instruction or a device step does to the machine. -/
def exec (i : Instr) (s : State) : Host.Outcome State Fault Refusal :=
  match i with
  | .nop => Sys2Proof.Machine.execNop s
  | .iadd x => Sys2Proof.Machine.execIadd x s
  | .isub x => Sys2Proof.Machine.execIsub x s
  | .imul x => Sys2Proof.Machine.execImul x s
  | .imulh x => Sys2Proof.Machine.execImulh x s
  | .imulhu x => Sys2Proof.Machine.execImulhu x s
  | .imad x => Sys2Proof.Machine.execImad x s
  | .imin x => Sys2Proof.Machine.execImin x s
  | .imax x => Sys2Proof.Machine.execImax x s
  | .umin x => Sys2Proof.Machine.execUmin x s
  | .umax x => Sys2Proof.Machine.execUmax x s
  | .iabs x => Sys2Proof.Machine.execIabs x s
  | .and x => Sys2Proof.Machine.execAnd x s
  | .or x => Sys2Proof.Machine.execOr x s
  | .xor x => Sys2Proof.Machine.execXor x s
  | .andn x => Sys2Proof.Machine.execAndn x s
  | .shl x => Sys2Proof.Machine.execShl x s
  | .shr x => Sys2Proof.Machine.execShr x s
  | .sra x => Sys2Proof.Machine.execSra x s
  | .rol x => Sys2Proof.Machine.execRol x s
  | .popc x => Sys2Proof.Machine.execPopc x s
  | .clz x => Sys2Proof.Machine.execClz x s
  | .ctz x => Sys2Proof.Machine.execCtz x s
  | .brev x => Sys2Proof.Machine.execBrev x s
  | .bfx x => Sys2Proof.Machine.execBfx x s
  | .bfi x => Sys2Proof.Machine.execBfi x s
  | .sel x => Sys2Proof.Machine.execSel x s
  | .icmp x => Sys2Proof.Machine.execIcmp x s
  | .iadd64 x => Sys2Proof.Machine.execIadd64 x s
  | .isub64 x => Sys2Proof.Machine.execIsub64 x s
  | .imul64 x => Sys2Proof.Machine.execImul64 x s
  | .lea x => Sys2Proof.Machine.execLea x s
  | .movi x => Sys2Proof.Machine.execMovi x s
  | .mov x => Sys2Proof.Machine.execMov x s
  | .iaddi x => Sys2Proof.Machine.execIaddi x s
  | .andi x => Sys2Proof.Machine.execAndi x s
  | .ori x => Sys2Proof.Machine.execOri x s
  | .xori x => Sys2Proof.Machine.execXori x s
  | .shifti x => Sys2Proof.Machine.execShifti x s
  | .icmpi x => Sys2Proof.Machine.execIcmpi x s
  | .idp4 x => Sys2Proof.Machine.execIdp4 x s
  | .idp4u x => Sys2Proof.Machine.execIdp4u x s
  | .fadd x => Sys2Proof.Machine.execFadd x s
  | .fsub x => Sys2Proof.Machine.execFsub x s
  | .fmul x => Sys2Proof.Machine.execFmul x s
  | .ffma x => Sys2Proof.Machine.execFfma x s
  | .fmin x => Sys2Proof.Machine.execFmin x s
  | .fmax x => Sys2Proof.Machine.execFmax x s
  | .fcmp x => Sys2Proof.Machine.execFcmp x s
  | .fclass x => Sys2Proof.Machine.execFclass x s
  | .frcp x => Sys2Proof.Machine.execFrcp x s
  | .frsq x => Sys2Proof.Machine.execFrsq x s
  | .fsqrt x => Sys2Proof.Machine.execFsqrt x s
  | .fexp2 x => Sys2Proof.Machine.execFexp2 x s
  | .flog2 x => Sys2Proof.Machine.execFlog2 x s
  | .fsinp x => Sys2Proof.Machine.execFsinp x s
  | .fcosp x => Sys2Proof.Machine.execFcosp x s
  | .faddi x => Sys2Proof.Machine.execFaddi x s
  | .fmuli x => Sys2Proof.Machine.execFmuli x s
  | .hadd2 x => Sys2Proof.Machine.execHadd2 x s
  | .hmul2 x => Sys2Proof.Machine.execHmul2 x s
  | .hfma2 x => Sys2Proof.Machine.execHfma2 x s
  | .hmax2 x => Sys2Proof.Machine.execHmax2 x s
  | .hmin2 x => Sys2Proof.Machine.execHmin2 x s
  | .dadd x => Sys2Proof.Machine.execDadd x s
  | .dsub x => Sys2Proof.Machine.execDsub x s
  | .dmul x => Sys2Proof.Machine.execDmul x s
  | .dfma x => Sys2Proof.Machine.execDfma x s
  | .dmin x => Sys2Proof.Machine.execDmin x s
  | .dmax x => Sys2Proof.Machine.execDmax x s
  | .dcmp x => Sys2Proof.Machine.execDcmp x s
  | .cvt x => Sys2Proof.Machine.execCvt x s
  | .cvts x => Sys2Proof.Machine.execCvts x s
  | .dbq x => Sys2Proof.Machine.execDbq x s
  | .dbx x => Sys2Proof.Machine.execDbx x s
  | .shfl x => Sys2Proof.Machine.execShfl x s
  | .shflx x => Sys2Proof.Machine.execShflx x s
  | .shflu x => Sys2Proof.Machine.execShflu x s
  | .shfld x => Sys2Proof.Machine.execShfld x s
  | .bcast x => Sys2Proof.Machine.execBcast x s
  | .vote x => Sys2Proof.Machine.execVote x s
  | .reduce x => Sys2Proof.Machine.execReduce x s
  | .scan x => Sys2Proof.Machine.execScan x s
  | .vconf x => Sys2Proof.Machine.execVconf x s
  | .visect x => Sys2Proof.Machine.execVisect x s
  | .kvslot x => Sys2Proof.Machine.execKvslot x s
  | .br x => Sys2Proof.Machine.execBr x s
  | .brc x => Sys2Proof.Machine.execBrc x s
  | .brs x => Sys2Proof.Machine.execBrs x s
  | .jmpi x => Sys2Proof.Machine.execJmpi x s
  | .call x => Sys2Proof.Machine.execCall x s
  | .ret x => Sys2Proof.Machine.execRet x s
  | .ifOp x => Sys2Proof.Machine.execIfOp x s
  | .elseOp x => Sys2Proof.Machine.execElseOp x s
  | .endif x => Sys2Proof.Machine.execEndif x s
  | .loop x => Sys2Proof.Machine.execLoop x s
  | .brk x => Sys2Proof.Machine.execBrk x s
  | .endloop x => Sys2Proof.Machine.execEndloop x s
  | .regang x => Sys2Proof.Machine.execRegang x s
  | .exit => Sys2Proof.Machine.execExit s
  | .wait x => Sys2Proof.Machine.execWait x s
  | .waitge x => Sys2Proof.Machine.execWaitge x s
  | .bara x => Sys2Proof.Machine.execBara x s
  | .barw x => Sys2Proof.Machine.execBarw x s
  | .bar x => Sys2Proof.Machine.execBar x s
  | .qpush x => Sys2Proof.Machine.execQpush x s
  | .qpop x => Sys2Proof.Machine.execQpop x s
  | .passpri => Sys2Proof.Machine.execPasspri s
  | .sleep x => Sys2Proof.Machine.execSleep x s
  | .ydep x => Sys2Proof.Machine.execYdep x s
  | .launch x => Sys2Proof.Machine.execLaunch x s
  | .postr x => Sys2Proof.Machine.execPostr x s
  | .trap x => Sys2Proof.Machine.execTrap x s
  | .drain => Sys2Proof.Machine.execDrain s
  | .ld x => Sys2Proof.Machine.execLd x s
  | .st x => Sys2Proof.Machine.execSt x s
  | .atom x => Sys2Proof.Machine.execAtom x s
  | .cas x => Sys2Proof.Machine.execCas x s
  | .red x => Sys2Proof.Machine.execRed x s
  | .smrg x => Sys2Proof.Machine.execSmrg x s
  | .pref x => Sys2Proof.Machine.execPref x s
  | .clean x => Sys2Proof.Machine.execClean x s
  | .inval x => Sys2Proof.Machine.execInval x s
  | .xlate x => Sys2Proof.Machine.execXlate x s
  | .cpy x => Sys2Proof.Machine.execCpy x s
  | .cpym x => Sys2Proof.Machine.execCpym x s
  | .mscl x => Sys2Proof.Machine.execMscl x s
  | .mofs x => Sys2Proof.Machine.execMofs x s
  | .mclp x => Sys2Proof.Machine.execMclp x s
  | .mfil x => Sys2Proof.Machine.execMfil x s
  | .mprm x => Sys2Proof.Machine.execMprm x s
  | .mset x => Sys2Proof.Machine.execMset x s
  | .mmat x => Sys2Proof.Machine.execMmat x s
  | .mget x => Sys2Proof.Machine.execMget x s
  | .mdrop x => Sys2Proof.Machine.execMdrop x s
  | .kvapp x => Sys2Proof.Machine.execKvapp x s
  | .kvldk x => Sys2Proof.Machine.execKvldk x s
  | .kvldv x => Sys2Proof.Machine.execKvldv x s
  | .kvfork x => Sys2Proof.Machine.execKvfork x s
  | .kvdrop x => Sys2Proof.Machine.execKvdrop x s
  | .kvevict x => Sys2Proof.Machine.execKvevict x s
  | .kvsetpos x => Sys2Proof.Machine.execKvsetpos x s
  | .bkl x => Sys2Proof.Machine.execBkl x s
  | .bktZero x => Sys2Proof.Machine.execBktZero x s
  | .bktFill x => Sys2Proof.Machine.execBktFill x s
  | .bktCopy x => Sys2Proof.Machine.execBktCopy x s
  | .bktAdd x => Sys2Proof.Machine.execBktAdd x s
  | .bktMul x => Sys2Proof.Machine.execBktMul x s
  | .bktAxpy x => Sys2Proof.Machine.execBktAxpy x s
  | .bktScale x => Sys2Proof.Machine.execBktScale x s
  | .bktCvt x => Sys2Proof.Machine.execBktCvt x s
  | .bktDot x => Sys2Proof.Machine.execBktDot x s
  | .bktIdot x => Sys2Proof.Machine.execBktIdot x s
  | .bkir x => Sys2Proof.Machine.execBkir x s
  | .bkm => Sys2Proof.Machine.execBkm s
  | .mma x => Sys2Proof.Machine.execMma x s
  | .mmas x => Sys2Proof.Machine.execMmas x s
  | .accz x => Sys2Proof.Machine.execAccz x s
  | .accrd x => Sys2Proof.Machine.execAccrd x s
  | .accwr x => Sys2Proof.Machine.execAccwr x s
  | .accst x => Sys2Proof.Machine.execAccst x s
  | .promo x => Sys2Proof.Machine.execPromo x s
  | .eret => Sys2Proof.Machine.execEret s
  | .crd x => Sys2Proof.Machine.execCrd x s
  | .cwr x => Sys2Proof.Machine.execCwr x s
  | .pgmap x => Sys2Proof.Machine.execPgmap x s
  | .pginv x => Sys2Proof.Machine.execPginv x s
  | .pgattr x => Sys2Proof.Machine.execPgattr x s
  | .kvpop x => Sys2Proof.Machine.execKvpop x s
  | .kvref x => Sys2Proof.Machine.execKvref x s
  | .lineclr x => Sys2Proof.Machine.execLineclr x s
  | .iaddHalf x y => Sys2Proof.Machine.execIaddHalf x y s
  | .isubHalf x y => Sys2Proof.Machine.execIsubHalf x y s
  | .imulHalf x y => Sys2Proof.Machine.execImulHalf x y s
  | .iminHalf x y => Sys2Proof.Machine.execIminHalf x y s
  | .imaxHalf x y => Sys2Proof.Machine.execImaxHalf x y s
  | .andHalf x y => Sys2Proof.Machine.execAndHalf x y s
  | .orHalf x y => Sys2Proof.Machine.execOrHalf x y s
  | .xorHalf x y => Sys2Proof.Machine.execXorHalf x y s
  | .shlHalf x y => Sys2Proof.Machine.execShlHalf x y s
  | .shrHalf x y => Sys2Proof.Machine.execShrHalf x y s
  | .sraHalf x y => Sys2Proof.Machine.execSraHalf x y s
  | .movHalf x y => Sys2Proof.Machine.execMovHalf x y s
  | .faddHalf x y => Sys2Proof.Machine.execFaddHalf x y s
  | .fsubHalf x y => Sys2Proof.Machine.execFsubHalf x y s
  | .fmulHalf x y => Sys2Proof.Machine.execFmulHalf x y s
  | .fminHalf x y => Sys2Proof.Machine.execFminHalf x y s
  | .fmaxHalf x y => Sys2Proof.Machine.execFmaxHalf x y s
  | .hadd2Half x y => Sys2Proof.Machine.execHadd2Half x y s
  | .hmul2Half x y => Sys2Proof.Machine.execHmul2Half x y s
  | .hmax2Half x y => Sys2Proof.Machine.execHmax2Half x y s
  | .cvtBf16F32Half x y => Sys2Proof.Machine.execCvtBf16F32Half x y s
  | .cvtF32Bf16Half x y => Sys2Proof.Machine.execCvtF32Bf16Half x y s
  | .trapEntry g => Sys2Proof.Machine.execTrapEntry g s
  | .tokenRunLimit p => Sys2Proof.Machine.execTokenRunLimit p s
  | .sleepExpiry g sl => Sys2Proof.Machine.execSleepExpiry g sl s
  | .loadReturn g n => Sys2Proof.Machine.execLoadReturn g n s
  | .redElement op el => Sys2Proof.Machine.execRedElement op el s
  | .smrgMerge op => Sys2Proof.Machine.execSmrgMerge op s
  | .cpyElement op el => Sys2Proof.Machine.execCpyElement op el s
  | .mapEditElement op el => Sys2Proof.Machine.execMapEditElement op el s
  | .kvElement op el => Sys2Proof.Machine.execKvElement op el s
  | .bankRecall op => Sys2Proof.Machine.execBankRecall op s
  | .bankWorkItem b => Sys2Proof.Machine.execBankWorkItem b s
  | .bankSuspend b => Sys2Proof.Machine.execBankSuspend b s
  | .mmaExecute p => Sys2Proof.Machine.execMmaExecute p s
  | .acczExecute p => Sys2Proof.Machine.execAcczExecute p s
  | .promoExecute p => Sys2Proof.Machine.execPromoExecute p s
  | .accrdExecute p => Sys2Proof.Machine.execAccrdExecute p s
  | .accwrExecute p => Sys2Proof.Machine.execAccwrExecute p s
  | .accstExecute p => Sys2Proof.Machine.execAccstExecute p s
  | .matrixUnitReset p => Sys2Proof.Machine.execMatrixUnitReset p s
  | .tailCommit g => Sys2Proof.Machine.execTailCommit g s
  | .tailInstructionLimit g => Sys2Proof.Machine.execTailInstructionLimit g s
  | .shed g => Sys2Proof.Machine.execShed g s
  | .crawlEnd g => Sys2Proof.Machine.execCrawlEnd g s
  | .nodeReady c => Sys2Proof.Machine.execNodeReady c s
  | .placeGroup at_ => Sys2Proof.Machine.execPlaceGroup at_ s
  | .preemptGroup gr => Sys2Proof.Machine.execPreemptGroup gr s
  | .nodeComplete n => Sys2Proof.Machine.execNodeComplete n s
  | .asyncCompletion g cls => Sys2Proof.Machine.execAsyncCompletion g cls s
  | .faultStageWalk cl e => Sys2Proof.Machine.execFaultStageWalk cl e s
  | .faultEscalate cl e => Sys2Proof.Machine.execFaultEscalate cl e s
  | .faultRingPoll c => Sys2Proof.Machine.execFaultRingPoll c s
  | .submit c x => Sys2Proof.Machine.execSubmit c x s
  | .ctxctlActivate c => Sys2Proof.Machine.execCtxctlActivate c s
  | .ctxctlTeardown c => Sys2Proof.Machine.execCtxctlTeardown c s
  | .ctxctlSuspend c => Sys2Proof.Machine.execCtxctlSuspend c s
  | .ctxctlResume c => Sys2Proof.Machine.execCtxctlResume c s
  | .contextSuspended c => Sys2Proof.Machine.execContextSuspended c s
  | .resolveRetry c id => Sys2Proof.Machine.execResolveRetry c id s
  | .resolveFail c id => Sys2Proof.Machine.execResolveFail c id s
  | .hostRegisterWrite fn r x => Sys2Proof.Machine.execHostRegisterWrite fn r x s
  | .incomingAccess x => Sys2Proof.Machine.execIncomingAccess x s
  | .attestationRequest => Sys2Proof.Machine.execAttestationRequest s
  | .firmwareVerify => Sys2Proof.Machine.execFirmwareVerify s
  | .unitReady u => Sys2Proof.Machine.execUnitReady u s
  | .unitOffline u lost => Sys2Proof.Machine.execUnitOffline u lost s
  | .softError x => Sys2Proof.Machine.execSoftError x s
  | .scrub bulk => Sys2Proof.Machine.execScrub bulk s
  | .thermalThrottle p => Sys2Proof.Machine.execThermalThrottle p s
  | .flrVf k => Sys2Proof.Machine.execFlrVf k s
  | .flrPf => Sys2Proof.Machine.execFlrPf s
  | .fundamentalReset => Sys2Proof.Machine.execFundamentalReset s
  | .clockCount => Sys2Proof.Machine.execClockCount s
  | .dirtyWindowWriteback l2 u line => Sys2Proof.Machine.execDirtyWindowWriteback l2 u line s
  | .atsTranslation page host => Sys2Proof.Machine.execAtsTranslation page host s
  | .systemWriteAcknowledge n => Sys2Proof.Machine.execSystemWriteAcknowledge n s
  | .peerLinkDown port down => Sys2Proof.Machine.execPeerLinkDown port down s

end Sys2Proof.Machine
end

