-- ==== Sys2Proof/Machine/Fetch.lean ====
section
/-! DEFINITION. Issue: which gang a partition issues (R46, R47), the fetch of its word (R70, R193), the checks of R68, the deferred
traps of a matrix unit (R294), and the words of bank kernels (R72, R336). -/
namespace Sys2Proof.Machine

/-! ### The choice of a gang -/

/-- Whether the chosen fragment of a gang sleeps (R149). -/
def Gang.asleep (g : Gang) : Bool :=
  match g.chosen with
  | some f => (List.range 8).any fun i => (g.fragMask f).getLsbD i && (g.sleep[i]?).getD 0 != 0
  | none => true

/-- Whether the tail or the crawl holds a gang back (R209, R213, R215). -/
def Gang.stuck (g : Gang) : Bool :=
  (match g.tail with | some t => t.closed || t.conflict || 256 ≤ t.count | none => false) || (g.crawl && 256 ≤ g.crawlCnt)

/-- Whether a gang may be chosen now (R46): what its instruction waits for shows when it is asked to issue. -/
def State.ready (s : State) (g : Nat) (G : Gang) : Bool :=
  G.stand == .resident && !G.stalled && G.fwait.isNone && !G.asleep && !G.stuck && !s.holding g G.part
  && match s.groups[G.grp]? with | some gr => !gr.leaving | none => false

/-- The ready gangs of a partition. -/
def State.candidates (s : State) (p : Nat) : List (Gang × Nat) := s.gangs.zipIdx.filter fun e => e.1.part = p && s.ready e.2 e.1

/-- The one that issued least recently (R46, rule 2). -/
def leastRecent (l : List (Gang × Nat)) : Option Nat :=
  (l.foldl (fun (best : Option (Gang × Nat)) e =>
    match best with
    | none => some e
    | some b => if e.1.lastIssue < b.1.lastIssue || (e.1.lastIssue = b.1.lastIssue && e.1.arrival < b.1.arrival) then some e else best)
    none).map (·.2)

/-- The gang that a partition issues (R46, R47): the holder of the token, but after 64 slots of it another ready gang. -/
def State.pick (s : State) (p : Nat) : Option Nat :=
  let P := s.part p
  let l := s.candidates p
  match P.token with
  | none => leastRecent l
  | some h =>
    if l.any (·.2 == h) then
      let others := l.filter (·.2 != h)
      if (P.yield || 64 ≤ P.run) && !others.isEmpty then leastRecent others else some h
    else leastRecent l

/-! ### The fetch -/

/-- What a fetch gives: a word, a trap, or a wait at the home slice (R348, R375). -/
inductive Fetched where
  | word (w : DWord)
  | trap (t : TrapInfo)
  | wait
  deriving DecidableEq, Repr

/-- The report of a fetch fault (R70, R163): TRAPADDR the fetch address, ACC the fetch flag, never gathered. No rule names its lanes: LANES
is every lane of the fragment, also those of a replay that have completed, which ERET does not run again (DESIGN CHOICE:
notes/assumptions 50). -/
def fetchTrap (i : Issuer) (c : Cause) : TrapInfo := { TrapInfo.plain c i.lanes i.frag i.pc with acc := 4, once := true }

/-- A word that stores have replaced may still be fetched (R193), until the gang's next irrevocable operation. -/
def State.staleWord (s : State) (G : Gang) (pa : Nat) (now : Word) : Word × State :=
  let olds := (s.codeOld.filter fun e => e.1 = pa && G.irr ≤ e.2.2 && e.2.1 != now).map (·.2.1)
  if olds.isEmpty then (now, s)
  else
    let (n, s) := s.drawNat
    (((now :: olds)[n % (olds.length + 1)]?).getD now, s)

/-- The fetch of a gang's next word (R70, R185, R186, R193), a read at its home slice unless a cache absorbs it (R378). R70 gives no order for an address that R168 refuses and that is
misaligned: PROT comes first, as in R225 (DESIGN CHOICE: notes/assumptions 50). It reads memory, and no window copy: a code word stored
through a non-coherent window is fetched once it has been written back, since R193 names no window (DESIGN CHOICE: notes/assumptions 64). -/
def State.fetch (s : State) (G : Gang) (gr : Group) (i : Issuer) : Fetched × State :=
  let va := i.pc.toNat
  if !s.check1 G.grp va then (.trap (fetchTrap i .prot), s)
  else if va % 8 != 0 then (.trap (fetchTrap i .align), s)
  else match s.resolve G.part gr.ctx G.grp va false true false with
    | (.error f, s) => (.trap { fetchTrap i f.cause with walks := f.badPte.toList }, s)
    | (.ok x, s) =>
      if s.held x.pa 8 then (.wait, s)
      else match (s.countSliceFree (homeSlice x.pa (dieOf G.core)) 0x40).readHome none x 8 with
        | (.fail c _, s) => (.trap (fetchTrap i c), s)
        | (.ok bs _, s) =>
          if leafDiscard s.mem x.leaf then (.word (BitVec.ofNat 64 (leNat bs)), s)
          else
            let (lo, s) := s.staleWord G x.pa (BitVec.ofNat 32 (leNat (bs.take 4)))
            let (hi, s) := s.staleWord G (x.pa + 4) (BitVec.ofNat 32 (leNat (bs.drop 4)))
            (.word (hi ++ lo), s)

/-- A fetch fault (R70, R216): held in the open tail, else taken. -/
def State.fetchFault (s : State) (g : Nat) (G : Gang) (t : TrapInfo) : State :=
  if G.tail.isNone then s.fault g t else (s.updGang g fun G => G.hold t).stall g

/-! ### Issue -/

/-- The cause of a word that the decoder refuses (R68). -/
def wordCause : WordFault → Cause
  | .illop => .illop
  | .illpair => .illpair

/-- The tile command that a CMD byte names (R324); a byte that names none stays with ZERO, which refuses it. -/
def bktInstr (cmd : Nat) (x : Ops3) : Instr :=
  match cmd with
  | 1 => .bktFill x
  | 2 => .bktCopy x
  | 3 => .bktAdd x
  | 4 => .bktMul x
  | 5 => .bktAxpy x
  | 6 => .bktScale x
  | 7 => .bktCvt x
  | 8 => .bktDot x
  | 9 => .bktIdot x
  | _ => .bktZero x

/-- A BKT word's command is the CMD byte of its block in memory (R323, R324). -/
def State.named (s : State) (G : Gang) (gr : Group) (i : Issuer) (x : Instr) : Instr :=
  match x with
  | .bktZero a =>
    match (s.issueRead (bankAccessor G gr true) i false (i.rds a.d).toNat 64).1 with
    | .ok bs => bktInstr (fieldAt bs 0 1) a
    | _ => x
  | _ => x

/-- The trap that a matrix unit raised after its instruction had issued (R294): TRAPADDR the instruction now at issue, and its
fragment's lanes. -/
def State.deferredTrap (s : State) (g : Nat) (G : Gang) (i : Issuer) (t : TrapInfo) : State :=
  s.irrevocable g G fun s =>
    some (((s.unwait g).updGang g fun G => { G with deferred := G.deferred.tail }).takeTrap g
      { t with addr := i.pc, lanes := i.lanes, frag := i.frag, once := true })

/-- Whether a gang waits for the rest of this clk. -/
def State.stalledNow (s : State) (g : Nat) : Bool := match s.gangs[g]? with | some G => G.stalled | none => false

/-- The destination fields of a word that name something: those of both halves of a pair, or the one of a full word. -/
def wordDests (w : DWord) : List Nat :=
  if w.getLsbD 63 then [bitsOf w.toNat 55 46, bitsOf w.toNat 24 15] else [bitsOf w.toNat 54 45]

/-- Whether a legal word, or half of it, acts lane by lane (R59, R60, R98): a vector destination of an arithmetic, memory or
key-value load word, a vector source of POSTR, and the words that act in the active lanes whatever they name. -/
def wordLanes (w : DWord) : Bool :=
  let op := bitsOf w.toNat 62 55
  let vec := (wordDests w).any (· < 640)
  if w.getLsbD 63 then vec
  else if op = 0xB9 then bitsOf w.toNat 44 35 < 640
  else if op = 0xB7 || op = 0xC5 || op = 0xC6 || op = 0xE3 || op = 0xE4 then true
  else vec && ((1 ≤ op && op ≤ 0x5C) || (0x80 ≤ op && op ≤ 0x8E) || (0xC0 ≤ op && op ≤ 0xC4) || op = 0xD6 || op = 0xD7)

/-- Whether a word, or half of it, acts once per issue. -/
def wordOnce (w : DWord) : Bool :=
  if w.getLsbD 63 then (wordDests w).any (640 ≤ ·) else !wordLanes w

/-- Whether a fragment replays (R157). -/
def Gang.replays (g : Gang) (m : BitVec 8) : Bool :=
  (List.range 8).any fun k => m.getLsbD k && (match g.slices[k]? with | some sl => sl.replay.isSome | none => false)

/-- A word that acts once per issue replays as a whole (R157, step 3). -/
def Gang.unlimited (g : Gang) (m : BitVec 8) (w : DWord) : Gang :=
  if wordLanes w then g
  else { g with slices := g.slices.mapIdx fun k sl => if m.getLsbD k then { sl with replay := none } else sl }

/-- Whether a replay skips its word (R157, step 2): it acts lane by lane only, in no lane. A vector word that check 6 of R68 refuses and that
has no lane to replay is skipped too, though R69 has its trap arise again after ERET; one that checks 1 to 4 refuse raises it again
(DESIGN CHOICE: notes/assumptions 62). -/
def Gang.skips (g : Gang) (i : Issuer) (w : DWord) : Bool := g.replays i.frag && !wordOnce w && i.active == 0

/-- A word at issue: its decoder's trap (R68, R69) or its meaning; a replay limits it to lanes or skips it (R157). -/
def State.runWord (s : State) (g : Nat) (G : Gang) (gr : Group) (i : Issuer) (w : DWord) : Host.Outcome State Fault Refusal :=
  match decode w with
  | .error c => .next (s.wordTrap g G i (wordCause c))
  | .ok x =>
    if G.skips i w then .next (s.updGang g fun G => G.advance i.frag)
    else exec (s.named G gr i x) (s.updGang g fun G => G.unlimited i.frag w)

/-- Whether a BAR has arrived at its barrier by issuing. -/
def State.arrived (s : State) (g : Nat) (G : Gang) : Bool := match s.gangs[g]? with | some H => H.inBar != G.inBar | none => false

/-- A word at issue after a deferred trap of the gang (R294), raised when the word is ready and before it takes effect: a BAR is ready
before it arrives. -/
def State.issueWord (s : State) (g : Nat) (G : Gang) (gr : Group) (i : Issuer) (w : DWord) : Host.Outcome State Fault Refusal :=
  match G.deferred with
  | [] => s.runWord g G gr i w
  | t :: _ =>
    match s.runWord g G gr i w with
    | .next s' => if s'.stalledNow g && !s'.arrived g G then .next s' else .next (s.deferredTrap g G i t)
    | o => o

/-- The memory operands of a load or a store, and whether it is a store. -/
def loadStore (x : Instr) : Option (MemArgs × Bool) :=
  match x with
  | .ld m => some (m, false)
  | .st m => some (m, true)
  | _ => none

/-- Word `j` of an access. -/
def Xlat.word (x : Xlat) (j : Nat) : Xlat := { x with va := x.va + 4 * j, pa := x.pa + 4 * j }

/-- Word `j` of the access of lane `l` of a load or a store on unmapped memory, an event of its own (R187): the word as loaded or
stored; none where it waits or fails. -/
def State.wordEvent (s : State) (m : MemArgs) (wr : Bool) (g : Nat) (G : Gang) (i : Issuer) (l : Nat) (x : Xlat) (j : Nat) :
    Option (Word × State) :=
  let y := x.word j
  if s.heldAny [y] 4 then none
  else if wr then
    let v := storeData m i m.d.isS l / 2 ^ (32 * j)
    some (BitVec.ofNat 32 v, s.performStores g G.core (hintOf m) [y] (laneBytes y 4 v))
  else match s.readData G.core (hintOf m y.leaf) none y 4 with
    | (.ok bs _, s) => some (BitVec.ofNat 32 (leNat bs), s)
    | (.fail _ _, _) => none

/-- The next `n` words of an access after those that have acted. -/
def State.wordEvents (s : State) (m : MemArgs) (wr : Bool) (g : Nat) (G : Gang) (i : Issuer) (l : Nat) (x : Xlat) :
    Nat → List Word → Option (List Word × State)
  | 0, vs => some (vs, s)
  | n + 1, vs =>
    match s.wordEvent m wr g G i l x vs.length with
    | some (v, s) => State.wordEvents s m wr g G i l x n (vs ++ [v])
    | none => none

/-- The slices of a fragment limited to some lanes (R157). -/
def Gang.limited (g : Gang) (m : BitVec 8) (lanes : List Nat) : Gang :=
  let k := maskOf lanes.contains
  { g with slices := g.slices.mapIdx fun j sl =>
      if m.getLsbD j then { sl with replay := some (BitVec.ofNat 4 (bitsOf k.toNat (4 * j + 3) (4 * j))) } else sl }

/-- The end of a word whose last lane was cut between its words: on to PC + 8, counted as one instruction (R187). -/
def State.finishWord (s : State) (g : Nat) (i : Issuer) (window : Bool) : State :=
  match s.gangs[g]? with
  | none => s
  | some G =>
    if G.crawl && !window then s.speculate g G i.pc false ⟨[], [], []⟩ fun s => s.conclude g i.frag none
    else s.irrevocable g G fun s => some (s.settle1 g i.frag none)

/-- The lane of a load or a store that was cut between its words goes on to its end (R187): the word then stays midway for the other lanes.
Where a word of it fails, the lane starts again as a whole and traps. -/
def State.resumeLane (s : State) (g : Nat) (G : Gang) (gr : Group) (i : Issuer) (w : DWord) (l : Nat) (x : Xlat) (vs : List Word) : State :=
  match (decode w).toOption.bind loadStore with
  | none => s
  | some (m, wr) =>
    match s.wordEvents m wr g G i l x (accessBytes m.w / 4 - vs.length) vs with
    | none =>
      if s.heldAny [x] (accessBytes m.w) then s.stall g else s.updGang g fun G => { G with midway := some ⟨w, none, []⟩ }
    | some (vs, s) =>
      let v := vs.foldr (fun v n => n * 2 ^ 32 + v.toNat) 0
      let s := if wr then s else s.updGang g fun G => G.commitRes (loadRes m [(l, v)])
      let rest := ((accesses m i G gr m.d.isS).map (·.1)).filter (· != l)
      if rest.isEmpty then (s.updGang g fun G => { G with midway := none }).finishWord g i x.window
      else s.updGang g fun G => { G.limited i.frag rest with midway := some ⟨w, none, []⟩ }

/-- What of a word has still to act (R187): it goes on as one word, and stays midway while it waits. -/
def State.resumeWord (s : State) (g : Nat) (G : Gang) (gr : Group) (i : Issuer) (w : Midway) : Host.Outcome State Fault Refusal :=
  match w.cut with
  | some (l, x, vs) => .next ((s.resumeLane g G gr i w.word l x vs).updPart G.part fun P => { P with issued := true })
  | none =>
    let left := if w.seen.isEmpty then none else some w
    match (s.updGang g fun G => { G with midway := left }).runWord g { G with midway := left } gr i w.word with
    | .next t => .next (t.updGang g fun H => { H with midway := if H.stalled then some w else none })
    | o => o

/-- Nobody issues after a step. -/
def idle (o : Host.Outcome State Fault Refusal) : Host.Outcome State Fault Refusal :=
  match o with
  | .next s => .next { s with cur := .none }
  | o => o

/-- A gang is asked to issue its next word. -/
def State.runGang (s : State) (g : Nat) : Host.Outcome State Fault Refusal :=
  let s := { s with cur := .gang g }
  match s.issue with
  | .gang _ G gr i =>
    match G.midway with
    | some w => idle (s.resumeWord g G gr i w)
    | none =>
      match s.fetch G gr i with
      | (.wait, s) => idle (.next (s.stall g))
      | (.trap t, s) => idle (.next (s.fetchFault g G t))
      | (.word w, s) => idle (s.issueWord g G gr i w)
  | _ => idle (.next s)

/-- Whether the slot of a partition in this clk is used or withheld (R46, R380). -/
def State.slotUsed (s : State) (p : Nat) : Bool := (s.part p).issued || (s.part p).throttled || (s.core (p / 8)).offline

/-- The issue slot of a partition (R46): used or withheld once per clk. -/
def State.issueSlot (s : State) (p : Nat) : Host.Outcome State Fault Refusal :=
  if s.slotUsed p then .next s
  else match s.pick p with
    | some g => s.runGang g
    | none => .next s

/-! ### A word in parts -/

/-- The tiles that some lanes of a load or a store reach on mapped pages, for which the lanes of one instruction act as one event. -/
def State.laneTiles (s : State) (G : Gang) (gr : Group) (i : Issuer) (m : MemArgs) (wr : Bool) (ls : List Nat) : List Nat :=
  let r := (s.checkLanes ⟨G.part, gr.ctx, G.grp, wr, false⟩ (accessXt m G gr) (accessBytes m.w) (accesses m i G gr false)).1
  ((passed r).filter fun e => ls.contains e.1 && e.2.leaf.mapped).map fun e => e.2.pa / 256

/-- Whether a word can act in some lanes first and in others later (R187, R232): the lanes of LD, ST, ATOM, CAS and POSTR are events of
their own, but for those of a load or a store in one tile. -/
def State.splits (s : State) (G : Gang) (gr : Group) (i : Issuer) (x : Instr) (first rest : List Nat) : Bool :=
  let apart (m : MemArgs) (wr : Bool) : Bool := !(s.laneTiles G gr i m wr first).any (s.laneTiles G gr i m wr rest).contains
  match x with
  | .ld m => !m.d.isS && apart m false
  | .st m => !m.d.isS && apart m true
  | .atom m => !m.d.isS
  | .cas m => !m.d.isS
  | .postr m => m.a.isV
  | _ => false

/-- Whether a gang has gone on past the word that its fragment issued, in no tail and with no trap. -/
def State.wentOn (s : State) (g : Nat) (i : Issuer) : Bool :=
  match s.gangs[g]? with
  | some G => G.stand == .resident && G.tail.isNone && G.super == i.super && G.fwait.isNone
      && (List.range 8).all fun k => !i.frag.getLsbD k || (match G.slices[k]? with | some sl => sl.pc == i.pc + 8 | none => false)
  | none => false

/-- The active lanes in which a word acts, after which it goes on or traps in the others (R225, R381): `a` is the state after the whole
word. A double trap says nothing of its lanes (R158), which are asked one by one; no lane acts where the word waits or stands in a tail. -/
def State.actsIn (s a : State) (x : Instr) (g : Nat) (i : Issuer) : List Nat :=
  if a.wentOn g i then i.acts
  else match a.gangs[g]? with
    | none => []
    | some H =>
      let but (m : BitVec 32) : List Nat := i.acts.filter fun l => !m.getLsbD l
      match H.fwait with
      | some w => but (w.trap.lanes ||| w.trap.retry)
      | none =>
        if H.stand = .ended then
          i.acts.filter fun l => match exec x (s.updGang g fun G => G.limited i.frag [l]) with | .next b => b.wentOn g i | _ => false
        else if H.super && !i.super then but (H.trapmask.setWidth 32 ||| (H.trapmask >>> 32).setWidth 32)
        else []

/-- The first `k` active lanes in which a word acts do so, and the others later (R187), those that trap among them: only where the word
acts outside a tail; else nothing happens. -/
def State.splitWord (s : State) (g : Nat) (G : Gang) (gr : Group) (i : Issuer) (w : DWord) (k : Nat) : Option State :=
  match decode w with
  | .error _ => none
  | .ok x =>
    match exec x s with
    | .next a =>
      let go := s.actsIn a x g i
      let first := go.take k
      let rest := i.acts.filter fun l => !first.contains l
      if first.isEmpty || rest.isEmpty || G.tail.isSome || !s.splits G gr i x first (go.drop k) then none
      else match exec x (s.updGang g fun G => { G.limited i.frag first with midway := some ⟨w, none, []⟩ }) with
        | .next b =>
          if b.wentOn g i then
            some (b.updGang g fun H =>
              { (H.jump i.frag i.pc).limited i.frag rest with
                midway := some ⟨w, none, []⟩, crawl := G.crawl, crawlCnt := G.crawlCnt, sheds := G.sheds })
          else none
        | _ => none
    | _ => none

/-- A word stays midway after a part of it that is no lane's whole access, in the slot that it has used. -/
def State.keepMidway (s : State) (g : Nat) (G : Gang) (w : Midway) : State :=
  (s.updGang g fun G => { G with midway := some w }).updPart G.part fun P => { P with issued := true }

/-- The first `k` words of the access of the next lane that acts, or of the scalar pipe's, act, and the others later (R187): a load or a
store of unmapped memory that acts outside a tail; else nothing happens. -/
def State.cutLane (s : State) (g : Nat) (G : Gang) (gr : Group) (i : Issuer) (w : DWord) (x : Instr) (m : MemArgs) (wr : Bool) (k : Nat) :
    Option State :=
  match exec x s with
  | .next a =>
    let go := if m.d.isS then (if a.wentOn g i then [0] else []) else s.actsIn a x g i
    match (accesses m i G gr m.d.isS).find? fun e => go.contains e.1 with
    | none => none
    | some (l, va) =>
      if k = 0 || accessBytes m.w / 4 ≤ k || G.tail.isSome then none
      else
        let start : Option (Nat × Xlat × List Word × State) :=
          match G.midway.bind (·.cut) with
          | some (l, y, vs) => some (l, y, vs, s)
          | none => match s.checkAccess ⟨G.part, gr.ctx, G.grp, wr, false⟩ (accessXt m G gr) va (accessBytes m.w) with
            | (.ok y, s) => if y.leaf.mapped then none else some (l, y, [], s.touchAll G.part gr.ctx wr (hintOf m) [y])
            | _ => none
        start.bind fun (l, y, vs, s) =>
          if k ≤ vs.length then none
          else (s.wordEvents m wr g G i l y (k - vs.length) vs).map fun r => r.2.keepMidway g G ⟨w, some (l, y, r.1), []⟩
  | _ => none

/-- The next `k` read events of a key-value load in crawl mode are made, and the others later (R187, R284). -/
def State.cutKv (s : State) (g : Nat) (G : Gang) (gr : Group) (i : Issuer) (w : DWord) (x : KvArgs) (key : Bool) (k : Nat) : Option State :=
  if !G.crawl || G.tail.isSome || G.interlocked (kvLoadUses x) || (usesCheck (kvLoadUses x) i).isSome then none
  else (s.kvAhead x key G gr i k).map fun r => r.2.keepMidway g G ⟨w, none, G.seen ++ r.1⟩

/-- A word acts in a part that is no lane's whole access (R187). -/
def State.cutWord (s : State) (g : Nat) (G : Gang) (gr : Group) (i : Issuer) (w : DWord) (k : Nat) : Option State :=
  match decode w with
  | .error _ => none
  | .ok x =>
    match x, loadStore x with
    | .kvldk a, _ => s.cutKv g G gr i w a true k
    | .kvldv a, _ => s.cutKv g G gr i w a false k
    | _, some (m, wr) => s.cutLane g G gr i w x m wr k
    | _, none => none

/-- A gang issues its next word, or goes on with it, in `k` lanes, or in `k` words of its next lane. -/
def State.runPart (s : State) (g k : Nat) (words : Bool) : State :=
  match ({ s with cur := .gang g } : State).issue with
  | .gang _ G gr i =>
    let t : State := { s with cur := .gang g }
    let (f, t) := match G.midway with | some w => (Fetched.word w.word, t) | none => t.fetch G gr i
    match f with
    | .word w =>
      if G.midway.isNone && !G.deferred.isEmpty then s
      else match (if words then t.cutWord g G gr i w k
          else if (G.midway.bind (·.cut)).isSome then none else t.splitWord g G gr i w k) with
        | some u => { u with cur := .none }
        | none => s
    | _ => s
  | _ => s

/-- The issue slot of a partition with a word in `k` of its lanes, or in `k` words of the next lane. -/
def State.partSlot (s : State) (p k : Nat) (words : Bool) : State :=
  if s.slotUsed p then s else match s.pick p with | some g => s.runPart g k words | none => s

/-! ### Bank kernels, and the acts of the device -/

/-- The words (by number) that an access of a kernel touches. -/
def BankAcc.words (e : BankAcc) : List Nat := (List.range ((e.pa + e.n - 1) / 4 - e.pa / 4 + 1)).map fun k => e.pa / 4 + k

/-- The registers that a late load of a kernel has still to write. -/
def BankAcc.regs (e : BankAcc) : List RegId := if e.wr then [] else (loadRes e.args [(e.lane, 0)]).regs

/-- Whether some words are touched by one of some accesses. -/
def lateAt (l : List BankAcc) (ws : List Nat) : Bool := l.any fun e => e.words.any ws.contains

/-- The registers that the operand fields of a kernel's word can name, each with the one after it. -/
def wordRegs (w : DWord) : List RegId :=
  [bitsOf w.toNat 54 45, bitsOf w.toNat 44 35, bitsOf w.toNat 34 25, bitsOf w.toNat 24 15].flatMap fun f =>
    if f < 640 then [.v f, .v (f + 1)] else [.s (f - 640)]

/-- The accesses of a load or a store of a kernel, lane by lane (R337). -/
def Kernel.accs (k : Kernel) (b : Nat) (clock : DWord) (m : MemArgs) (wr : Bool) : List BankAcc :=
  let i := k.view clock
  (bankAccesses m i m.d.isS).map fun e =>
    ⟨wr, k.pc, m, e.1, bankBase b + e.2, accessBytes m.w, if wr then storeData m i m.d.isS e.1 else 0⟩

/-- A kernel's word whole (R72, R336). While accesses before it have still to take effect (R194) it waits where it names a register that
one of them writes, where it touches a word of theirs (R337), and where it ends the instance. -/
def State.runKernel (s : State) (b : Nat) (kn : Kernel) (w : DWord) (x : Instr) : Host.Outcome State Fault Refusal :=
  let run := exec x { s with cur := .bank b }
  match loadStore x with
  | none =>
    if kn.late.isEmpty then run
    else if (wordRegs w).any (kn.late.flatMap BankAcc.regs).contains then .next s
    else match run with
      | .next t => if (t.kernel b).isSome then .next t else .next s
      | o => o
  | some (m, wr) =>
    if kn.late.isEmpty && kn.ahead.isEmpty then run
    else if (wordRegs w).any (kn.late.flatMap BankAcc.regs).contains || (kn.accs b s.clock m wr).any fun e => lateAt kn.late e.words then .next s
    else match run with
      | .next t => if kn.late.isEmpty || (t.kernel b).isSome then .next (t.updKernel b fun k => { k with ahead := [] }) else .next s
      | o => o

/-- A kernel goes past a load or a store whose lanes take effect later, in any order but for accesses to one word (R194, R337): only where,
as things stand, none aborts it. A lane that loads a word read ahead has its number at once. -/
def State.deferKernel (s : State) (b : Nat) (kn : Kernel) (w : DWord) (x : Instr) : State :=
  match loadStore x with
  | none => s
  | some (m, wr) =>
    match exec x { s with cur := .bank b } with
    | .next t =>
      if (t.kernel b).isNone || (wordRegs w).any (kn.late.flatMap BankAcc.regs).contains then s
      else
        let as := kn.accs b s.clock m wr
        let got (e : BankAcc) : Option Word := if e.wr then none else (kn.ahead.find? fun r => r.1 = e.pa / 4).map (·.2)
        let firstAt (p : BankAcc × Nat) : Bool := !(lateAt (as.take p.2) p.1.words)
        let (now, later) := as.zipIdx.partition fun p => (got p.1).isSome && firstAt p
        let vals := now.filterMap fun p => (got p.1).map fun v => (p.1.lane, v.toNat / 2 ^ (8 * (p.1.pa % 4)) % 2 ^ (8 * p.1.n))
        let r := loadRes m vals
        s.updKernel b fun k =>
          { k with
            v := stSetAll k.v r.vw, s := stSetAll k.s r.sw, pc := k.pc + 8, late := k.late ++ later.map (·.1)
            ahead := k.ahead.filter fun a => !(as.any fun e => e.words.contains a.1) }
    | _ => s

/-- The access at place `j` among those of a kernel that have still to take effect does so, unless one before it touches a word of it (R194,
R337); poison aborts the kernel, once the accesses before it have taken effect. -/
def State.bankAccess (s : State) (b : Nat) (kn : Kernel) (j : Nat) : State :=
  match kn.late[j]? with
  | none => s
  | some e =>
    let past (s : State) : State := s.updKernel b fun k => { k with late := k.late.eraseIdx j }
    if lateAt (kn.late.take j) e.words then s
    else if (!e.wr || e.n < 4) && e.words.any s.isPoisoned then (if j = 0 then s.abortKernel b .poison e.pc.toNat else s)
    else if e.wr then past (s.writeNat none none e.pa e.n e.v)
    else
      let r := loadRes e.args [(e.lane, memNat s.mem e.pa e.n)]
      past (s.updKernel b fun k => { k with v := stSetAll k.v r.vw, s := stSetAll k.s r.sw })

/-- A word of a kernel's segment read ahead of the load that asks for it (R194): no access before it touches it, and it is not poisoned. -/
def State.readAhead (s : State) (b : Nat) (kn : Kernel) (word : Nat) : State :=
  let a := 4 * word - bankBase b
  if 4 * word < bankBase b || (bankFail kn 4 a).isSome || (s.badTile b (4 * word)).isSome || s.isPoisoned word || lateAt kn.late [word] || kn.ahead.any (·.1 = word)
  then s
  else s.updKernel b fun k => { k with ahead := k.ahead ++ [(word, BitVec.ofNat 32 (memNat s.mem (4 * word) 4))] }

/-- How a kernel on a bank core goes on: with its word whole, past it, by an access that is late, by a word read ahead. -/
inductive KernelAct where
  | word | defer | access (j : Nat) | ahead (word : Nat)
  deriving DecidableEq, Repr

/-- One act of the kernel on a bank core (R71, R72, R336): a PC outside the code, or a word that does not decode, aborts it; it waits while
its command's range is not recalled (R196). -/
def State.runBank (s : State) (b : Nat) (act : KernelAct) : Host.Outcome State Fault Refusal :=
  match s.running b with
  | none => .next s
  | some k =>
    match s.items[k]? with
    | none => .next s
    | some it =>
      match it.kern, (s.cmd it.cmd).map fun c => (c.work, c.held) with
      | some kn, some (BankWork.kernel code entry _ _ _, held) =>
        let a := kn.pc.toNat
        let word := if a % 8 != 0 || a < entry then none else (code[(a - entry) / 8]?).bind fun w => ((decode w).toOption).map fun x => (w, x)
        if s.bankOffline b || !held then .next s
        else match act, word with
          | .access j, _ => .next (s.bankAccess b kn j)
          | .ahead w, _ => .next (s.readAhead b kn w)
          | .word, none => .next (if kn.late.isEmpty then s.abortKernel b .illop a else s)
          | .word, some (w, x) => idle (s.runKernel b kn w x)
          | .defer, none => .next s
          | .defer, some (w, x) => .next (s.deferKernel b kn w x)
      | _, _ => .next s

/-- The outcome of an act, or the state in which it waits: a walk that it needs has met memory that is not ready (R375). -/
def unlessBlocked (wait : State) (o : Host.Outcome State Fault Refusal) : Host.Outcome State Fault Refusal :=
  match o with
  | .next t => .next (if t.blocked then wait else t)
  | o => o

/-- The gang of a slot waits for the rest of the clk. -/
def State.stallSlot (s : State) (p : Nat) : State := match s.pick p with | some g => s.stall g | none => s

/-- One act of the device: an issue slot, a word of a bank kernel, an event, or a part of one; a word is no event. -/
def State.act (s : State) (a : Act) : Host.Outcome State Fault Refusal :=
  let s : State := { s with blocked := false }
  match a with
  | .slot p => unlessBlocked (s.stallSlot p) (s.issueSlot p)
  | .bankSlot b => unlessBlocked s (s.runBank b .word)
  | .event i => if i.fields.isEmpty then unlessBlocked s (exec i s) else .next s
  | .lanes p k => unlessBlocked s (.next (s.partSlot p k false))
  | .words p k => unlessBlocked s (.next (s.partSlot p k true))
  | .bankWord b j w => unlessBlocked s (.next (s.bankWord b j w))
  | .bankDefer b => unlessBlocked s (s.runBank b .defer)
  | .bankAcc b j => unlessBlocked s (s.runBank b (.access j))
  | .bankAhead b w => unlessBlocked s (s.runBank b (.ahead w))
  | .bankRow b t w => unlessBlocked s (.next (s.bankRowWord b t w))
  | .mmaWord p w => unlessBlocked s (.next (s.mmaWord p w))
  | .accstWord p w => unlessBlocked s (.next (s.accstWord p w))
  | .backWord l2 u w => unlessBlocked s (.next (s.backWord l2 u w))
  | .preload core ctx va l2 => unlessBlocked s (.next (s.preload core ctx va l2))
  | .farStore pa b => .next (s.farStore pa b)
  | .hostRead fn off => .next (s.hostRead fn off)
  | .hostStore fn off v => unlessBlocked s (.next (s.hostStore fn off v))

end Sys2Proof.Machine
end

