-- ==== Sys2Proof/Machine/Schedule.lean ====
section
/-! DEFINITION. What the device does when nobody chooses (notes/assumptions 2): the acts that could happen now, and the first
of them that changes the state; and the state in which a given word is fetched next. -/
namespace Sys2Proof.Machine

/-- The first seats on some of the cores in which a unit fits (R45). -/
def findSeats (qs : List QDecl) (cores : List Nat) : List Seating → Load → List (Seating × Seat) → Option (List Seat)
  | [], _, _ => some []
  | d :: r, l, done =>
    cores.findSome? fun c => (List.range 8).findSome? fun p0 =>
      if l.seatOk qs done d ⟨c, p0⟩ then (findSeats qs cores r (l.add d ⟨c, p0⟩) ((d, ⟨c, p0⟩) :: done)).map (⟨c, p0⟩ :: ·) else none

/-- Where the first waiting group could be placed. -/
def State.seatsFor (s : State) : Option (List Seat) :=
  match s.firstWaiting with
  | none => none
  | some w => (List.range 24).findSome? fun cl => findSeats (s.waitQueues w) (s.usableCores cl) (s.seatings w) (s.onCores fun _ => false) []

/-- The events of one gang. -/
def State.gangActs (s : State) (g : Nat) : List Instr :=
  match s.gangs[g]? with
  | none => []
  | some G =>
    (if G.stand = .ended then [] else
      (if G.pend.isEmpty then [] else [.loadReturn g 0])
      ++ (if G.tail.isSome then [.shed g, .trapEntry g, .tailCommit g, .tailInstructionLimit g] else [])
      ++ (if G.crawl then [.crawlEnd g] else [])
      ++ ((List.range 8).filter fun k => (G.sleep[k]?).getD 0 != 0).map fun k => .sleepExpiry g k)
    ++ (List.range 6).map fun c => .asyncCompletion g c

/-- The events of an operation in flight. -/
def opActs (o : AsyncOp) : List Instr :=
  match o.kind with
  | .copy _ => (List.range o.elems.length).map fun k => .cpyElement o.id k
  | .map _ => (List.range o.elems.length).map fun k => .mapEditElement o.id k
  | .kv => (List.range o.elems.length).map fun k => .kvElement o.id k
  | .red _ _ => (List.range o.elems.length).map fun k => .redElement o.id k
  | .smrg => [.smrgMerge o.id]
  | .bank => [.bankRecall o.id]
  | .matrix => []

/-- The events of a matrix unit by the kind of its oldest operation. -/
def matrixActs (e : Nat × Part) : List Instr :=
  match e.2.mq with
  | [] => []
  | o :: _ => match o.kind with
    | 0 | 1 => [.mmaExecute e.1]
    | 2 => [.acczExecute e.1]
    | 3 => [.accrdExecute e.1]
    | 4 => [.accwrExecute e.1]
    | 5 => [.accstExecute e.1]
    | _ => [.promoExecute e.1]

/-- The acts that could happen now, in the order in which the device tries them; the clk comes last. -/
def State.acts (s : State) : List Act :=
  let ev (l : List Instr) : List Act := l.map .event
  ev ((List.range s.gangs.length).flatMap s.gangActs)
  ++ ev (s.ops.flatMap opActs) ++ ev (s.parts.flatMap matrixActs)
  ++ ev ((s.items.map (·.core)).eraseDups.flatMap fun b => [.bankSuspend b, .bankWorkItem b])
  ++ (s.items.map (·.core)).eraseDups.flatMap (fun b => [.bankSlot b, .bankAcc b 0])
  ++ ev (s.stages.flatMap fun e => [.faultStageWalk e.cluster e.slot, .faultEscalate e.cluster e.slot])
  ++ ev ((List.range s.nodes.length).map .nodeComplete)
  ++ ev ((s.ctxs.filter (·.2.active)).map fun c => .nodeReady c.1)
  ++ ev ((List.range s.groups.length).map .preemptGroup)
  ++ (match s.seatsFor with | some x => ev [.placeGroup x] | none => [])
  ++ ev (s.ctxs.map fun c => .contextSuspended c.1)
  ++ ((s.gangs.filter (·.stand == .resident)).map (·.part)).eraseDups.map .slot
  ++ ev [.clockCount]

/-- What the device does by itself: the first of its acts that changes the state. -/
def State.autoAct (s : State) : Act :=
  ((s.acts.find? fun a => match s.act a with | .next t => t != { s with blocked := false } | _ => true)).getD (.event .clockCount)

/-! ### The state in which a word is fetched next -/

/-- A launch record with no queues: one stage, one gang, 640 registers, entry 0. -/
def bareRecord : LaunchRec :=
  { entry := 0, gx := 1, gy := 1, gz := 1, stages := 1, gangs := 1, regs := 640, scratch := 0, crew := 1, prio := 0, pairing := 0,
    yard := 0, params := 0, save := 0, result := 0, next := 0, queues := [], slots := List.replicate 8 0 }

/-- A page table of five levels at 0x10000 with one executable page at virtual address 0, and eight bytes of code in its
frame at 0x20000 (R171, R172). -/
def codeImage (code : List Byte) : List (Nat × List Byte) :=
  let ptr (next : Nat) : List Byte := leBytes 8 0xC001 ++ leBytes 8 next
  [(0x10000, ptr 0x12000), (0x12000, ptr 0x14000), (0x14000, ptr 0x16000), (0x16000, ptr 0x18000),
   (0x18000, leBytes 8 0x20009 ++ leBytes 8 0), (0x20000, code)]

/-- A gang of context 0 resident on partition 0, ready to issue the word of eight bytes at virtual address 0. -/
def State.seatCode (s : State) (code : List Byte) : State :=
  let node := s.nodes.length
  let grp := s.groups.length
  let g := s.gangs.length
  let crew := s.crews.length
  let gr : Group :=
    { ctx := 0, node, x := 0, y := 0, z := 0, stage := 0, lin := 0, stand := .resident, core := 0, p0 := 0, mode := 0, promo := 16,
      xt := List.replicate 16 Xt.none, slots := List.replicate 8 0, bars := List.replicate 16 Barrier.idle, crew, rank := 0,
      first := g, gangs := 1, regs := 640, scratch := 0, placedAt := s.stamp, leaving := false }
  let n : Node :=
    { ctx := 0, addr := 0, pa := 0, lr := bareRecord, k := 0, stand := .launched, placed := [0], lost := false, yard := [],
      reserved := false, relay := [], relayBytes := 0, readyAt := 0 }
  let words := (codeImage code).flatMap fun e => (List.range e.2.length).map fun k => (e.1 + k) / 4
  let c : Context := { s.ctx 0 with active := true, suspend := false, suspended := false, torn := false, root := 0x10000 }
  let core : Core := { s.core 0 with offline := false }
  let part : Part := { s.part 0 with token := some g, run := 0, issued := false, yield := false, throttled := false }
  { s with
    cur := .none, agenda := [.slot 0], lamgil := true, clusters := insNat s.clusters 0, stacksUp := insNat s.stacksUp 0
    mem := (codeImage code).foldl (fun m e => memPut m e.1 e.2) s.mem
    poison := s.poison.filter fun w => !words.contains w
    codeOld := s.codeOld.filter fun e => !words.contains (e.1 / 4)
    tlb := s.tlb.filter fun e => !(e.core = 0 && e.ctx = 0)
    cmds := s.cmds.map fun (d : BankCmd) => if d.range.any fun r => r.1 < 0x20008 && 0x10000 < r.2 then { d with held := false } else d
    ctxs := tabSet s.ctxs 0 c, cores := tabSet s.cores 0 core, parts := tabSet s.parts 0 part
    nodes := s.nodes ++ [n], groups := s.groups ++ [gr], crews := s.crews ++ [⟨[grp], List.replicate 8 Barrier.idle, false⟩]
    gangs := s.gangs ++ [newGang grp 0 0 0 s.stamp s.stamp], stamp := s.stamp + 1 }

end Sys2Proof.Machine
end

