-- ==== Sys2Proof/Machine/Step.lean ====
section
/-! DEFINITION. One step of the device, and the state in which a given word is the next to issue. -/
namespace Sys2Proof.Machine

/-- One step: the act that was chosen from outside, or, when nothing is chosen, what the device does by itself. -/
def step (s : State) : Host.Outcome State Fault Refusal :=
  match s.agenda with
  | a :: r => State.act { s with agenda := r, cur := .none } a
  | [] => State.act { s with cur := .none } s.autoAct

/-- The state with the word of `nbits` bits where the next step fetches (R70): the code page of a gang that is resident on
partition 0, whose slot is chosen next. -/
def State.withFetchWord (s : State) (nbits w : Nat) : State := s.seatCode (bytesOf 8 (w % 2 ^ nbits))

end Sys2Proof.Machine
end

