-- ==== Sys2Proof/Safety.lean ====
section
/-! DEFINITION. The terms in which claims are stated: what an instruction may change and must leave alone, when nothing in
the machine holds it back, and the invariants of the machine. -/
namespace Sys2Proof.Machine

/-! ### Frames -/

/-- From `u` to `t` nothing changes but gang `g` itself and the accounts of one issue (R46, R47, R378): the slot and the run
count of its partition, the counts of the event counters, and the model's order stamp. -/
structure OnlyGang (u t : State) (g : Nat) : Prop where
  rest : t = { u with gangs := t.gangs, parts := t.parts, cores := t.cores, stamp := t.stamp }
  others : ∀ k, k ≠ g → t.gangs[k]? = u.gangs[k]?
  units : ∀ p, (t.part p).token = (u.part p).token ∧ (t.part p).accs = (u.part p).accs ∧ (t.part p).mq = (u.part p).mq
  counters : ∀ c, (t.core c).offline = (u.core c).offline ∧ (t.core c).evsel = (u.core c).evsel
    ∧ (t.core c).evctx = (u.core c).evctx

/-- From `G` to `G'` nothing of a gang changes but what an instruction writes in it (registers, flags, PCs, nesting
counters), its tail or crawl, and its place in the order of issue. In particular its mode, EPC0 to EPC7's gang half
(TRAPCAUSE, TRAPADDR, TRAPMASK), its completion counters and its loads in flight stay. -/
def Gang.Keeps (G G' : Gang) : Prop :=
  G' = { G with v := G'.v, s := G'.s, sv := G'.sv, ss := G'.ss, flags := G'.flags, slices := G'.slices, nest := G'.nest,
                tail := G'.tail, lastIssue := G'.lastIssue, crawl := G'.crawl, crawlCnt := G'.crawlCnt, sheds := G'.sheds,
                irr := G'.irr }

/-- The registers after an instruction (R59, R60): register `n` of lane `l` holds `fv n l` where that names a value, and
scalar `n` holds `fs n`; every other register keeps its value, and so does the bank that the mode does not select
(R156). -/
structure Gang.Regs (G G' : Gang) (fv : Nat → Nat → Option Word) (fs : Nat → Option DWord) : Prop where
  vector : ∀ n l, n < 640 → l < 32 → G'.getV n l = (fv n l).getD (G.getV n l)
  scalar : ∀ n, n < 64 → G'.getS n = (fs n).getD (G.getS n)
  userV : ∀ k, G.super = true → 19968 ≤ k → stGet G'.v k = stGet G.v k
  userS : ∀ k, G.super = true → 56 ≤ k → stGet G'.s k = stGet G.s k
  superV : G.super = false → G'.sv = G.sv
  superS : G.super = false → G'.ss = G.ss

/-- No register is written. -/
def noV : Nat → Nat → Option Word := fun _ _ => none
def noS : Nat → Option DWord := fun _ => none

/-- The slices of fragment `m` go on at `go` of their PC and every other slice stays (R67, R133). -/
def Gang.Moves (G G' : Gang) (m : BitVec 8) (go : DWord → DWord) : Prop :=
  ∀ k : Nat, G'.slices[k]? = (G.slices[k]?).map fun sl =>
    if m.getLsbD k then { sl with pc := go sl.pc, replay := none } else sl

/-- The nesting counters do not change. -/
def Gang.SameNest (G G' : Gang) : Prop := ∀ l, stGet G'.nest l = stGet G.nest l

/-- An instruction of gang `g` completes (R60, R67, R87): `u` is the machine with the instruction's effect outside the gang,
`G` the gang, and in `t` the named registers hold their values, the sticky flags have gained `fl`, the fragment goes on
at `go` of its PC, and nothing else has changed. -/
def Completes (u t : State) (g : Nat) (G : Gang) (m : BitVec 8) (fv : Nat → Nat → Option Word) (fs : Nat → Option DWord)
    (fl : BitVec 5) (go : DWord → DWord) : Prop :=
  OnlyGang u t g ∧ ∃ G', t.gangs[g]? = some G' ∧ G.Keeps G' ∧ G.Regs G' fv fs ∧ G'.flags = G.flags ||| fl
    ∧ G.Moves G' m go ∧ G.SameNest G'

/-- PC + 8 (R67). -/
def next8 (pc : DWord) : DWord := pc + 8

/-- Every byte of memory reads as before. -/
def SameMemory (s t : State) : Prop := ∀ a, stGet (w := 8) t.mem a = stGet (w := 8) s.mem a

/-! ### When nothing holds an instruction back -/

/-- The operands pass check 6 of R68 and none of their registers waits for a load (R226). -/
abbrev Operable (us : List Use) (i : Issuer) (G : Gang) : Prop :=
  (∀ u ∈ us, u.bad i = false) ∧ G.interlocked us = false

/-- The registers that the uses write. -/
def written (us : List Use) : List RegId := (us.filter (·.wr)).flatMap Use.regs

/-- The tail (R204, R209) or the crawl (R215) has room for an instruction that writes the registers of `us`. -/
abbrev Roomy (s : State) (g : Nat) (G : Gang) (us : List Use) : Prop := s.room g G ⟨written us, [], []⟩ = .ok

/-- Nothing holds an irrevocable operation back (R212): no open tail, no load in flight, the crawl not over. -/
abbrev Calm (G : Gang) : Prop := G.tail = none ∧ G.pend = [] ∧ (G.crawl = true → G.crawlCnt < 256)

/-- Fewer than 31 operations of the class are in flight (R140). -/
abbrev Free (G : Gang) (cls : Nat) : Prop := G.count cls < 31

/-! ### Traps -/

/-- The gang after trap entry (R155): EPCs and the divergence state hold what stood in the PCs and nesting counters, the
report stands in TRAPCAUSE, TRAPADDR and TRAPMASK, and the live slices form one fragment at TRAPVEC in supervisor mode
with every lane active. -/
structure Gang.Entered (G G' : Gang) (cause addr mask vec : DWord) (frag : BitVec 8) : Prop where
  epcs : ∀ (k : Nat) (sl : Slice), G.slices[k]? = some sl → ∃ sl' : Slice, G'.slices[k]? = some sl' ∧ sl'.epc = sl.pc ∧ sl'.live = sl.live
    ∧ (sl.live = true → sl'.pc = vec ∧ sl'.stopped = false ∧ sl'.frag = (G.slices.findIdx? (·.live)).getD 0)
  aside : G'.asideNest = G.nest ∧ G'.aside.map (fun sl => (sl.pc, sl.frag, sl.live)) = G.slices.map (fun sl => (sl.pc, sl.frag, sl.live))
  cause : G'.trapcause = cause
  addr : G'.trapaddr = addr
  mask : G'.trapmask = mask
  mode : G'.super = true
  nest : G'.nest = []
  frag : G'.faultSlices = frag
  keeps : G'.v = G.v ∧ G'.s = G.s ∧ G'.sv = G.sv ∧ G'.ss = G.ss ∧ G'.flags = G.flags ∧ G'.cnt = G.cnt

/-- TRAPVEC of a context is an 8-byte aligned address of a valid executable page (R160). -/
abbrev VectorRuns (s : State) (G : Gang) (gr : Group) : Prop :=
  (s.vecFault G.part gr.ctx G.grp (s.ctx gr.ctx).trapvec.toNat).1 = none

/-! ### Invariants -/

/-- The canonical form of memory, in which every byte that is not zero stands once, in the order of the addresses. -/
def MemoryTidy (s : State) : Prop := Memory.wf s.mem = true

/-! ### Register-only instructions, as the tables of the spec give them -/

/-- A register-only instruction by its table: the operand positions, what its entry asks of the format slots, the value
that each register receives in each lane and each scalar receives, and the sticky flags it raises. -/
structure RegOp where
  uses : List Use
  ok : Issuer → Bool
  lane : Issuer → Nat → Nat → Option Word
  scal : Issuer → Nat → Option DWord
  flags : Issuer → BitVec 5

/-- A value in one vector register, in the active lanes (R60). -/
def laneV (i : Issuer) (d : Operand) (f : Nat → Word) (n l : Nat) : Option Word :=
  match d with
  | .v k => if k.val = n && i.active.getLsbD l then some (f l) else none
  | _ => none

/-- A 64-bit value in a register pair, the low word in the even register (R60). -/
def laneQ (i : Issuer) (d : Operand) (f : Nat → DWord) (n l : Nat) : Option Word :=
  match d with
  | .v k =>
    if i.active.getLsbD l then
      if k.val = n then some ((f l).extractLsb' 0 32) else if k.val + 1 = n then some ((f l).extractLsb' 32 32) else none
    else none
  | _ => none

/-- A value in a scalar register (R59). -/
def scalD (d : Operand) (x : DWord) (n : Nat) : Option DWord :=
  match d with
  | .s k => if k.val = n then some x else none
  | _ => none

/-- The flags of the active lanes joined, or those of the scalar pipe (R87). -/
def joinFlags (i : Issuer) (d : Operand) (f : Nat → BitVec 5) (g : BitVec 5) : BitVec 5 :=
  match d with
  | .v _ => (maskLanes i.active).foldl (fun a l => a ||| f l) 0
  | .s _ => g
  | _ => 0

/-- An integer instruction (R99): the same rule at width 32 in lanes and at width 64 on the scalar pipe; no flag. -/
def intOp (d : Operand) (src : List Operand) (f : (w : Nat) → Issuer → (Operand → BitVec w) → BitVec w) : RegOp where
  uses := Use.w d :: src.map Use.r
  ok _ := true
  lane i := laneV i d fun l => f 32 i fun o => i.rd o l
  scal i := scalD d (f 64 i fun o => i.rds o)
  flags _ := 0

/-- An integer instruction of 64-bit positions (R105). -/
def wideOp (d : Operand) (src : List Operand) (f : Issuer → (Operand → DWord) → DWord) : RegOp where
  uses := Use.wq d :: src.map Use.q
  ok _ := true
  lane i := laneQ i d fun l => f i fun o => i.rdq o l
  scal i := scalD d (f i fun o => i.rds o)
  flags _ := 0

/-- A 32-bit operation on both pipes, its scalar result zero-extended (R59), with flags (R87). -/
def wordOp (d : Operand) (src : List Operand) (f : Issuer → (Operand → Word) → Word × BitVec 5) : RegOp where
  uses := Use.w d :: src.map Use.r
  ok _ := true
  lane i := laneV i d fun l => (f i fun o => i.rd o l).1
  scal i := scalD d ((f i fun o => (i.rds o).setWidth 32).1.setWidth 64)
  flags i := joinFlags i d (fun l => (f i fun o => i.rd o l).2) (f i fun o => (i.rds o).setWidth 32).2

/-- An FP64 operation (R115). -/
def doubleOp (d : Operand) (src : List Operand) (f : Issuer → (Operand → DWord) → DWord × BitVec 5) : RegOp where
  uses := Use.wq d :: src.map Use.q
  ok _ := true
  lane i := laneQ i d fun l => (f i fun o => i.rdq o l).1
  scal i := scalD d (f i fun o => i.rds o).1
  flags i := joinFlags i d (fun l => (f i fun o => i.rdq o l).2) (f i fun o => i.rds o).2

/-- A cross-lane operation (R121): a value per lane from all lanes, in a vector register. -/
def crossOp (d : Operand) (src : List Operand) (f : Issuer → Nat → Word) (fl : Issuer → BitVec 5) : RegOp where
  uses := Use.w d :: src.map Use.r
  ok _ := true
  lane i := laneV i d (f i)
  scal _ _ := none
  flags i := fl i

/-- The exact result `z` reduced to `w` bits (R99): clamped when it saturates, else wrapped. -/
def fit (w : Nat) (sat : Bool) (z : Int) : BitVec w :=
  if sat then BitVec.ofInt w (max (-(2 ^ (w - 1) : Int)) (min z (2 ^ (w - 1) - 1))) else BitVec.ofInt w z

/-- The shifts of R101 by a count below the width. -/
def shiftBy {w : Nat} (kind : Nat) (a : BitVec w) (n : Nat) : BitVec w :=
  match kind with
  | 0 => BitVec.ofNat w (a.toNat * 2 ^ n)
  | 1 => BitVec.ofNat w (a.toNat / 2 ^ n)
  | 2 => BitVec.ofInt w (a.toInt / 2 ^ n)
  | _ => BitVec.ofNat w (a.toNat * 2 ^ n + a.toNat / 2 ^ (w - n))

/-- The comparisons of R102 on integers. -/
def compares {w : Nat} (cc : Nat) (a b : BitVec w) : Bool :=
  match cc with
  | 0 => a == b
  | 1 => a != b
  | 2 => decide (a.toInt < b.toInt)
  | 3 => decide (a.toInt ≤ b.toInt)
  | 4 => decide (b.toInt < a.toInt)
  | 5 => decide (b.toInt ≤ a.toInt)
  | 6 => decide (a.toNat < b.toNat)
  | _ => decide (a.toNat ≤ b.toNat)

/-- Position and length of a field (R103). -/
def fieldPos {w : Nat} (b : BitVec w) : Nat := b.toNat % w
def fieldLen {w : Nat} (b : BitVec w) : Nat := min (b.toNat / 256 % (if w = 32 then 64 else 128)) (w - fieldPos b)

/-- The field of R103, sign-extended where asked. -/
def fieldGet {w : Nat} (sx : Bool) (a b : BitVec w) : BitVec w :=
  let x := a.toNat / 2 ^ fieldPos b % 2 ^ fieldLen b
  if sx && 0 < fieldLen b && 2 ^ (fieldLen b - 1) ≤ x then BitVec.ofInt w ((x : Int) - 2 ^ fieldLen b) else BitVec.ofNat w x

/-- The word c with its field replaced by the low bits of a (R103). -/
def fieldSet {w : Nat} (a b c : BitVec w) : BitVec w :=
  BitVec.ofNat w (c.toNat % 2 ^ fieldPos b + a.toNat % 2 ^ fieldLen b * 2 ^ fieldPos b
    + c.toNat / 2 ^ (fieldPos b + fieldLen b) * 2 ^ (fieldPos b + fieldLen b))

/-- The dot products of R106: `n` elements of `w` bits, accumulated in ascending order in INT32. -/
def dotRule (sx : Bool) (w n : Nat) (sat : Bool) (a b c : Word) : Word :=
  let e (x : Word) (k : Nat) : Int :=
    let v := x.toNat / 2 ^ (w * k) % 2 ^ w
    if sx && 2 ^ (w - 1) ≤ v then (v : Int) - 2 ^ w else v
  (List.range n).foldl (fun acc k => fit 32 sat (acc.toInt + e a k * e b k)) c

/-- The integer, logic, address and I-form instructions by their tables (R67, R100, R104 to R106). -/
def intTable : Instr → Option RegOp
  | .nop => some ⟨[], fun _ => true, fun _ _ _ => none, fun _ _ => none, fun _ => 0⟩
  | .iadd x => some (intOp x.d [x.a, x.b] fun w i r => fit w (x.sat || i.isat) ((r x.a).toInt + (r x.b).toInt))
  | .isub x => some (intOp x.d [x.a, x.b] fun w i r => fit w (x.sat || i.isat) ((r x.a).toInt - (r x.b).toInt))
  | .imul x => some (intOp x.d [x.a, x.b] fun w i r => fit w (x.sat || i.isat) ((r x.a).toInt * (r x.b).toInt))
  | .imulh x => some (intOp x.d [x.a, x.b] fun w _ r => BitVec.ofInt w ((r x.a).toInt * (r x.b).toInt / 2 ^ w))
  | .imulhu x => some (intOp x.d [x.a, x.b] fun w _ r => BitVec.ofNat w ((r x.a).toNat * (r x.b).toNat / 2 ^ w))
  | .imad x => some (intOp x.d [x.a, x.b, x.c] fun w i r =>
      fit w (x.sat || i.isat) ((r x.a).toInt * (r x.b).toInt + (r x.c).toInt))
  | .imin x => some (intOp x.d [x.a, x.b] fun w _ r => BitVec.ofInt w (min (r x.a).toInt (r x.b).toInt))
  | .imax x => some (intOp x.d [x.a, x.b] fun w _ r => BitVec.ofInt w (max (r x.a).toInt (r x.b).toInt))
  | .umin x => some (intOp x.d [x.a, x.b] fun w _ r => BitVec.ofNat w (min (r x.a).toNat (r x.b).toNat))
  | .umax x => some (intOp x.d [x.a, x.b] fun w _ r => BitVec.ofNat w (max (r x.a).toNat (r x.b).toNat))
  | .iabs x => some (intOp x.d [x.a] fun w i r => fit w (x.sat || i.isat) ((r x.a).toInt.natAbs : Int))
  | .and x => some (intOp x.d [x.a, x.b] fun _ _ r => r x.a &&& r x.b)
  | .or x => some (intOp x.d [x.a, x.b] fun _ _ r => r x.a ||| r x.b)
  | .xor x => some (intOp x.d [x.a, x.b] fun _ _ r => r x.a ^^^ r x.b)
  | .andn x => some (intOp x.d [x.a, x.b] fun _ _ r => r x.a &&& ~~~(r x.b))
  | .shl x => some (intOp x.d [x.a, x.b] fun w _ r => shiftBy 0 (r x.a) ((r x.b).toNat % w))
  | .shr x => some (intOp x.d [x.a, x.b] fun w _ r => shiftBy 1 (r x.a) ((r x.b).toNat % w))
  | .sra x => some (intOp x.d [x.a, x.b] fun w _ r => shiftBy 2 (r x.a) ((r x.b).toNat % w))
  | .rol x => some (intOp x.d [x.a, x.b] fun w _ r => shiftBy 3 (r x.a) ((r x.b).toNat % w))
  | .popc x => some (intOp x.d [x.a] fun w _ r => BitVec.ofNat w (((List.range w).filter (r x.a).getLsbD).length))
  | .clz x => some (intOp x.d [x.a] fun w _ r =>
      BitVec.ofNat w (((List.range w).find? fun k => (r x.a).getLsbD (w - 1 - k)).getD w))
  | .ctz x => some (intOp x.d [x.a] fun w _ r => BitVec.ofNat w (((List.range w).find? (r x.a).getLsbD).getD w))
  | .brev x => some (intOp x.d [x.a] fun _ _ r => (r x.a).reverse)
  | .bfx x => some (intOp x.d [x.a, x.b] fun _ _ r => fieldGet (x.sub == 1) (r x.a) (r x.b))
  | .bfi x => some (intOp x.d [x.a, x.b, x.c] fun _ _ r => fieldSet (r x.a) (r x.b) (r x.c))
  | .sel x => some (intOp x.d [x.a, x.b, x.c] fun _ _ r => if r x.c = 0 then r x.b else r x.a)
  | .icmp x => some (intOp x.d [x.a, x.b] fun w _ r => if compares x.sub.toNat (r x.a) (r x.b) then BitVec.ofNat w 1 else 0)
  | .iadd64 x => some (wideOp x.d [x.a, x.b] fun i r => fit 64 (x.sat || i.isat) ((r x.a).toInt + (r x.b).toInt))
  | .isub64 x => some (wideOp x.d [x.a, x.b] fun i r => fit 64 (x.sat || i.isat) ((r x.a).toInt - (r x.b).toInt))
  | .imul64 x => some (wideOp x.d [x.a, x.b] fun i r => fit 64 (x.sat || i.isat) ((r x.a).toInt * (r x.b).toInt))
  | .lea x => some
      { uses := [Use.wq x.d, Use.q x.a, Use.r x.b], ok := fun _ => true
        lane := fun i => laneQ i x.d fun l => BitVec.ofNat 64 ((i.rdq x.a l).toNat + (i.rd x.b l).toNat * 2 ^ x.sub.toNat)
        scal := fun i => scalD x.d (BitVec.ofNat 64 ((i.rds x.a).toNat + (i.rds x.b).toNat % 2 ^ 32 * 2 ^ x.sub.toNat))
        flags := fun _ => 0 }
  | .mov x => some (if x.sub = 1 then wideOp x.d [x.a] fun _ r => r x.a else intOp x.d [x.a] fun _ _ r => r x.a)
  | .movi x => some
      { uses := [Use.w x.d], ok := fun _ => true
        lane := fun i => laneV i x.d fun _ => x.imm
        scal := fun i => scalD x.d
          (if x.sub = 0 then BitVec.ofNat 64 x.imm.toNat
           else if x.sub = 1 then BitVec.ofInt 64 x.imm.toInt
           else BitVec.ofNat 64 (x.imm.toNat * 2 ^ 32 + (i.rds x.d).toNat % 2 ^ 32))
        flags := fun _ => 0 }
  | .iaddi x => some (intOp x.d [x.a] fun w i r => fit w i.isat ((r x.a).toInt + x.imm.toInt))
  | .andi x => some (intOp x.d [x.a] fun w _ r => r x.a &&& (if x.sub = 1 then BitVec.ofNat w x.imm.toNat else BitVec.ofInt w x.imm.toInt))
  | .ori x => some (intOp x.d [x.a] fun w _ r => r x.a ||| (if x.sub = 1 then BitVec.ofNat w x.imm.toNat else BitVec.ofInt w x.imm.toInt))
  | .xori x => some (intOp x.d [x.a] fun w _ r => r x.a ^^^ (if x.sub = 1 then BitVec.ofNat w x.imm.toNat else BitVec.ofInt w x.imm.toInt))
  | .shifti x => some (intOp x.d [x.a] fun _ _ r => shiftBy x.sub.toNat (r x.a) x.imm.toNat)
  | .icmpi x => some (intOp x.d [x.a] fun w _ r =>
      if compares x.sub.toNat (r x.a) (BitVec.ofInt w x.imm.toInt) then BitVec.ofNat w 1 else 0)
  | .idp4 x => some
      { uses := Use.w x.d :: [x.a, x.b, x.c].map Use.r, ok := fun _ => true
        lane := fun i => laneV i x.d fun l =>
          dotRule true (if x.sub = 1 then 4 else 8) (if x.sub = 1 then 8 else 4) (x.sat || i.isat) (i.rd x.a l) (i.rd x.b l) (i.rd x.c l)
        scal := fun i => scalD x.d (BitVec.ofInt 64
          (dotRule true (if x.sub = 1 then 4 else 8) (if x.sub = 1 then 8 else 4) (x.sat || i.isat) ((i.rds x.a).setWidth 32)
            ((i.rds x.b).setWidth 32) ((i.rds x.c).setWidth 32)).toInt)
        flags := fun _ => 0 }
  | .idp4u x => some
      { uses := Use.w x.d :: [x.a, x.b, x.c].map Use.r, ok := fun _ => true
        lane := fun i => laneV i x.d fun l => dotRule false 8 4 (x.sat || i.isat) (i.rd x.a l) (i.rd x.b l) (i.rd x.c l)
        scal := fun i => scalD x.d (BitVec.ofInt 64
          (dotRule false 8 4 (x.sat || i.isat) ((i.rds x.a).setWidth 32) ((i.rds x.b).setWidth 32) ((i.rds x.c).setWidth 32)).toInt)
        flags := fun _ => 0 }
  | _ => none

/-- The code of an operand after ABS and NEG (R51): position 2 is A, 1 is B, 0 is C. -/
def absNeg (x : Arith) (f : Fmt) (k c : Nat) : Nat := f.modify (x.neg.getLsbD k) (x.abs.getLsbD k) c

/-- The rounding mode that a word names (R86, R108). -/
def roundMode (i : Issuer) (r : Rnd) : Nat :=
  match r with
  | .mode => i.rm
  | .rn => 0
  | .rz => 1
  | .ra => 4

/-- An operand of a floating-point instruction: its value after ABS, NEG and the flush of R88. -/
def fpArg (x : Arith) (f : Fmt) (i : Issuer) (k c : Nat) : FVal := f.read i.ftz (absNeg x f k c)

/-- An FP32 instruction by its rule on the codes of A, B and C. -/
def fp32Op (x : Arith) (src : List Operand) (f : Issuer → Nat → Nat → Nat → Nat × BitVec 5) : RegOp :=
  wordOp x.d src fun i r =>
    let y := f i (r x.a).toNat (r x.b).toNat (r x.c).toNat
    (BitVec.ofNat 32 y.1, y.2)

/-- A packed BF16 instruction: the rule on both halves, flags of both joined (R114). -/
def packedOp (x : Arith) (src : List Operand) (f : Issuer → Nat → Nat → Nat → Nat × BitVec 5) : RegOp :=
  wordOp x.d src fun i r =>
    let h (k : Nat) (o : Operand) : Nat := (r o).toNat / 2 ^ (16 * k) % 2 ^ 16
    let lo := f i (h 0 x.a) (h 0 x.b) (h 0 x.c)
    let hi := f i (h 1 x.a) (h 1 x.b) (h 1 x.c)
    (BitVec.ofNat 32 (lo.1 + 2 ^ 16 * hi.1), lo.2 ||| hi.2)

/-- An FP64 instruction by its rule on codes. -/
def fp64Op (x : Arith) (src : List Operand) (f : Issuer → Nat → Nat → Nat → Nat × BitVec 5) : RegOp :=
  doubleOp x.d src fun i r =>
    let y := f i (r x.a).toNat (r x.b).toNat (r x.c).toNat
    (BitVec.ofNat 64 y.1, y.2)

/-- The FP32 instructions (R104, R107 to R113). -/
def fpTable : Instr → Option RegOp
  | .fadd x => some (fp32Op x [x.a, x.b] fun i a b _ => fp32.add (roundMode i x.rnd) i.ftz (fpArg x fp32 i 2 a) (fpArg x fp32 i 1 b))
  | .fsub x => some (fp32Op x [x.a, x.b] fun i a b _ =>
      fp32.add (roundMode i x.rnd) i.ftz (fpArg x fp32 i 2 a) (fpArg x fp32 i 1 b).negate)
  | .fmul x => some (fp32Op x [x.a, x.b] fun i a b _ => fp32.mulR (roundMode i x.rnd) i.ftz (fpArg x fp32 i 2 a) (fpArg x fp32 i 1 b))
  | .ffma x => some (fp32Op x [x.a, x.b, x.c] fun i a b c =>
      fp32.fma (roundMode i x.rnd) i.ftz (fpArg x fp32 i 2 a) (fpArg x fp32 i 1 b) (fpArg x fp32 i 0 c))
  | .fmin x => some (fp32Op x [x.a, x.b] fun i a b _ => fp32.minmax false i.ftz (absNeg x fp32 2 a) (absNeg x fp32 1 b))
  | .fmax x => some (fp32Op x [x.a, x.b] fun i a b _ => fp32.minmax true i.ftz (absNeg x fp32 2 a) (absNeg x fp32 1 b))
  | .fcmp x => some (fp32Op x [x.a, x.b] fun i a b _ =>
      let y := fcompare x.sub.toNat (fpArg x fp32 i 2 a) (fpArg x fp32 i 1 b)
      (if y.1 then 1 else 0, y.2))
  | .fclass x => some (fp32Op x [x.a] fun _ a _ _ => (fp32.classMask (absNeg x fp32 2 a), 0))
  | .frcp x => some (fp32Op x [x.a] fun i a _ _ => fp32.rcp (roundMode i x.rnd) i.ftz (fpArg x fp32 i 2 a))
  | .frsq x => some (fp32Op x [x.a] fun i a _ _ => fp32.rsq (roundMode i x.rnd) i.ftz (fpArg x fp32 i 2 a))
  | .fsqrt x => some (fp32Op x [x.a] fun i a _ _ => fp32.sqrt (roundMode i x.rnd) i.ftz (fpArg x fp32 i 2 a))
  | .fexp2 x => some (fp32Op x [x.a] fun i a _ _ => fp32.exp2 (roundMode i x.rnd) i.ftz (fpArg x fp32 i 2 a))
  | .flog2 x => some (fp32Op x [x.a] fun i a _ _ => fp32.log2 (roundMode i x.rnd) i.ftz (fpArg x fp32 i 2 a))
  | .fsinp x => some (fp32Op x [x.a] fun i a _ _ => fp32.sinp (roundMode i x.rnd) i.ftz (fpArg x fp32 i 2 a))
  | .fcosp x => some (fp32Op x [x.a] fun i a _ _ => fp32.cosp (roundMode i x.rnd) i.ftz (fpArg x fp32 i 2 a))
  | .faddi x => some (wordOp x.d [x.a] fun i r =>
      let y := fp32.add i.rm i.ftz (fp32.read i.ftz (r x.a).toNat) (fp32.read i.ftz x.imm.toNat)
      (BitVec.ofNat 32 y.1, y.2))
  | .fmuli x => some (wordOp x.d [x.a] fun i r =>
      let y := fp32.mulR i.rm i.ftz (fp32.read i.ftz (r x.a).toNat) (fp32.read i.ftz x.imm.toNat)
      (BitVec.ofNat 32 y.1, y.2))
  | _ => none

/-- The packed BF16 and the FP64 instructions (R114, R115). -/
def packedTable : Instr → Option RegOp
  | .hadd2 x => some (packedOp x [x.a, x.b] fun i a b _ => bf16.add (roundMode i x.rnd) i.ftz (fpArg x bf16 i 2 a) (fpArg x bf16 i 1 b))
  | .hmul2 x => some (packedOp x [x.a, x.b] fun i a b _ => bf16.mulR (roundMode i x.rnd) i.ftz (fpArg x bf16 i 2 a) (fpArg x bf16 i 1 b))
  | .hfma2 x => some (packedOp x [x.a, x.b, x.c] fun i a b c =>
      bf16.fma (roundMode i x.rnd) i.ftz (fpArg x bf16 i 2 a) (fpArg x bf16 i 1 b) (fpArg x bf16 i 0 c))
  | .hmax2 x => some (packedOp x [x.a, x.b] fun i a b _ => bf16.minmax true i.ftz (absNeg x bf16 2 a) (absNeg x bf16 1 b))
  | .hmin2 x => some (packedOp x [x.a, x.b] fun i a b _ => bf16.minmax false i.ftz (absNeg x bf16 2 a) (absNeg x bf16 1 b))
  | .dadd x => some (fp64Op x [x.a, x.b] fun i a b _ => fp64.add (roundMode i x.rnd) i.ftz (fpArg x fp64 i 2 a) (fpArg x fp64 i 1 b))
  | .dsub x => some (fp64Op x [x.a, x.b] fun i a b _ =>
      fp64.add (roundMode i x.rnd) i.ftz (fpArg x fp64 i 2 a) (fpArg x fp64 i 1 b).negate)
  | .dmul x => some (fp64Op x [x.a, x.b] fun i a b _ => fp64.mulR (roundMode i x.rnd) i.ftz (fpArg x fp64 i 2 a) (fpArg x fp64 i 1 b))
  | .dfma x => some (fp64Op x [x.a, x.b, x.c] fun i a b c =>
      fp64.fma (roundMode i x.rnd) i.ftz (fpArg x fp64 i 2 a) (fpArg x fp64 i 1 b) (fpArg x fp64 i 0 c))
  | .dmin x => some (fp64Op x [x.a, x.b] fun i a b _ => fp64.minmax false i.ftz (absNeg x fp64 2 a) (absNeg x fp64 1 b))
  | .dmax x => some (fp64Op x [x.a, x.b] fun i a b _ => fp64.minmax true i.ftz (absNeg x fp64 2 a) (absNeg x fp64 1 b))
  | .dcmp x =>
    let f (i : Issuer) (r : Operand → DWord) : Word × BitVec 5 :=
      let y := fcompare x.sub.toNat (fpArg x fp64 i 2 (r x.a).toNat) (fpArg x fp64 i 1 (r x.b).toNat)
      (if y.1 then 1 else 0, y.2)
    some
      { uses := [Use.w x.d, Use.q x.a, Use.q x.b], ok := fun _ => true
        lane := fun i => laneV i x.d fun l => (f i fun o => i.rdq o l).1
        scal := fun i => scalD x.d ((f i fun o => i.rds o).1.setWidth 64)
        flags := fun i => joinFlags i x.d (fun l => (f i fun o => i.rdq o l).2) (f i fun o => i.rds o).2 }
  | _ => none

/-- The conversions and the block formats (R116 to R120). -/
def convertTable : Instr → Option RegOp
  | .cvt x =>
    let df := x.df.toNat
    let sf := x.sf.toNat
    let y (i : Issuer) (a : Nat) : Nat × BitVec 5 :=
      convert df sf (roundMode i x.rnd) i.ftz (x.sat || i.isat) (cvtSource sf x.sub.toNat a)
    let lane (i : Issuer) (l : Nat) : Nat × BitVec 5 := y i (if wideCode sf then (i.rdq x.a l).toNat else (i.rd x.a l).toNat)
    let scal (i : Issuer) : Nat × BitVec 5 := y i (i.rds x.a).toNat
    some
      { uses := cvtUses x, ok := fun _ => true
        lane := fun i =>
          if wideCode df then laneQ i x.d fun l => BitVec.ofNat 64 (lane i l).1
          else if narrowBits df != 0 then laneV i x.d fun l => setElement df x.sub.toNat (i.rd x.c l) (lane i l).1
          else laneV i x.d fun l => BitVec.ofNat 32 (lane i l).1
        scal := fun i => scalD x.d
          (if narrowBits df != 0 then (setElement df x.sub.toNat ((i.rds x.c).setWidth 32) (scal i).1).setWidth 64
           else if df = 0x9 then BitVec.ofInt 64 (sxNat (scal i).1 32)
           else BitVec.ofNat 64 (scal i).1)
        flags := fun i => joinFlags i x.d (fun l => (lane i l).2) (scal i).2 }
  | .cvts x =>
    let f (i : Issuer) (a c : Word) : Word × BitVec 5 :=
      let b := i.slot x.slot.toNat
      let y := if x.dq then dequantise (slotFmt b) (roundMode i x.rnd) i.ftz (slotTscale b) (elementOf (slotFmt b) x.sub.toNat a.toNat)
        else quantise (slotFmt b) (roundMode i x.rnd) i.ftz (slotTscale b) a.toNat
      (if x.dq then BitVec.ofNat 32 y.1 else setElement (slotFmt b) x.sub.toNat c y.1, y.2)
    some
      { (wordOp x.d ([x.a] ++ if x.dq then [] else [x.c]) fun i r => f i (r x.a) (r x.c)) with
        ok := fun i => narrowBits (slotFmt (i.slot x.slot.toNat)) != 0
          && x.sub.toNat < 32 / narrowBits (slotFmt (i.slot x.slot.toNat)) }
  | .dbq x =>
    let r (i : Issuer) : List Nat × Nat × Nat × BitVec 5 :=
      quantiseBlock (slotFmt (i.slot x.slot.toNat)) (slotK (i.slot x.slot.toNat)) (i.blockInputs x.a)
    some
      { (crossOp x.d [x.a] (fun i l => blockLane (slotFmt (i.slot x.slot.toNat)) (x.sub == 1) (r i) l)
          (fun i => if i.active = 0 then 0 else (r i).2.2.2)) with
        ok := fun i => slotFmt (i.slot x.slot.toNat) = 5 || slotFmt (i.slot x.slot.toNat) = 6 }
  | .dbx x => some
      { (wordOp x.d [x.a, x.b] fun i r =>
          let f := slotFmt (i.slot x.slot.toNat)
          (BitVec.ofNat 32 (fp32.put 0 false (blockValue f ((r x.a).toNat % 2 ^ codeBits f) ((r x.b).toNat / 2 ^ 16 % 2 ^ 8)
            ((r x.b).toNat / 2 ^ 24 % 2 ^ 8))).1, 0)) with
        ok := fun i => slotFmt (i.slot x.slot.toNat) = 5 || slotFmt (i.slot x.slot.toNat) = 6 }
  | _ => none

/-- The segment of a shuffle (R122): its width, and the lane's place in it. -/
def shuffleOp (x : Arith) (src : Nat → Nat → Nat → Nat) : RegOp :=
  crossOp x.d [x.a, x.b]
    (fun i l =>
      let w := 32 / 2 ^ x.sub.toNat
      i.rd x.a (l - l % w + src w (l % w) (i.rd x.b l).toNat))
    fun _ => 0

/-- The participating lanes (R121), rising. -/
def parts (i : Issuer) : List Nat := maskLanes i.active

/-- `combine` of R126 for two values, with the operation that SUB names (R125) and its flags. -/
def reduceStep (i : Issuer) (x : Arith) (a b : Word) : Word × BitVec 5 :=
  let fp (r : Nat × BitVec 5) : Word × BitVec 5 := (BitVec.ofNat 32 r.1, r.2)
  match x.sub.toNat with
  | 0 => (fit 32 (x.sat || i.isat) (a.toInt + b.toInt), 0)
  | 1 => (BitVec.ofInt 32 (min a.toInt b.toInt), 0)
  | 2 => (BitVec.ofInt 32 (max a.toInt b.toInt), 0)
  | 3 => (a &&& b, 0)
  | 4 => (a ||| b, 0)
  | 5 => fp (fp32.add (roundMode i x.rnd) i.ftz (fp32.read i.ftz a.toNat) (fp32.read i.ftz b.toNat))
  | 6 => fp (fp32.minmax false i.ftz a.toNat b.toNat)
  | _ => fp (fp32.minmax true i.ftz a.toNat b.toNat)

/-- Entry `t[l]` of R126's tree after its first `h` rounds (w = 1, 2, 4 and so on), with the flags of what it combines: in round `h`
the entry takes in the one 2^h lanes higher; an absent one changes nothing. -/
def treeAt (i : Issuer) (x : Arith) : Nat → Nat → Option (Word × BitVec 5)
  | 0, l => if i.active.getLsbD l then some (i.rd x.a l, 0) else none
  | h + 1, l =>
    match treeAt i x h l, treeAt i x h (l + 2 ^ h) with
    | some a, some b => some ((reduceStep i x a.1 b.1).1, a.2 ||| b.2 ||| (reduceStep i x a.1 b.1).2)
    | some a, none => some a
    | none, b => b

/-- `acc` of R126's SCAN after lanes 0 to n - 1, with the flags so far. -/
def prefixAt (i : Issuer) (x : Arith) : Nat → Option Word × BitVec 5
  | 0 => (none, 0)
  | n + 1 =>
    let p := prefixAt i x n
    if i.active.getLsbD n then
      match p.1 with
      | some a => (some (reduceStep i x a (i.rd x.a n)).1, p.2 ||| (reduceStep i x a (i.rd x.a n)).2)
      | none => (some (i.rd x.a n), p.2)
    else p

/-- A result of REDUCE or SCAN as it is written: under an FP32 operation a NaN is canonical (R74), and FTZ makes a lone subnormal
operand zero (R88). -/
def delivered (i : Issuer) (x : Arith) (v : Word) : Word :=
  if x.sub.toNat < 5 then v
  else if v.toNat / 2 ^ 23 % 2 ^ 8 = 255 ∧ v.toNat % 2 ^ 23 ≠ 0 then 0x7FC00000
  else if i.ftz = true ∧ v.toNat / 2 ^ 23 % 2 ^ 8 = 0 then v &&& 0x80000000
  else v

/-- The cross-lane instructions and KVSLOT (R121 to R129). -/
def crossTable : Instr → Option RegOp
  | .shfl x => some (shuffleOp x fun w _ b => b % w)
  | .shflx x => some (shuffleOp x fun w k b => Nat.xor k (b % w))
  | .shflu x => some (shuffleOp x fun _ k b => if b ≤ k then k - b else k)
  | .shfld x => some (shuffleOp x fun w k b => if k + b < w then k + b else k)
  | .bcast x => some (crossOp x.d [x.a, x.b] (fun i _ => i.rd x.a ((i.rds x.b).toNat % 32)) fun _ => 0)
  | .vote x => some (crossOp x.d [x.a] (fun i _ =>
      if x.sub = 0 then (if (parts i).any fun k => i.rd x.a k != 0 then 1 else 0)
      else if x.sub = 1 then (if (parts i).all fun k => i.rd x.a k != 0 then 1 else 0)
      else if x.sub = 2 then maskOf fun k => i.active.getLsbD k && i.rd x.a k != 0
      else (if (parts i).all fun k => (parts i).all fun j => i.rd x.a k == i.rd x.a j then 1 else 0)) fun _ => 0)
  | .reduce x => some (crossOp x.d [x.a] (fun i _ => match treeAt i x 5 0 with | some r => delivered i x r.1 | none => 0)
      fun i => match treeAt i x 5 0 with | some r => r.2 | none => 0)
  | .scan x => some (crossOp x.d [x.a] (fun i l => match (prefixAt i x (l + 1)).1 with | some v => delivered i x v | none => 0)
      fun i => (prefixAt i x 32).2)
  | .vconf x => some (crossOp x.d [x.a] (fun i l =>
      let m := maskOf fun k => i.active.getLsbD k && k < l && i.rd x.a k == i.rd x.a l
      if m = 0 then 0x80000000 else m) fun _ => 0)
  | .visect x => some (crossOp x.d [x.a, x.b] (fun i l =>
      if x.sub = 0 then BitVec.ofNat 32 (((parts i).find? fun k => i.rd x.b k == i.rd x.a l).getD 32)
      else BitVec.ofNat 32 (((parts i).filter fun k => (i.rd x.b k).toNat < (i.rd x.a l).toNat).length)) fun _ => 0)
  | .kvslot x => some (wordOp x.d [x.a, x.b] fun _ r =>
      let j := (r x.a).toNat % 16
      (BitVec.ofNat 32 (((List.range j).filter (r x.b).getLsbD).length + if (r x.b).getLsbD j then 0 else 2 ^ 31), 0))
  | _ => none

/-- A register-only instruction completes with the values of its table: for every state in which a gang issues it with
operands that pass check 6, format slots that its entry accepts, and room in its tail. -/
def Runs (i : Instr) (o : RegOp) : Prop :=
  ∀ (s : State) (g : Nat) (G : Gang) (gr : Group) (iss : Issuer), s.issue = .gang g G gr iss → o.ok iss = true →
    Operable o.uses iss G → Roomy s g G o.uses →
    ∃ t, exec i s = .next t ∧ Completes s t g G iss.frag (o.lane iss) (o.scal iss) (o.flags iss) next8

/-! ### What statements about the other instructions say -/

/-- From `s` to `t` the machine has only looked at memory: translations cached, accesses counted, free values drawn, lines read
into the caches and others leaving them, reads sent out over the link, a walk found waiting. -/
structure Looked (s t : State) : Prop where
  rest : t = { s with tlb := t.tlb, cores := t.cores, slices := t.slices, free := t.free, l1 := t.l1, l2 := t.l2, owner := t.owner,
                      l1win := t.l1win, l2win := t.l2win, farOut := t.farOut, blocked := t.blocked }
  counters : ∀ c, (t.core c).offline = (s.core c).offline ∧ (t.core c).evsel = (s.core c).evsel ∧ (t.core c).evctx = (s.core c).evctx
  selectors : ∀ i, (t.slice i).sel = (s.slice i).sel

/-- Registers, flags and nesting counters of a gang stay, and so does all that no instruction writes. -/
def Gang.Still (G G' : Gang) : Prop := G.Keeps G' ∧ G.Regs G' noV noS ∧ G'.flags = G.flags ∧ G.SameNest G'

/-- From `u` to `t` only gang `g` changes, and the gang after has the property `P`. -/
def OnlyTo (u t : State) (g : Nat) (P : Gang → Prop) : Prop := OnlyGang u t g ∧ ∃ G', t.gangs[g]? = some G' ∧ P G'

/-- The other gangs stay as they are. -/
def OtherGangs (s t : State) (g : Nat) : Prop := ∀ k, k ≠ g → t.gangs[k]? = s.gangs[k]?

/-- A gang with one operation of a class more (R140). -/
def Gang.oneMore (G : Gang) (cls : Nat) : Gang := { G with cnt := updAt G.cnt cls (· + 1) }

/-- A condition of R132 on a signed value. -/
def condition {w : Nat} (cond : Nat) (c : BitVec w) : Bool :=
  match cond with
  | 0 => decide (c.toInt = 0)
  | 1 => decide (c.toInt ≠ 0)
  | 2 => decide (c.toInt < 0)
  | 3 => decide (0 ≤ c.toInt)
  | 4 => decide (0 < c.toInt)
  | _ => decide (c.toInt ≤ 0)

/-- The target of a direct branch (R131): PC + 8 x sx(OFS32, 32). -/
def branchTarget (pc : DWord) (ofs : BitVec 32) : DWord := pc + BitVec.ofInt 64 (8 * ofs.toInt)

/-- The structured instructions (R27) on the counter `n` of lane `l`, whose condition is `c`. -/
def nestTable (i : Instr) (c : Bool) (n : Nat) : Option Nat :=
  match i with
  | .ifOp _ => some (if n = 0 then (if c then 0 else 1) else n + 1)
  | .elseOp _ => some (if n = 0 then 1 else if n = 1 then 0 else n)
  | .endif _ => some (if n = 0 then 0 else n - 1)
  | .loop _ => some (if n = 0 then 0 else n + 1)
  | .brk _ => some (if n = 0 then (if c then 1 else 0) else n)
  | _ => none

/-- The operand and the condition code of a structured instruction, its target when no lane stays active (R28). -/
def nestCond : Instr → Option (Operand × Nat)
  | .ifOp x | .brk x => some (x.a, x.cond.toNat)
  | _ => none
def nestTarget : Instr → Option (BitVec 32)
  | .ifOp x | .elseOp x | .brk x => some x.ofs
  | _ => none

/-- The counter of a lane as a number. -/
def Gang.counter (G : Gang) (l : Nat) : Nat := (stGet G.nest l).toNat

/-- Lane `l` belongs to the fragment of slices `m`. -/
abbrev InFrag (m : BitVec 8) (l : Nat) : Prop := l < 32 ∧ m.getLsbD (l / 4) = true

/-- The uses of a structured instruction. -/
def nestUses (i : Instr) : List Use := match nestCond i with | some (o, _) => [Use.r o] | none => []

/-- A trap report as the word TRAPCAUSE (R163). -/
def causeWord (info acc code : Nat) : DWord := BitVec.ofNat 64 (info * 2 ^ 16 + acc * 2 ^ 8 + code)

/-- A gang takes a trap (R155): entry with the report given, no other gang touched, memory as it was. -/
def Traps (s t : State) (g : Nat) (G : Gang) (vec cause addr : DWord) (lanes retry : BitVec 32) (frag : BitVec 8) : Prop :=
  (∃ G', t.gangs[g]? = some G' ∧ G.Entered G' cause addr (retry ++ lanes) vec frag) ∧ OtherGangs s t g ∧ SameMemory s t

/-- The privileged instructions (R68, check 5), with the operand positions of each. -/
def privilegedUses : Instr → Option (List Use)
  | .eret => some []
  | .crd x => if x.idx.toNat ≤ 1 || (0x50 ≤ x.idx.toNat && x.idx.toNat ≤ 0x5F) then none else some [Use.w x.r]
  | .cwr x => some [Use.r x.r]
  | .pgmap x => some [Use.w x.x, Use.r x.y]
  | .pginv x => some [Use.r x.x, Use.r x.y]
  | .pgattr x => some [Use.w x.d, Use.r x.a, Use.r x.b]
  | .kvpop x => some [Use.w x.d]
  | .kvref x => some [Use.w x.d, Use.r x.a, Use.r x.b]
  | .lineclr x => some [Use.w x.x, Use.r x.y]
  | _ => none

/-- A half as the full word it stands for, with a table of the spec for its operation (R64, R65): D = d, A = d, B = s; the half that
narrows to BF16 writes d<31:16> as 0, so its C is the constant 0. -/
def halfTable (h : Half) : Option RegOp :=
  let x := halfArith h.args h.args.d h.args.s
  match h.op with
  | .iadd => intTable (.iadd x)
  | .isub => intTable (.isub x)
  | .imul => intTable (.imul x)
  | .imin => intTable (.imin x)
  | .imax => intTable (.imax x)
  | .and => intTable (.and x)
  | .or => intTable (.or x)
  | .xor => intTable (.xor x)
  | .shl => intTable (.shl x)
  | .shr => intTable (.shr x)
  | .sra => intTable (.sra x)
  | .mov => intTable (.mov (halfArith h.args h.args.s .zero))
  | .fadd => fpTable (.fadd x)
  | .fsub => fpTable (.fsub x)
  | .fmul => fpTable (.fmul x)
  | .fmin => fpTable (.fmin x)
  | .fmax => fpTable (.fmax x)
  | .hadd2 => packedTable (.hadd2 x)
  | .hmul2 => packedTable (.hmul2 x)
  | .hmax2 => packedTable (.hmax2 x)
  | .cvtBf16F32 => convertTable (.cvt ⟨h.args.d, h.args.s, .sp .zero, 2, 1, h.args.rnd, false, 0⟩)
  | .cvtF32Bf16 => convertTable (.cvt ⟨h.args.d, h.args.s, .zero, 1, 2, h.args.rnd, false, 0⟩)

/-- A command (R61, R140, R212) is accepted: for every state in which a gang issues it with operands that pass check 6, nothing
that holds an irrevocable operation back, room in its class, and checks at issue that give `plan`, the next state is the
machine with one operation of the class more, which has those elements and pages, and the fragment at PC + 8. -/
def Accepted (i : Instr) (us : List Use) (cls : Nat) (kind : Issuer → OpKind) (ok : Issuer → Bool)
    (plan : State → Gang → Group → Issuer → Option (List Elem × List (Nat × Leaf) × State)) : Prop :=
  ∀ (s : State) (g : Nat) (G : Gang) (gr : Group) (iss : Issuer) (es : List Elem) (ps : List (Nat × Leaf)) (u : State),
    s.issue = .gang g G gr iss → ok iss = true → Operable us iss G → Calm G → Free G cls → plan s G gr iss = some (es, ps, u) →
    ∃ t, exec i s = .next t ∧ Looked s u ∧ SameMemory s t
      ∧ Completes (u.issueOp g cls (kind iss) es ps false) t g (G.oneMore cls) iss.frag noV noS 0 next8

/-! ### Comparisons and shifts, bit by bit -/

/-- The number that a finite value stands for. -/
def ratOf (n : Bool) (m : Nat) (e : Int) : ℚ := (if n then -1 else 1) * m * (2 : ℚ) ^ e

/-- The order of R102 on floating-point values: both zeros are equal, a NaN is in no order. -/
def Less : FVal → FVal → Prop
  | .nan _, _ => False
  | _, .nan _ => False
  | .inf a, .inf b => a = true ∧ b = false
  | .inf a, .fin _ _ _ => a = true
  | .fin _ _ _, .inf b => b = false
  | .fin n m e, .fin k p d => ratOf n m e < ratOf k p d

/-- The conditions of R102 on floating-point values. -/
def FpCompares (cc : Nat) (a b : FVal) : Prop :=
  let un := a.isNan = true ∨ b.isNan = true
  let eq := ¬un ∧ ¬Less a b ∧ ¬Less b a
  match cc with
  | 0 => eq
  | 1 => ¬eq
  | 2 => Less a b
  | 3 => Less a b ∨ eq
  | 4 => Less b a
  | 5 => Less b a ∨ eq
  | 6 => un
  | _ => ¬un

/-- What R102 compares: destination, operand positions, and the condition in a lane and on the scalar pipe. -/
structure Comparison where
  d : Operand
  uses : List Use
  lane : Issuer → Nat → Prop
  scal : Issuer → Prop

/-- The comparing instructions (R102, R104, R110, R115). -/
def comparison : Instr → Option Comparison
  | .icmp x => some ⟨x.d, [Use.w x.d, Use.r x.a, Use.r x.b],
      fun i l => compares x.sub.toNat (i.rd x.a l) (i.rd x.b l) = true,
      fun i => compares x.sub.toNat (i.rds x.a) (i.rds x.b) = true⟩
  | .icmpi x => some ⟨x.d, [Use.w x.d, Use.r x.a],
      fun i l => compares x.sub.toNat (i.rd x.a l) x.imm = true,
      fun i => compares x.sub.toNat (i.rds x.a) (x.imm.signExtend 64) = true⟩
  | .fcmp x => some ⟨x.d, [Use.w x.d, Use.r x.a, Use.r x.b],
      fun i l => FpCompares x.sub.toNat (fpArg x fp32 i 2 (i.rd x.a l).toNat) (fpArg x fp32 i 1 (i.rd x.b l).toNat),
      fun i => FpCompares x.sub.toNat (fpArg x fp32 i 2 ((i.rds x.a).toNat % 2 ^ 32)) (fpArg x fp32 i 1 ((i.rds x.b).toNat % 2 ^ 32))⟩
  | .dcmp x => some ⟨x.d, [Use.w x.d, Use.q x.a, Use.q x.b],
      fun i l => FpCompares x.sub.toNat (fpArg x fp64 i 2 (i.rdq x.a l).toNat) (fpArg x fp64 i 1 (i.rdq x.b l).toNat),
      fun i => FpCompares x.sub.toNat (fpArg x fp64 i 2 (i.rds x.a).toNat) (fpArg x fp64 i 1 (i.rds x.b).toNat)⟩
  | _ => none

/-- Bit `k` of a word of `w` bits shifted by `n` (R101). -/
def shiftBit {w : Nat} (i : Instr) (a : BitVec w) (n k : Nat) : Bool :=
  match i with
  | .shl _ => decide (n ≤ k) && a.getLsbD (k - n)
  | .shr _ => decide (k + n < w) && a.getLsbD (k + n)
  | .sra _ => if k + n < w then a.getLsbD (k + n) else a.getLsbD (w - 1)
  | _ => if n ≤ k then a.getLsbD (k - n) else a.getLsbD (k + w - n)

/-- The operands of a shift or rotate that takes its count from b. -/
def shiftArgs : Instr → Option Arith
  | .shl x | .shr x | .sra x | .rol x => some x
  | _ => none

/-! ### REGANG -/

/-- The join of R26: the live slice with the lowest PC (of equal ones that of the lowest fragment) names the id, and every live
slice with that id goes on at its PC + 8, as one fragment. -/
def JoinsTo (a b : List Slice) : Prop :=
  ∃ (x : Slice) (low : Nat), x ∈ a ∧ x.live = true
    ∧ (∀ y ∈ a, y.live = true → x.pc.toNat < y.pc.toNat ∨ (x.pc = y.pc ∧ x.frag ≤ y.frag))
    ∧ (a.findIdx? fun sl => sl.live && sl.regang == x.regang) = some low
    ∧ ∀ k : Nat, b[k]? = (a[k]?).map fun (sl : Slice) =>
        if sl.live && sl.regang == x.regang then { sl with pc := x.pc + 8, stopped := false, frag := low, replay := none } else sl

/-- The slices after an instruction that left them as `a`: joined when every live one has stopped, else as they are (R26). -/
def Rejoins (a b : List Slice) : Prop :=
  ((∃ sl ∈ a, sl.live = true) ∧ (∀ sl ∈ a, sl.live = true → sl.stopped = true) → JoinsTo a b)
  ∧ ((∃ sl ∈ a, sl.live = true ∧ sl.stopped = false) → b = a)

/-- What ERET makes of slice `k` (R157, step 1). -/
structure Returned (G : Gang) (a : List Slice) : Prop where
  length : a.length = G.aside.length
  slice : ∀ (k : Nat) (A C : Slice), G.aside[k]? = some A → G.slices[k]? = some C → ∃ sl : Slice, a[k]? = some sl ∧
    sl.live = C.live ∧ sl.epc = C.epc ∧ sl.stopped = A.stopped ∧ sl.regang = A.regang
  frags : ∀ (j k : Nat) (A B C D : Slice) (x y : Slice), G.aside[j]? = some A → G.aside[k]? = some B → G.slices[j]? = some C →
    G.slices[k]? = some D → a[j]? = some x → a[k]? = some y → C.live = true → D.live = true →
    (x.frag = y.frag ↔ A.frag = B.frag ∧ C.epc = D.epc)

/-- Whether slice `k` stands at the instruction that trapped. -/
def AtTrap (G : Gang) (k : Nat) : Prop :=
  G.faultSlices.getLsbD k = true ∧ ∃ C : Slice, G.slices[k]? = some C ∧ C.live = true ∧ C.epc = G.trapaddr

/-- Whether lane `l` stands in LANES or in RETRY of TRAPMASK (R381). -/
def InTrapmask (G : Gang) (l : Nat) : Prop := l < 32 ∧ (G.trapmask.getLsbD l = true ∨ G.trapmask.getLsbD (l + 32) = true)

/-- Whether lane `l` had completed when a trap named the lanes of its fragment as a whole: a replay of its slice was pending
and it had no part in it (R157, R381). -/
def HadCompleted (G : Gang) (l : Nat) : Prop :=
  G.faultOnce = true ∧ ∃ (A : Slice) (m : BitVec 4), G.aside[l / 4]? = some A ∧ A.replay = some m ∧ m.getLsbD (l % 4) = false

/-- Whether lane `l` replays (R157, step 2). -/
def ReplaysLane (G : Gang) (l : Nat) : Prop :=
  AtTrap G (l / 4) ∧ InTrapmask G l ∧ stGet G.asideNest l = 0 ∧ ¬HadCompleted G l

/-- Whether the instruction that trapped replays at all: in some lane, or, for one that acts once, when its fragment has a lane
in TRAPMASK. -/
def Replays (G : Gang) : Prop :=
  if G.faultOnce then ∃ l, G.faultSlices.getLsbD (l / 4) = true ∧ InTrapmask G l else ∃ l, ReplaysLane G l

/-! ### Splits, barriers, waits -/

/-- The lowest slice with a property. -/
def LowestOf (P : Nat → Prop) (n : Nat) : Prop := P n ∧ ∀ j, j < n → ¬P j

/-- Whether slice `k` of a fragment takes a BRS (R133): with a scalar register the whole fragment or none of it, else a slice
with an active lane whose condition holds. -/
def TakesBrs (x : Branch) (i : Issuer) (k : Nat) : Prop :=
  i.frag.getLsbD k = true ∧
    match x.a with
    | .s _ => condition x.cond.toNat (i.rds x.a) = true
    | _ => ∃ l, l < 32 ∧ l / 4 = k ∧ i.active.getLsbD l = true ∧ condition x.cond.toNat (i.rd x.a l) = true

/-- A gang that is asked to issue and must wait (R46): nothing changes but that it is not asked again in this clk. -/
def Waits (s t : State) (g : Nat) : Prop := OnlyTo s t g fun G' => ∃ G : Gang, s.gangs[g]? = some G ∧ G' = { G with stalled := true }

/-- A gang holds more than one fragment (R145). -/
abbrev Divided (G : Gang) : Prop := ∃ a ∈ G.slices, ∃ b ∈ G.slices, a.live = true ∧ b.live = true ∧ a.frag ≠ b.frag

/-- A barrier after the arrival of gang `g` (R144): its next phase when every participant has arrived or ended. -/
def arrived (s : State) (who : List Nat) (g : Nat) (b : Barrier) : Barrier :=
  if who.all fun m => m == g || b.arrived.contains m || s.gangEnded m then ⟨b.phase + 1, []⟩ else ⟨b.phase, insNat b.arrived g⟩

/-- The barrier that a word names, and its participants (R144). -/
def barrierOf (s : State) (gr : Group) (x : Sync) : Option (Barrier × List Nat) :=
  if x.scope = 5 then (s.crews[gr.crew]?).bind fun c => (c.bars[x.id.toNat]?).map fun b => (b, s.crewGangs c)
  else (gr.bars[x.id.toNat]?).map fun b => (b, gr.members)

/-- From `s` to `t` gang `g` arrives at the barrier `b` of a word, and nothing changes but barriers, the gang, and the accounts. -/
structure Arrives (s t : State) (g : Nat) (G : Gang) (gr : Group) (x : Sync) (b : Barrier) (who : List Nat) : Prop where
  rest : t = { s with gangs := t.gangs, groups := t.groups, crews := t.crews, parts := t.parts, cores := t.cores, stamp := t.stamp }
  others : OtherGangs s t g
  bar : ∃ gr', t.groups[G.grp]? = some gr' ∧ (barrierOf t gr' x).map (·.1) = some (arrived s who g b)
  group : ∀ k, k ≠ G.grp → t.groups[k]? = s.groups[k]?

/-- The slices after some of them exited (R139). -/
def Exited (a : List Slice) (m : BitVec 8) (b : List Slice) : Prop :=
  ∀ k : Nat, b[k]? = (a[k]?).map fun sl => if m.getLsbD k then { sl with live := false, replay := none } else sl

/-- Gang `g` has exited the slices of `m` (R139): when it has others that live it goes on with them, else it has ended, and
with the last gang of a group the group. -/
structure Exits (s t : State) (g : Nat) (G : Gang) (gr : Group) (m : BitVec 8) : Prop where
  others : OtherGangs s t g
  memory : SameMemory s t
  goesOn : (∃ (k : Nat) (sl : Slice), G.slices[k]? = some sl ∧ sl.live = true ∧ m.getLsbD k = false) →
    ∃ (G' : Gang) (a : List Slice), t.gangs[g]? = some G' ∧ G.Still G' ∧ Exited G.slices m a ∧ Rejoins a G'.slices
  ends : (¬∃ (k : Nat) (sl : Slice), G.slices[k]? = some sl ∧ sl.live = true ∧ m.getLsbD k = false) →
    (∃ G', t.gangs[g]? = some G' ∧ G'.stand = .ended ∧ ∀ sl ∈ G'.slices, sl.live = false)
    ∧ ((s.part G.part).token = some g → s.partner g ≠ some g → (t.part G.part).token ≠ some g)
    ∧ ((∀ m ∈ gr.members, m ≠ g → s.gangEnded m = true) → ∃ gr', t.groups[G.grp]? = some gr' ∧ gr'.stand = .ended)

/-! ### Control registers -/

/-- The value that CRD reads (R85, R160 to R163). -/
def crValue (s : State) (g : Nat) (G : Gang) (gr : Group) (k : Nat) : Option DWord :=
  match k with
  | 0x000 => some (BitVec.ofNat 64 (gr.mode.toNat + 2 ^ 8 * G.flags.toNat))
  | 0x001 => some (BitVec.ofNat 64 ((if G.super then 1 else 0) + (if (s.part G.part).token = some g then 2 else 0)
      + (if G.crawl then 4 else 0) + 16 * (((G.slices.filter (·.live)).map (·.frag)).eraseDups.length - 1)))
  | 0x002 => some (s.ctx gr.ctx).trapvec
  | 0x003 => some G.trapcause
  | 0x004 => some G.trapaddr
  | 0x005 => some G.trapmask
  | 0x010 => some (s.ctx gr.ctx).kvbase
  | 0x011 => some (s.ctx gr.ctx).kvpool
  | 0x012 => some (s.ctx gr.ctx).framepool
  | 0x013 => some (s.ctx gr.ctx).rotbase
  | 0x014 => some (BitVec.ofNat 64 gr.promo)
  | 0x015 => some (s.ctx gr.ctx).errlog
  | k =>
    if 0x008 ≤ k ∧ k ≤ 0x00F then (G.slices[k - 0x008]?).map (·.epc)
    else if 0x020 ≤ k ∧ k ≤ 0x03F then some (stGet (s.ctx gr.ctx).ncwin (k - 0x020))
    else if 0x040 ≤ k ∧ k ≤ 0x04F then some (stGet (s.core G.core).evsel (k - 0x040))
    else if 0x050 ≤ k ∧ k ≤ 0x05F then some (stGet (s.core G.core).evcnt (k - 0x050))
    else none

/-- The machine and the gang after CWR has written a legal value (R85, R160, R161, R378). -/
def crEffect (s : State) (G : Gang) (gr : Group) (k : Nat) (v : DWord) : Option (State × Gang) :=
  let ctx (f : Context → Context) : State := s.updCtx gr.ctx f
  let c := s.core G.core
  match k with
  | 0x000 => some (s.updGroup G.grp fun gr => { gr with mode := BitVec.ofNat 5 v.toNat }, { G with flags := BitVec.ofNat 5 (v.toNat / 2 ^ 8) })
  | 0x002 => some (ctx fun c => { c with trapvec := v }, G)
  | 0x003 => some (s, { G with trapcause := v })
  | 0x004 => some (s, { G with trapaddr := v })
  | 0x005 => some (s, { G with trapmask := v })
  | 0x010 => some (ctx fun c => { c with kvbase := v }, G)
  | 0x011 => some (ctx fun c => { c with kvpool := v }, G)
  | 0x012 => some (ctx fun c => { c with framepool := v }, G)
  | 0x013 => some (ctx fun c => { c with rotbase := v }, G)
  | 0x014 => some (s.updGroup G.grp fun gr => { gr with promo := v.toNat }, G)
  | 0x015 => some (ctx fun c => { c with errlog := v }, G)
  | k =>
    if 0x008 ≤ k ∧ k ≤ 0x00F then some (s, { G with slices := G.slices.modify (k - 0x008) fun sl => { sl with epc := v } })
    else if 0x020 ≤ k ∧ k ≤ 0x03F then some (ctx fun c => { c with ncwin := stSet c.ncwin (k - 0x020) v }, G)
    else if 0x040 ≤ k ∧ k ≤ 0x04F then
      some (s.setCore G.core { c with evsel := stSet c.evsel (k - 0x040) v, evctx := tabSet c.evctx (k - 0x040) gr.ctx }, G)
    else if 0x050 ≤ k ∧ k ≤ 0x05F then some (s.setCore G.core { c with evcnt := stSet c.evcnt (k - 0x050) v }, G)
    else none

/-- The values that CWR accepts (R85, R161, R163, R178, R246, R277, R289, R369, R378): no reserved bit, no invalid value. -/
def CrLegal (k : Nat) (v : DWord) : Prop :=
  let bits (hi lo : Nat) : Nat := v.toNat / 2 ^ lo % 2 ^ (hi + 1 - lo)
  match k with
  | 0x000 => v.toNat < 2 ^ 13 ∧ bits 7 5 = 0 ∧ bits 2 0 ≤ 4
  | 0x003 => v.toNat < 2 ^ 32
  | 0x010 | 0x011 | 0x013 => v.toNat < 2 ^ 57 ∧ bits 4 0 = 0
  | 0x012 => v.toNat < 2 ^ 52 ∧ bits 5 1 = 0
  | 0x014 => 1 ≤ v.toNat ∧ v.toNat ≤ 64
  | 0x015 => v.toNat < 2 ^ 52 ∧ bits 11 4 = 0
  | k =>
    if 0x020 ≤ k ∧ k ≤ 0x03F then v.toNat < 2 ^ 57 ∧ bits 15 1 = 0 ∧ (k % 2 = 1 → bits 0 0 = 0)
    else if 0x040 ≤ k ∧ k ≤ 0x04F then
      v.toNat < 2 ^ 12 ∧ (bits 7 0 ≤ 0x03 ∨ (0x10 ≤ bits 7 0 ∧ bits 7 0 ≤ 0x17) ∨ (0x20 ≤ bits 7 0 ∧ bits 7 0 ≤ 0x23))
    else True

/-! ### Memory accesses -/

/-- The accesses of a memory word all pass the checks of R225: `ok` holds the translation of each lane, `u` is the machine that
has looked them up. -/
def Granted (s u : State) (x : MemArgs) (G : Gang) (gr : Group) (i : Issuer) (write coherent : Bool) (ok : List (Nat × Xlat)) : Prop :=
  (xtEmpty x G gr = false ∨ accesses x i G gr x.d.isS = [])
  ∧ ∃ r, s.checkLanes ⟨G.part, gr.ctx, G.grp, write, coherent⟩ (accessXt x G gr) (accessBytes x.w) (accesses x i G gr x.d.isS) = (r, u)
      ∧ failsOf r = [] ∧ passed r = ok

/-- An access to the memory of the device that is no tile, not discarded and in no window. -/
abbrev Plain (s : State) (x : Xlat) : Prop :=
  x.window = false ∧ x.leaf.mapped = false ∧ leafDiscard s.mem x.leaf = false ∧ x.leaf.tier ≠ 2 ∧ isFar x.pa = false

/-- The value that a load gives register `n` of lane `l` (R224): a narrow value extended, a wide one in consecutive
registers, its low word first. -/
def loadedV (x : MemArgs) (vals : List (Nat × Nat)) (n l : Nat) : Option Word :=
  match x.d with
  | .v k => ((vals.find? fun e => e.1 == l).map (·.2)).bind fun (v : Nat) =>
      let w := accessBytes x.w
      if w ≤ 4 then
        if n = k.val then
          some (if x.hintx.getLsbD 0 && decide (2 ^ (8 * w - 1) ≤ v) then BitVec.ofInt 32 ((v : Int) - 2 ^ (8 * w)) else BitVec.ofNat 32 v)
        else none
      else if k.val ≤ n ∧ n < k.val + w / 4 then some (BitVec.ofNat 32 (v / 2 ^ (32 * (n - k.val)))) else none
  | _ => none

/-- The value that a load gives scalar `n` (R224). -/
def loadedS (x : MemArgs) (vals : List (Nat × Nat)) (n : Nat) : Option DWord :=
  match x.d with
  | .s k => if n = k.val then (vals.head?.map (·.2)).map fun (v : Nat) =>
      let w := accessBytes x.w
      if x.hintx.getLsbD 0 && decide (2 ^ (8 * w - 1) ≤ v) then BitVec.ofInt 64 ((v : Int) - 2 ^ (8 * w)) else BitVec.ofNat 64 v
    else none
  | _ => none

/-- The value that a list of register writes leaves in register `n` of lane `l`, and in scalar `n`: the last one counts. -/
def lastV (vw : List (Nat × Word)) (n l : Nat) : Option Word := (vw.reverse.find? fun e => e.1 == 32 * n + l).map (·.2)
def lastS (sw : List (Nat × DWord)) (n : Nat) : Option DWord := (sw.reverse.find? fun e => e.1 == n).map (·.2)

/-- The byte that a list of byte writes leaves at an address. -/
def lastByte (bs : List (Nat × Byte)) (a : Nat) : Option Byte := (bs.reverse.find? fun e => e.1 == a).map (·.2)

/-- A gang after write events of others: unchanged, or its open tail marked to shed (R213). -/
def Marked (G G' : Gang) : Prop :=
  G' = G ∨ ∃ tl : Tail, G.tail = some tl ∧ G' = { G with tail := some { tl with conflict := true } }

/-- From `s` to `u` memory has been accessed and written: bytes, poison, owners and replaced words may differ, tails that read a
written word are marked, the caches, what goes out over the link and the log's records may change; nothing else does. -/
structure Wrote (s u : State) : Prop where
  rest : u = { s with mem := u.mem, poison := u.poison, owner := u.owner, codeOld := u.codeOld, stamp := u.stamp, gangs := u.gangs,
                      tlb := u.tlb, cores := u.cores, slices := u.slices, free := u.free, l1 := u.l1, l2 := u.l2, l1win := u.l1win,
                      l2win := u.l2win, farOut := u.farOut, farPend := u.farPend, irqs := u.irqs, logq := u.logq, blocked := u.blocked }
  gangs : ∀ k : Nat, (s.gangs[k]? = none ∧ u.gangs[k]? = none) ∨ ∃ G G', s.gangs[k]? = some G ∧ u.gangs[k]? = some G' ∧ Marked G G'
  counters : ∀ c, (u.core c).offline = (s.core c).offline ∧ (u.core c).evsel = (s.core c).evsel ∧ (u.core c).evctx = (s.core c).evctx
  selectors : ∀ i, (u.slice i).sel = (s.slice i).sel

/-- What a store to one page can touch (R185, R229): its bytes; on a tile page the tiles that it touches, with their headers; on a
discarded page the whole frame, its headers, and the byte of its entry that holds DISCARD. -/
def Touched (s : State) (l : Leaf) (bs : List (Nat × Byte)) (a : Nat) : Prop :=
  (∃ b ∈ bs, a = b.1)
  ∨ (l.mapped = true ∧ ∃ b ∈ bs, let t := tileOf l (b.1 / 256 * 256); (t.pa ≤ a ∧ a < t.pa + 256) ∨ (t.hpa ≤ a ∧ a < t.hpa + 32))
  ∨ (bs ≠ [] ∧ leafDiscard s.mem l = true ∧ ((l.frame ≤ a ∧ a < l.frame + l.size) ∨ a = l.pte + 1
      ∨ (l.mapped = true ∧ l.hframe ≤ a ∧ a < l.hframe + 32 * (l.size / 256))))

/-- A tile whose payload, header and page-table entry lie apart. -/
abbrev Apart (t : Tile) : Prop :=
  (t.pa + 256 ≤ t.hpa ∨ t.hpa + 32 ≤ t.pa) ∧ (t.leaf.pte + 8 ≤ t.pa ∨ t.pa + 256 ≤ t.leaf.pte)
  ∧ (t.leaf.pte + 8 ≤ t.hpa ∨ t.hpa + 32 ≤ t.leaf.pte)

/-! ### Commands -/

/-- The map commands (R268, R270 to R273): operands, their positions, what fails at issue, whether they write ahead of the
mapping, and the edit. -/
def mapCommand : Instr → Option (MapArgs × List Use × (Issuer → Bool) × Bool × (Issuer → MapCmd))
  | .mscl x => some (x, [Use.r x.d, Use.r x.a, Use.r x.b], fun _ => false, false,
      fun i => .edit ((i.rds x.b).setWidth 32) 0 0xFF800000 0x7F800000 0 0)
  | .mofs x => some (x, [Use.r x.d, Use.r x.a, Use.r x.b], fun _ => false, false,
      fun i => .edit 0x3F800000 ((i.rds x.b).setWidth 32) 0xFF800000 0x7F800000 0 0)
  | .mclp x => some (x, [Use.r x.d, Use.r x.a, Use.r x.b, Use.r x.c],
      fun i => isNan32 ((i.rds x.b).toNat % 2 ^ 32) || isNan32 ((i.rds x.c).toNat % 2 ^ 32)
        || lt32 ((i.rds x.c).toNat % 2 ^ 32) ((i.rds x.b).toNat % 2 ^ 32), false,
      fun i => .edit 0x3F800000 0 ((i.rds x.b).setWidth 32) ((i.rds x.c).setWidth 32) 0 0)
  | .mfil x => some (x, [Use.r x.d, Use.r x.a, Use.r x.b], fun _ => false, false,
      fun i => .edit 0 ((i.rds x.b).setWidth 32) 0xFF800000 0x7F800000 0 0)
  | .mprm x => some (x, [Use.r x.d, Use.r x.a, Use.r x.b], fun i => decide (2 ^ 12 ≤ (i.rds x.b).toNat), false,
      fun i => .edit 0x3F800000 0 0xFF800000 0x7F800000 ((i.rds x.b).toNat % 16) ((i.rds x.b).toNat / 16 % 256))
  | .mmat x => some (x, [Use.r x.d, Use.r x.a], fun _ => false, false, fun _ => .mat)
  | .mdrop x => some (x, [Use.r x.d, Use.r x.a], fun _ => false, false, fun _ => .drop)
  | .mset x => some (x, [Use.r x.d, Use.r x.a, ⟨x.b, false, 1, 1, 4, 4⟩], fun i => setBad (setImage i x.b).toNat, x.sub == 1,
      fun i => .set (setImage i x.b) (x.sub == 1))
  | _ => none

/-- The elements of a map command over `n` bytes from `d` (R268): one for each tile, and one for each word of a header that MSET
writes ahead of the mapping (R272); the checks of R269 on its pages. -/
def mapPlan (x : MapArgs) (bad : Issuer → Bool) (pre : Bool) (s : State) (G : Gang) (gr : Group) (i : Issuer) :
    Option (List Elem × List (Nat × Leaf) × State) :=
  let d := (i.rds x.d).toNat
  let n := (i.rds x.a).toNat % 2 ^ 32
  if bad i = true ∨ d % 256 ≠ 0 ∨ n % 256 ≠ 0 then none
  else match s.walkUnits ⟨G.part, gr.ctx, G.grp, true, true⟩ (unitsOf d n) with
    | (.ok us, u) =>
      if us.all fun e => (u.ctx gr.ctx).mapPage pre e.1 e.2 then
        some ((List.range (n / 256)).flatMap fun k =>
            if pre then (List.range 8).map fun j => Elem.tile (d + 256 * k + 4 * j) else [Elem.tile (d + 256 * k)],
          (us.map fun e => (e.1 / e.2.size * e.2.size, e.2)).eraseDups, u)
      else none
    | _ => none

/-- The kv commands that write nothing at issue (R281): their operand positions and what they check and read. -/
def kvCommands : Instr → Option (List Use × (State → KvAsk → Context → KRes (List Elem × List (Nat × Leaf))))
  | .kvfork x => some ([Use.r x.d, Use.r x.a], fun s q c => s.kvForkPlan x q c)
  | .kvdrop x => some ([Use.r x.d], fun s q c => s.kvDropPlan x q c)
  | .kvevict x => some ([Use.r x.d, Use.r x.a], fun s q c => s.kvEvictPlan x q c)
  | .kvsetpos x => some ([Use.r x.d, Use.r x.a, Use.r x.b], fun s q c => s.kvSetposPlan x q c)
  | _ => none

/-- A bank command as it stands at the bank level right after issue (R196, R331). -/
def freshCmd (s : State) (G : Gang) (gr : Group) (counter : Nat) (work : BankWork) (src dst : List (Nat × Nat))
    (ps : List (Nat × Leaf)) (shares : List (Nat × List BankPiece)) : BankCmd where
  id := s.nextOp
  grp := G.grp
  ctx := gr.ctx
  prio := match s.nodes[gr.node]? with | some n => n.lr.prio | none => 0
  epoch := tabGet s.epochs 0 G.grp
  counter := counter
  work := work
  regions := (src.map fun r => (r.1, r.2, false)) ++ dst.map fun r => (r.1, r.2, true)
  pages := ps
  range := s.heldLines gr.ctx ps (src ++ dst)
  bad := []
  shares := shares
  held := false
  started := false

/-- The machine with a bank command more, counted in class bk (R140). -/
def State.withCmd (s : State) (g : Nat) (c : BankCmd) : State := { s.issueOp g 4 .bank [] c.pages true with cmds := s.cmds ++ [c] }

/-- The tile commands of BKT with their CMD codes (R324). -/
def bktCode : Instr → Option (Nat × Ops3)
  | .bktZero x => some (0, x)
  | .bktFill x => some (1, x)
  | .bktCopy x => some (2, x)
  | .bktAdd x => some (3, x)
  | .bktMul x => some (4, x)
  | .bktAxpy x => some (5, x)
  | .bktScale x => some (6, x)
  | .bktCvt x => some (7, x)
  | .bktDot x => some (8, x)
  | .bktIdot x => some (9, x)
  | _ => none

/-- The register-only words that a bank core accepts (R71), by the tables of the cores. -/
def bankTable (i : Instr) : Option RegOp :=
  match i with
  | .iadd64 _ | .isub64 _ | .imul64 _ => none
  | .fadd _ | .fsub _ | .fmul _ | .ffma _ | .fmin _ | .fmax _ => fpTable i
  | .hadd2 _ | .hmul2 _ | .hfma2 _ | .hmax2 _ | .hmin2 _ => packedTable i
  | .cvt x => if wideCode x.df.toNat || wideCode x.sf.toNat then none else convertTable i
  | i => intTable i

/-- From `s` to `t` only the kernel of bank core `b` changes, from `k` to one with a property. -/
def OnlyKernel (s t : State) (b : Nat) (P : Kernel → Prop) : Prop :=
  t = { s with items := t.items } ∧ t.items.length = s.items.length ∧ ∃ n, s.running b = some n ∧ t.running b = some n
    ∧ (∀ j, j ≠ n → t.items[j]? = s.items[j]?) ∧ ∃ k', t.kernel b = some k' ∧ P k'

/-! ### Matrix units -/

/-- The unit of partition `p` has stepped (R287, R288): accumulator `k` holds `a`, its queue is `q`; the other accumulator stays, or
is free because the gang that owned it has ended. Nothing changes but the unit, the completion record and the accounts. -/
structure UnitSteps (s t : State) (p k : Nat) (a : Acc) (q : List MatOp) : Prop where
  rest : t = { s with parts := t.parts, ops := t.ops, cores := t.cores, gangs := t.gangs, mem := t.mem, poison := t.poison,
                      owner := t.owner, codeOld := t.codeOld, stamp := t.stamp, l1 := t.l1, l2 := t.l2, slices := t.slices }
  acc : t.acc p k = a
  other : ∀ j, j ≠ k → t.acc p j = s.acc p j ∨ (t.acc p j = Acc.zero ∧ ∃ h, (s.acc p j).owner = some h ∧ s.gangEnded h = true)
  queue : (t.part p).mq = q
  token : (t.part p).token = (s.part p).token
  units : ∀ r, r ≠ p → t.part r = s.part r
  counters : ∀ c, (t.core c).offline = (s.core c).offline ∧ (t.core c).evsel = (s.core c).evsel ∧ (t.core c).evctx = (s.core c).evctx

/-! ### Steps of the device -/

/-- From `s` to `t` element `el` of operation `id` has performed: it is gone, memory has been written, and nothing else has
changed. -/
def Performs (s t : State) (id el : Nat) : Prop :=
  (t.ops = s.ops.map fun o => if o.id = id then { o with elems := o.elems.eraseIdx el } else o)
  ∧ ∃ u, Wrote s u ∧ t = { u with ops := t.ops }

/-- In `t` the `n` bytes from an address hold a number, and every other byte is that of `s`. -/
def HoldsNumber (s t : State) (a n x : Nat) : Prop :=
  memNat t.mem a n = x % 2 ^ (8 * n) ∧ ∀ j, j < a ∨ a + n ≤ j → stGet (w := 8) t.mem j = stGet (w := 8) s.mem j

/-- No word of `n` bytes is poisoned. -/
def Clean (s : State) (a n : Nat) : Prop := ∀ k, k < n → s.isPoisoned ((a + k) / 4) = false

/-- A translation that a far element may use (R236): its own, or the one of the walk at the cluster stage. -/
def Resolved (s : State) (o : AsyncOp) (va : Nat) (x : Option Xlat) (y : Xlat) : Prop :=
  x = some y ∨ (x = none ∧ s.farWalk o va = (.ok y, s))

/-- A tile that an edit finds in order (R257): not discarded, its header neither poisoned nor malformed. -/
abbrev TileSound (s : State) (t : Tile) : Prop :=
  leafDiscard s.mem t.leaf = false ∧ s.hdrPoisoned t = false ∧ hdrMalformed (s.tileHdr t) = false

/-- In `t` a tile holds a payload and a header, and every other byte is that of `s`. -/
def HoldsTile (s t : State) (l : Tile) (bs : List Byte) (h : Hdr) : Prop :=
  memNat t.mem l.hpa 32 = h.toNat % 2 ^ 256 ∧ (∀ j, j < 256 → stGet (w := 8) t.mem (l.pa + j) = (bs[j]?).getD 0)
  ∧ ∀ j, (j < l.pa ∨ l.pa + 256 ≤ j) → (j < l.hpa ∨ l.hpa + 32 ≤ j) → stGet (w := 8) t.mem j = stGet (w := 8) s.mem j

/-- The value that a shed gives back to register `n` of lane `l`, and to scalar `n` (R206, R214): that of its first entry in the
undo log. -/
def undoneV (log : List UndoEntry) (n l : Nat) : Option Word :=
  (log.findSome? fun e => if e.reg = .v n then e.old[l]? else none).map (·.setWidth 32)
def undoneS (log : List UndoEntry) (n : Nat) : Option DWord :=
  log.findSome? fun e => if e.reg = .s n then e.old.getLast? else none

/-- The units of a wait after one is resolved (R363). -/
def resolveUnit (w : FaultWait) (unit : Nat) : FaultWait :=
  { w with units := w.units.map fun u => if u.1 = unit ∧ u.2.2 = 0 then (u.1, u.2.1, 1) else u }

/-- The fields of a context record (R353). -/
structure LoadedFrom (m : Memory) (pa : Nat) (c : Context) : Prop where
  root : c.root = memNat m pa 8
  trapvec : c.trapvec = BitVec.ofNat 64 (memNat m (pa + 0x08) 8)
  kvbase : c.kvbase = BitVec.ofNat 64 (memNat m (pa + 0x10) 8)
  kvpool : c.kvpool = BitVec.ofNat 64 (memNat m (pa + 0x18) 8)
  framepool : c.framepool = BitVec.ofNat 64 (memNat m (pa + 0x20) 8)
  rotbase : c.rotbase = BitVec.ofNat 64 (memNat m (pa + 0x28) 8)
  errlog : c.errlog = BitVec.ofNat 64 (memNat m (pa + 0x30) 8)
  faultq : c.faultq = memNat m (pa + 0x38) 8
  yardbase : c.yardbase = memNat m (pa + 0x40) 8
  yardsize : c.yardsize = memNat m (pa + 0x48) 8
  bksave : c.bksave = memNat m (pa + 0x50) 8
  windows : ∀ k, k < 32 → stGet c.ncwin k = BitVec.ofNat 64 (memNat m (pa + 0x80 + 8 * k) 8)

/-- The record that an edge names, and the bits of its first word (R354): RELAY and SEL. -/
def edgeTo (e : List Byte) : Nat := leNat (e.take 8) / 2 ^ 8 % 2 ^ 49 * 2 ^ 8
def edgeRelay (e : List Byte) : Bool := leNat (e.take 8) / 2 % 2 = 1
def edgeSel (e : List Byte) : Bool := leNat (e.take 8) % 2 = 1

/-- Whether an edge's condition holds for the STATUS and the result word of its node (R355). -/
def edgeHolds (status word : Nat) (e : List Byte) : Bool :=
  (if edgeSel e then status else word) &&& leNat ((e.drop 8).take 4) = leNat ((e.drop 12).take 4)

/-- The virtual address of an edge's join word (R354); 0 where it has none. -/
def edgeJoin (e : List Byte) : Nat := leNat ((e.drop 16).take 8)

/-- The successor list at `next` can be read and is in order (R354): its header is `h`, its edges are `es`. -/
def ListReads (u : State) (ctx next h : Nat) (es : List (List Byte)) : Prop :=
  next ≠ 0 ∧ next % 64 = 0 ∧ h < 2 ^ 9 ∧ h % 2 ^ 8 ≤ 64
  ∧ ∃ hd body, u.devRead ctx next 16 = (.ok hd, u) ∧ leNat hd = h ∧ u.devRead ctx (next + 16) (32 * (h % 2 ^ 8)) = (.ok body, u)
    ∧ es = (List.range (h % 2 ^ 8)).map (fun k => (body.drop (32 * k)).take 32)
    ∧ ∀ e ∈ es, leNat (e.take 8) / 2 ^ 57 = 0 ∧ leNat (e.take 8) / 2 ^ 2 % 2 ^ 6 = 0 ∧ leNat (e.drop 24) = 0

/-- A context's submissions, each with what made it ready. -/
def readied (c : Context) : List (Nat × SubSrc) := c.queue.map fun q => (q.addr, q.src)

/-- The yard of a completing node goes to a target, if it has one (R360). -/
def yardTo (n : Node) (tgt : Option Nat) : List (Nat × Nat × List YardEntry) :=
  match tgt with
  | some a => if n.reserved then [(a, 32 * n.lr.yard, n.yard)] else []
  | none => []

/-- From `s` to `t` only one context's queue and waiting yards change, and interrupts are sent. -/
def OnlyGraph (s t : State) (c : Nat) : Prop :=
  t = { s with ctxs := t.ctxs, irqs := t.irqs, stamp := t.stamp } ∧ (∀ k, k ≠ c → t.ctx k = s.ctx k)
  ∧ t.ctx c = { s.ctx c with queue := (t.ctx c).queue, waitYards := (t.ctx c).waitYards }

/-- From `s` to `t` only the block of context `c` changes. -/
def OnlyCtx (s t : State) (c : Nat) : Prop := t = { s with ctxs := t.ctxs } ∧ ∀ k, k ≠ c → t.ctx k = s.ctx k

/-- From `s` to `t` only the state of partition `p` changes. -/
def OnlyPart (s t : State) (p : Nat) : Prop := t = { s with parts := t.parts } ∧ ∀ k, k ≠ p → t.part k = s.part k

/-! ### What check 6 of R68 looks at -/

/-- The register-only instructions by their tables. -/
def regTable (i : Instr) : Option RegOp :=
  match intTable i with
  | some o => some o
  | none => match fpTable i with
    | some o => some o
    | none => match packedTable i with
      | some o => some o
      | none => match crossTable i with
        | some o => some o
        | none => convertTable i

/-- The operand positions of control and waiting instructions (R131 to R135, R142, R146 to R152, R161). -/
def controlUses : Instr → Option (List Use)
  | .brc x | .brs x | .jmpi x | .ret x | .ifOp x | .brk x => some [Use.r x.a]
  | .call x => some (Use.w x.d :: if x.cond = 0 then [] else [Use.r x.a])
  | .waitge x => some [Use.w x.d, Use.r x.a, Use.r x.b]
  | .qpush x => some [Use.r x.d]
  | .qpop x => some [Use.w x.d]
  | .sleep x | .launch x | .postr x => some [Use.r x.a]
  | .ydep x => some [Use.r x.x, ⟨x.y, false, 4, 1, 1, 1⟩]
  | .crd x => if x.idx.toNat ≤ 1 || (0x50 ≤ x.idx.toNat && x.idx.toNat ≤ 0x5F) then some [Use.w x.r] else none
  | _ => none

/-- The operand positions of memory instructions and commands (R223, R228, R231 to R237, R241, R274, R303 to R318, R323, R344). -/
def memoryUses : Instr → Option (List Use)
  | .ld x | .atom x => some (dataUse x.d x.w true :: addrUses x)
  | .st x | .red x => some (dataUse x.d x.w false :: addrUses x)
  | .cas x => some (casUse x :: addrUses x)
  | .smrg x => some (smrgUse x :: (addrUses x).drop 1)
  | .pref x => some (addrUses x)
  | .cpy x => some ([Use.r x.d, Use.r x.a, Use.r x.b] ++ if x.form = 0 then [] else [Use.r x.c])
  | .cpym x => some [Use.r x.d, Use.r x.a]
  | .clean x | .inval x => some [Use.r x.a, Use.r x.b]
  | .mget x => some [⟨x.x, true, 1, 1, 4, 4⟩, Use.r x.y]
  | .xlate x => some [Use.r x.a]
  | .kvapp x => some [Use.r x.d, Use.r x.a, Use.r x.b]
  | .kvldk x | .kvldv x =>
    some ([if x.sub = 0 then Use.w x.d else Use.wq x.d, Use.r x.a, Use.r x.b] ++ if x.fl then [Use.w x.c] else [])
  | .bkl x => some [Use.r x.d, Use.r x.a, Use.r x.b]
  | .bkir x => some [Use.r x.d, Use.r x.a]
  | .accst x => some [Use.r x.d]
  | .accrd x => some [⟨x.d, true, 32, 1, 1, 1⟩]
  | .accwr x => some [⟨x.a, false, 32, 1, 1, 1⟩]
  | i => match mapCommand i with
    | some (_, us, _) => some us
    | none => match kvCommands i with
      | some (us, _) => some us
      | none => (bktCode i).map fun e => [Use.r e.2.d, Use.r e.2.a, Use.r e.2.b]

/-- The operand positions of every other instruction that is not privileged; MMA and MMAS where their slots are legal (R304). -/
def positions (iss : Issuer) : Instr → Option (List Use)
  | .mma x => if mmaCheck x iss = none then some [Use.r x.d, Use.r x.a] else none
  | .mmas x => if mmasCheck x iss = none then some [Use.r x.d, Use.r x.a] else none
  | i => match controlUses i with
    | some us => some us
    | none => memoryUses i

/-! ### Pools, page tables and window lines -/

/-- Outside the memory of a context's error log (R369): its head and its records. -/
def OutsideLog (s : State) (ctx a : Nat) : Prop :=
  let r := (s.ctx ctx).errlog.toNat
  let base := r / 2 ^ 12 % 2 ^ 40 * 2 ^ 12
  a < base ∨ base + 64 + 32 * 2 ^ (6 + r / 2 % 8) ≤ a

/-- A malformed entry at `pte` has its record of KIND 0x0A in the log of a context (R173, R369), if that log is on and can be written. -/
def LogsWalk (s t : State) (ctx pte : Nat) : Prop :=
  let base := (s.ctx ctx).errlog.toNat / 2 ^ 12 % 2 ^ 40 * 2 ^ 12
  let head := memNat s.mem base 8
  let rec_ := base + 64 + 32 * (head % 2 ^ (6 + (s.ctx ctx).errlog.toNat / 2 % 8))
  s.logq = [] → (s.ctx ctx).errlog.getLsbD 0 = true → s.held base 8 = false → s.held rec_ 32 = false →
    memNat t.mem rec_ 1 = Cause.pagefault.code ∧ memNat t.mem (rec_ + 1) 1 = 0x0A ∧ memNat t.mem (rec_ + 8) 8 = pte % 2 ^ 64
    ∧ memNat t.mem base 8 = (head + 1) % 2 ^ 64

/-- Every byte of memory outside the error log reads as before. -/
def SameOutsideLog (s t : State) (ctx : Nat) : Prop := ∀ a, OutsideLog s ctx a → stGet (w := 8) t.mem a = stGet (w := 8) s.mem a

/-- Every byte outside some ranges reads as before. -/
def SameOutside (s t : State) (rs : List (Nat × Nat)) : Prop :=
  ∀ a, (∀ r ∈ rs, a < r.1 ∨ r.1 + r.2 ≤ a) → stGet (w := 8) t.mem a = stGet (w := 8) s.mem a

/-- Ranges that do not overlap. -/
def Disjoint (rs : List (Nat × Nat)) : Prop := rs.Pairwise fun p q => p.1 + p.2 ≤ q.1 ∨ q.1 + q.2 ≤ p.1

/-- Words on pages that are not discarded, whose page-table entries lie outside some ranges. -/
def OnLivePages (s : State) (xs : List Xlat) (rs : List (Nat × Nat)) : Prop :=
  ∀ x ∈ xs, leafDiscard s.mem x.leaf = false ∧ ∀ r ∈ rs, x.leaf.pte + 8 ≤ r.1 ∨ r.1 + r.2 ≤ x.leaf.pte

/-- The number that `n` bytes of a page hold: 0 where the page is discarded (R185). -/
def pageNat (s : State) (x : Xlat) (o n : Nat) : Nat := if leafDiscard s.mem x.leaf then 0 else memNat s.mem (x.pa + o) n

/-- The `n` bytes at an address that KVPOP or KVREF finds in order (R283, R320): they pass the checks of R225, aligned to `al`, on a
page that is not mapped; no bank command holds them and none is poisoned. `u` is the machine that has looked them up. -/
def PoolWord (s u : State) (c : Accessor) (va al n : Nat) (write : Bool) (x : Xlat) : Prop :=
  s.checkAccess { c with write := write, coherent := true } none va al = (.ok x, u) ∧ x.leaf.mapped = false ∧ u.held x.pa n = false
  ∧ (leafDiscard u.mem x.leaf = false → ∀ k, k < n / 4 → u.isPoisoned ((x.pa + 4 * k) / 4) = false)

/-- The `n` bytes that it does not find so: a failing check, a mapped page, a poisoned word. -/
def PoolBad (s : State) (c : Accessor) (va al n : Nat) (write : Bool) : Prop :=
  (∃ f u, s.checkAccess { c with write := write, coherent := true } none va al = (.error f, u))
  ∨ ∃ x u, s.checkAccess { c with write := write, coherent := true } none va al = (.ok x, u)
      ∧ (x.leaf.mapped = true ∨ (u.held x.pa n = false ∧ leafDiscard u.mem x.leaf = false
          ∧ ∃ k, k < n / 4 ∧ u.isPoisoned ((x.pa + 4 * k) / 4) = true))

/-- What KVPOP takes (R280, R283): the pool's word `p` with `count` ids, the last id of its array, and that page's descriptor `d` at
`y`. -/
def Pops (s : State) (c : Accessor) (kb pool : Nat) (p y : Xlat) (count id : Nat) (d : Desc) : Prop :=
  ∃ u v z w, PoolWord s u c pool 16 16 true p ∧ count = pageNat u p 0 4 ∧ 0 < count ∧ count ≤ pageNat u p 4 4
    ∧ PoolWord u v c (pageNat u p 8 8 + 4 * (count - 1)) 4 4 false w ∧ id = pageNat v w 0 4 ∧ id ≠ 0xFFFFFFFF
    ∧ PoolWord v z c (kb + 32 * id) 32 32 true y ∧ d = Desc.ofNat (pageNat z y 0 32) ∧ d.malformed = false

/-- KVPOP fails (R283, R320): a word that is not in order, an empty pool, COUNT above CAP, the id 0xFFFF_FFFF, a malformed descriptor. -/
def PopFails (s : State) (c : Accessor) (kb pool : Nat) : Prop :=
  PoolBad s c pool 16 16 true
  ∨ ∃ p u, PoolWord s u c pool 16 16 true p ∧
      let count := pageNat u p 0 4
      let slot := pageNat u p 8 8 + 4 * (count - 1)
      count = 0 ∨ pageNat u p 4 4 < count ∨ PoolBad u c slot 4 4 false
      ∨ ∃ w v, PoolWord u v c slot 4 4 false w ∧
          (pageNat v w 0 4 = 0xFFFFFFFF ∨ PoolBad v c (kb + 32 * pageNat v w 0 4) 32 32 true
            ∨ ∃ y z, PoolWord v z c (kb + 32 * pageNat v w 0 4) 32 32 true y ∧ (Desc.ofNat (pageNat z y 0 32)).malformed = true)

/-- The descriptor that KVREF changes (R283, R320); `z` is the machine that has looked it up. -/
def Refs (s z : State) (c : Accessor) (kb id : Nat) (y : Xlat) (d : Desc) : Prop :=
  id ≠ 0xFFFFFFFF ∧ PoolWord s z c (kb + 32 * id) 32 32 true y ∧ d = Desc.ofNat (pageNat z y 0 32) ∧ d.malformed = false

/-- KVREF by `delta` fails (R283, R320): a word that is not in order, a malformed descriptor, a count outside 0 to 65535. -/
def RefFails (s : State) (c : Accessor) (kb pool id : Nat) (delta : Int) : Prop :=
  id = 0xFFFFFFFF ∨ PoolBad s c (kb + 32 * id) 32 32 true
  ∨ ∃ y z, PoolWord s z c (kb + 32 * id) 32 32 true y ∧
      let d := Desc.ofNat (pageNat z y 0 32)
      d.malformed = true ∨ (d.ref : Int) + delta < 0 ∨ 65535 < (d.ref : Int) + delta
      ∨ ((d.ref : Int) + delta = 0 ∧
          (PoolBad z c pool 16 16 true
            ∨ ∃ p u, PoolWord z u c pool 16 16 true p ∧ pageNat u p 0 4 < pageNat u p 4 4
                ∧ PoolBad u c (pageNat u p 8 8 + 4 * pageNat u p 0 4) 4 4 true))

/-- What KVAPP reads where it opens a page (R281, R316): the pool's COUNT at `px` with value `count`, the id that it pops, the table
entry `ex`, NPAGES `nx` with value `np`, and the descriptor `e` of the new page at `y`, whose POS follows that of the last page. -/
def OpensPage (s : State) (q : KvAsk) (kb pool d : Nat) (px ex nx y : Xlat) (count id np : Nat) (e : Desc) (pos : Nat) : Prop :=
  ∃ l n c pn pc pa last p yx lx u0 u1 u2 u3 u4 u5 u6,
    s.kvTable q d = .ok (l, n, c) u0 ∧ u0.kvPages q kb d (n.v - 1) (if n.v = 0 then 0 else 1) = .ok last u1
    ∧ needsPage last.head? = true ∧ u1.kvPool q pool = .ok (pn, pc, pa) u2 ∧ u2.kvPage q kb (pa.v + 4 * (pn.v - 1)) = .ok p u3
    ∧ p.desc = some (yx, e) ∧ u3.kvArray q pa.v pc.v = .ok () u4
    ∧ u4.kvDests q 4 [pool, d + 0x40 + 4 * n.v, d + 4, d] = .ok [px, ex, nx, lx] u5 ∧ u5.kvDest q (kb + 32 * p.id) 32 = .ok y u6
    ∧ count = pn.v ∧ id = p.id ∧ np = n.v
    ∧ pos = match last.head?.bind (·.desc) with | some (_, z) => (z.pos + 16) % 2 ^ 32 | none => 0

/-- The entry at `pte` maps an address and PGMAP may use it (R246). -/
def FirstTouch (s : State) (ctx va pte : Nat) : Prop :=
  let e := memNat s.mem pte 8
  va < crewBase ∧ walkVa s.mem (s.ctx ctx).root va = .invalid 0 pte ∧ (s.ctx ctx).framepool.getLsbD 0 = true ∧ e.testBit 9 = true
  ∧ e / 2 ^ 14 % 4 = 0 ∧ e.testBit 7 = false ∧ e / 2 ^ 10 % 4 ≤ 1

/-- Where the frame pool counts the free frames of the tier of entry `e` (R246). -/
def poolCountAt (s : State) (ctx e : Nat) : Nat := (s.ctx ctx).framepool.toNat / 2 ^ 6 % 2 ^ 46 * 64 + 16 * (e / 2 ^ 10 % 4)

/-- Line `k` belongs to a range of window addresses from `lo` to `hi` on one page (R239). -/
def InLines (s : State) (ctx : Nat) (l : Leaf) (lo hi k : Nat) : Prop :=
  let pa (va : Nat) : Nat := l.frame + va % l.size
  pa lo ≤ 128 * k + 127 ∧ 128 * k ≤ pa hi ∧ (s.ctx ctx).inWindow (lo / 128 * 128 + (128 * k - pa lo / 128 * 128)) = true

/-- A byte of a line that a copy holds as written. -/
def dirtyByte (c : Option WinCopy) (j : Nat) : Option Byte :=
  c.bind fun c => if c.dirty.getLsbD j then some (stGet c.data j) else none

/-- What CLEAN or INVAL makes of line `k` for a core at a scope (R199): below 5 nothing; from 5 the bytes written in the L1's copy
stand at the home slice or in memory, and the copy is clean or gone; from 6 the bytes written in either copy stand in memory, those of
the L1 over those of the slice, and the slice's copy is clean or gone. -/
structure Maintained (s t : State) (core scope : Nat) (inval : Bool) (k : Nat) : Prop where
  below : scope < 5 → t.l1win = s.l1win ∧ t.l2win = s.l2win ∧ SameMemory s t
  dropped : 5 ≤ scope → inval = true → copyOf t.l1win core k = none
  cleaned : 5 ≤ scope → inval = false → copyOf t.l1win core k = (copyOf s.l1win core k).map fun c => { c with dirty := 0 }
  home : 5 ≤ scope → isFar (128 * k) = false → ∀ j b, j < 128 → dirtyByte (copyOf s.l1win core k) j = some b →
    dirtyByte (copyOf t.l2win (homeSlice (128 * k) (dieOf core)) k) j = some b ∨ stGet (w := 8) t.mem (128 * k + j) = b
  droppedHome : 6 ≤ scope → inval = true → copyOf t.l2win (homeSlice (128 * k) (dieOf core)) k = none
  cleanedHome : 6 ≤ scope → inval = false → ∀ d, copyOf t.l2win (homeSlice (128 * k) (dieOf core)) k = some d → d.dirty = 0
  memory : 6 ≤ scope → isFar (128 * k) = false → ∀ j, j < 128 →
    stGet (w := 8) t.mem (128 * k + j) = (((dirtyByte (copyOf s.l1win core k) j).or
      (dirtyByte (copyOf s.l2win (homeSlice (128 * k) (dieOf core)) k) j))).getD (stGet (w := 8) s.mem (128 * k + j))

/-- A byte that some window copy holds as written. -/
def DirtyInWindow (s : State) (a : Nat) : Prop := ∃ c, (c ∈ s.l1win ∨ c ∈ s.l2win) ∧ c.line = a / 128 ∧ c.dirty.getLsbD (a % 128) = true

/-- The words that a bank core accepts (R71). -/
def bankWord (i : Instr) : Bool :=
  (bankTable i).isSome || match i with
    | .br _ | .brc _ | .ifOp _ | .elseOp _ | .endif _ | .loop _ | .brk _ | .endloop _ | .exit | .ld _ | .st _ => true
    | _ => false

end Sys2Proof.Machine
end

