-- ==== Sys2Proof/Certificates/Slice0/Obligations.lean ====
section
/-! DEFINITION. The statements for the provers. A statement about an instruction speaks of the state `s` in which a gang is
asked to issue it: `s.issue = .gang g G gr iss` names the gang, its group and the view of the fragment that issues. -/
open Sys2Proof Sys2Proof.Machine

/-- Words that the spec works out bit by bit (R67, R62, R223, R133, R141, R143, R135, R108, R116, R231, R241, R268, R274, R239,
R322, R302, R314), and the instruction that each of them stands for. -/
def Obligations.DecodeReadsWords : Prop :=
  decode 0x1150340FFFFFFFF8#64 = .ok (.iaddi ⟨.s 1, .s 1, -1, 0⟩)
  ∧ decode 0xC500803002411060#64 = .ok (.fmaxHalf ⟨.v 2, .v 3, .mode⟩ ⟨.iadd, ⟨.v 130, .v 131, .mode⟩⟩)
  ∧ decode 0x6050D60504A00028#64 = .ok (.ld ⟨.s 6, .sp .zero, .s 2, 2, 0, 20⟩)
  ∧ decode 0x50801409FFFFFFF7#64 = .ok (.brc ⟨.zero, .s 1, 1, -9⟩)
  ∧ decode 0x570000003FF07FFF#64 = .ok (.wait ⟨31, 31, 0, 31, 31, 31⟩)
  ∧ decode 0x5800000000000050#64 = .ok (.bara ⟨.zero, 5, 0⟩)
  ∧ decode 0x5300007100000003#64 = .ok (.ifOp ⟨.zero, .v 14, 1, 3⟩)
  ∧ decode 0x218140080401C108#64 = .ok (.ffma ⟨.v 10, .v 1, .v 2, .v 3, .rz, false, 0, 4, 1, 0⟩)
  ∧ decode 0x4000E0286203A002#64 = .ok (.cvt ⟨.v 7, .v 5, .v 7, 3, 1, .rn, false, 2⟩)
  ∧ decode 0x61D0960504A00080#64 = .ok (.cas ⟨.s 4, .sp .zero, .s 2, 2, 0, 0x40⟩)
  ∧ decode 0x6551545D1946A000#64 = .ok (.cpy ⟨.s 10, .s 11, .s 12, .s 13, 2, 0, 0⟩)
  ∧ decode 0x675054450B430000#64 = .ok (.mclp ⟨.s 2, .s 8, .s 5, .s 6, 0⟩)
  ∧ decode 0x69D2941000000000#64 = .ok (.mget ⟨.s 20, .s 2⟩)
  ∧ decode 0x6380142D10000050#64 = .ok (.clean ⟨.s 5, .s 8, 5⟩)
  ∧ decode 0x6E50742580000000#64 = .ok (.bkl ⟨.s 3, .s 4, .sp .zero⟩)
  ∧ decode 0x7050942800204000#64 = .ok (.mma ⟨.s 4, .s 5, 1, false, 0, 1, 0, 0, 0, false⟩)
  ∧ decode 0x6B0094550C01A081#64 = .ok (.kvldk ⟨.v 4, .s 10, .s 6, .v 3, 0x20, true, 1⟩)
  ∧ decode 0xC500803002411061#64 = .error .illpair

/-- Decoding the word of a well-formed instruction gives the instruction back, with every operand at every value its encoding
admits. The tile commands of BKT share one word, whose command stands in memory (R323): the decoder reads BKT ZERO. -/
def Obligations.DecodeInvertsEncode : Prop :=
  ∀ i : Instr, i.wf = true → decode (encode i) = .ok (match i with
    | .bktFill x | .bktCopy x | .bktAdd x | .bktMul x | .bktAxpy x | .bktScale x | .bktCvt x | .bktDot x | .bktIdot x => .bktZero x
    | i => i)

/-- A step of the issue slot of a partition fetches the word at the PC of the gang it picks and runs it: the next state is that
of `exec` on the decoded instruction (a BKT word by the command in its block), with nobody issuing afterwards; a replay (R157)
of a word that acts once is not limited to lanes, and one that acts in lanes only, in none, goes on past the word, by the
model's choice also where check 6 of R68 refuses it (notes/assumptions 62). On a plain page the word fetched is the eight bytes
of memory at the physical address. A step whose turn is a device event runs that event, and one whose turn is a bank core runs
the word at the PC of the kernel that runs there while its command's range is recalled. An instruction with a word is no event.
A step whose walk meets memory that is not ready only waits (R375). -/
def Obligations.StepRunsDecoded : Prop :=
  ((∀ (s : State) (p : Nat) (r : List Act) (g : Nat) (G : Gang) (gr : Group) (iss : Issuer) (w : DWord) (u : State) (i : Instr),
    let s0 : State := { s with agenda := r, cur := .none, blocked := false }
    let s1 : State := { s0 with cur := .gang g }
    s.agenda = .slot p :: r → s.slotUsed p = false → s0.pick p = some g → s1.issue = .gang g G gr iss → G.midway = none →
    G.deferred = [] → s1.fetch G gr iss = (.word w, u) → decode w = .ok i →
    step s = unlessBlocked (s0.stallSlot p) (idle (if G.skips iss w then .next (u.updGang g fun G => G.advance iss.frag)
        else exec (u.named G gr iss i) (u.updGang g fun G => G.unlimited iss.frag w)))
    ∧ (G.replays iss.frag = false → step s = unlessBlocked (s0.stallSlot p) (idle (exec (u.named G gr iss i) u))))
  ∧ ∀ (s : State) (G : Gang) (gr : Group) (iss : Issuer) (x : Xlat) (u : State),
    s.check1 G.grp iss.pc.toNat = true → iss.pc.toNat % 8 = 0 →
    s.resolve G.part gr.ctx G.grp iss.pc.toNat false true false = (.ok x, u) → u.held x.pa 8 = false → x.leaf.mapped = false →
    leafDiscard u.mem x.leaf = false → isFar x.pa = false → Clean u x.pa 8 → u.codeOld = [] →
    ∃ t, s.fetch G gr iss = (.word (BitVec.ofNat 64 (memNat u.mem x.pa 8)), t) ∧ t = { u with slices := t.slices, free := t.free })
  ∧ ((∀ (s : State) (i : Instr) (r : List Act), s.agenda = .event i :: r →
    let s0 : State := { s with agenda := r, cur := .none, blocked := false }
    step s = if i.fields = [] then unlessBlocked s0 (exec i s0) else .next s0)
  ∧ ∀ (s : State) (b k : Nat) (r : List Act) (it : BankItem) (kn : Kernel) (c : BankCmd) (code : List DWord) (entry regs : Nat)
      (pb : DWord) (ps : List Word) (w : DWord) (i : Instr),
    let s0 : State := { s with agenda := r, cur := .none, blocked := false }
    s.agenda = .bankSlot b :: r → s.running b = some k → s.items[k]? = some it → it.kern = some kn → s.cmd it.cmd = some c →
    c.work = .kernel code entry regs pb ps → c.held = true → s.bankOffline b = false → kn.late = [] → kn.ahead = [] → kn.pc.toNat % 8 = 0 → entry ≤ kn.pc.toNat →
    code[(kn.pc.toNat - entry) / 8]? = some w → decode w = .ok i →
    step s = unlessBlocked s0 (idle (exec i { s0 with cur := .bank b })))

/-- What a fundamental reset leaves (R34, R352, R375, R378): the clock count and every counter and selector 0, no flag of
READY0, READY1 and READY2, every register of every context 0, nothing resident, nothing queued at a matrix unit, memory with
every byte 0. The spec gives no reset value for EVCNT, for CTXREC, TRAPVEC and the other registers of a context that
notes/assumptions 1 names, nor for memory: that they read 0 is the model's choice (notes/assumptions 1 and 5). -/
def Obligations.ResetState : Prop :=
  State.reset.clock = 0 ∧ State.reset.ready0 = 0 ∧ State.reset.ready1 = 0 ∧ State.reset.ready2 = 0 ∧ State.reset.online = 0
  ∧ (∀ c, State.reset.ctx c = Context.reset ∧ (Context.reset).ctl = 0 ∧ (State.reset.ctx c).ctxrec = 0 ∧ (State.reset.ctx c).trapvec = 0
      ∧ (State.reset.ctx c).kvbase = 0 ∧ (State.reset.ctx c).kvpool = 0 ∧ (State.reset.ctx c).framepool = 0
      ∧ (State.reset.ctx c).rotbase = 0 ∧ (State.reset.ctx c).errlog = 0 ∧ ∀ k, stGet (State.reset.ctx c).ncwin k = 0)
  ∧ (∀ p, (State.reset.part p).token = none ∧ (State.reset.part p).mq = [] ∧ ∀ k, State.reset.acc p k = Acc.zero)
  ∧ (∀ c k, stGet (State.reset.core c).evsel k = 0 ∧ stGet (State.reset.core c).evcnt k = 0)
  ∧ (∀ i k, stGet (State.reset.slice i).sel k = 0 ∧ stGet (State.reset.slice i).cnt k = 0)
  ∧ State.reset.gangs = [] ∧ State.reset.groups = [] ∧ State.reset.vfs = 0 ∧ ∀ a, stGet (w := 8) State.reset.mem a = 0

/-- Memory is in its canonical form after reset. -/
def Obligations.MemoryTidyAtReset : Prop := MemoryTidy State.reset

/-- Every step keeps the canonical form of memory: rising addresses, no byte listed that reads 0. -/
def Obligations.EveryStepKeepsMemoryTidy : Prop := ∀ s t : State, MemoryTidy s → step s = .next t → MemoryTidy t

/-- NOP and the integer, logic, bit-field, address, move and I-form instructions (R67, R99 to R106) complete with the values of
their tables, on both pipes, and change nothing else. -/
def Obligations.IntegerInstructions : Prop := ∀ (i : Instr) (o : RegOp), intTable i = some o → i.wf = true → Runs i o

/-- The FP32 instructions (R86 to R88, R104, R107 to R113) complete with the values and flags of their tables. -/
def Obligations.Fp32Instructions : Prop := ∀ (i : Instr) (o : RegOp), fpTable i = some o → i.wf = true → Runs i o

/-- The packed BF16 and the FP64 instructions (R114, R115) complete with the values and flags of their tables. -/
def Obligations.PackedAndFp64Instructions : Prop := ∀ (i : Instr) (o : RegOp), packedTable i = some o → i.wf = true → Runs i o

/-- CVT, CVTS, DBQ and DBX (R116 to R120) complete with the values and flags of their tables. -/
def Obligations.Conversions : Prop := ∀ (i : Instr) (o : RegOp), convertTable i = some o → i.wf = true → Runs i o

/-- The cross-lane instructions and KVSLOT (R121 to R129) complete with the values of their tables. -/
def Obligations.CrossLaneInstructions : Prop := ∀ (i : Instr) (o : RegOp), crossTable i = some o → i.wf = true → Runs i o

/-- A pair word (R64, R65): both halves read the registers before either writes, each has the effect of the full word it stands
for, where both write one register slot B's value stays, and flags of both join. -/
def Obligations.PairWords : Prop :=
  ∀ (x y : Half) (o p : RegOp) (s : State) (g : Nat) (G : Gang) (gr : Group) (iss : Issuer),
    halfTable x = some o → halfTable y = some p → (pairInstr x y).wf = true → s.issue = .gang g G gr iss →
    Operable (halfUses x ++ halfUses y) iss G → Roomy s g G (halfUses x ++ halfUses y) →
    ∃ t, exec (pairInstr x y) s = .next t ∧
      Completes s t g G iss.frag (fun n l => (p.lane iss n l).or (o.lane iss n l)) (fun n => (p.scal iss n).or (o.scal iss n))
        (o.flags iss ||| p.flags iss) next8

/-- SHL, SHR, SRA and ROL (R101), bit by bit: the count is the low bits of B, 5 on lanes and 6 on the scalar pipe. -/
def Obligations.ShiftsBySpec : Prop :=
  ∀ (i : Instr) (x : Arith) (s : State) (g : Nat) (G : Gang) (gr : Group) (iss : Issuer), shiftArgs i = some x → i.wf = true →
    s.issue = .gang g G gr iss → Operable [Use.w x.d, Use.r x.a, Use.r x.b] iss G → Roomy s g G [Use.w x.d, Use.r x.a, Use.r x.b] →
    ∃ (t : State) (fv : Nat → Nat → Option Word) (fs : Nat → Option DWord), exec i s = .next t
      ∧ Completes s t g G iss.frag fv fs 0 next8
      ∧ (∀ d : Fin 640, x.d = .v d → (∀ n, fs n = none) ∧ ∀ n l, l < 32 →
          if n = d.val ∧ iss.active.getLsbD l = true then
            ∃ y, fv n l = some y ∧ ∀ k, k < 32 → y.getLsbD k = shiftBit i (iss.rd x.a l) ((iss.rd x.b l).toNat % 32) k
          else fv n l = none)
      ∧ ∀ d : Fin 64, x.d = .s d → (∀ n l, fv n l = none) ∧ ∀ n,
          if n = d.val then ∃ y, fs n = some y ∧ ∀ k, k < 64 → y.getLsbD k = shiftBit i (iss.rds x.a) ((iss.rds x.b).toNat % 64) k
          else fs n = none

/-- ICMP, ICMPI, FCMP and DCMP (R102) write 1 where the condition holds and 0 where it does not; a NaN is in no order. -/
def Obligations.Comparisons : Prop :=
  ∀ (i : Instr) (c : Comparison) (s : State) (g : Nat) (G : Gang) (gr : Group) (iss : Issuer), comparison i = some c → i.wf = true →
    s.issue = .gang g G gr iss → Operable c.uses iss G → Roomy s g G c.uses →
    ∃ (t : State) (fv : Nat → Nat → Option Word) (fs : Nat → Option DWord) (fl : BitVec 5), exec i s = .next t
      ∧ Completes s t g G iss.frag fv fs fl next8
      ∧ (∀ d : Fin 640, c.d = .v d → (∀ n, fs n = none) ∧ ∀ n l, l < 32 →
          if n = d.val ∧ iss.active.getLsbD l = true then (c.lane iss l → fv n l = some 1) ∧ (¬c.lane iss l → fv n l = some 0)
          else fv n l = none)
      ∧ ∀ d : Fin 64, c.d = .s d → (∀ n l, fv n l = none) ∧ ∀ n,
          if n = d.val then (c.scal iss → fs n = some 1) ∧ (¬c.scal iss → fs n = some 0) else fs n = none

/-- The direct and indirect jumps (R131 to R134) move the whole fragment: BR to its target, BRC to it when the condition holds
on the scalar pipe, JMPI and RET to a scalar value, CALL to its target or to a value read before the link is written. Nothing
else changes. -/
def Obligations.BranchesJump : Prop :=
  ∀ (x : Branch) (s : State) (g : Nat) (G : Gang) (gr : Group) (iss : Issuer), s.issue = .gang g G gr iss →
    (Roomy s g G [] → ∃ t, exec (.br x) s = .next t ∧ Completes s t g G iss.frag noV noS 0 fun _ => branchTarget iss.pc x.ofs)
    ∧ ((Instr.brc x).wf = true → Operable [Use.r x.a] iss G → Roomy s g G [] →
        ∃ t, exec (.brc x) s = .next t ∧ Completes s t g G iss.frag noV noS 0 fun _ =>
          if condition x.cond.toNat (iss.rds x.a) then branchTarget iss.pc x.ofs else iss.pc + 8)
    ∧ ((Instr.jmpi x).wf = true → Operable [Use.r x.a] iss G → Roomy s g G [] →
        ∃ t, exec (.jmpi x) s = .next t ∧ Completes s t g G iss.frag noV noS 0 fun _ => iss.rds x.a)
    ∧ ((Instr.ret x).wf = true → Operable [Use.r x.a] iss G → Roomy s g G [] →
        ∃ t, exec (.ret x) s = .next t ∧ Completes s t g G iss.frag noV noS 0 fun _ => iss.rds x.a)
    ∧ ((Instr.call x).wf = true → Operable (Use.w x.d :: if x.cond = 0 then [] else [Use.r x.a]) iss G → Roomy s g G [Use.w x.d] →
        ∃ t, exec (.call x) s = .next t ∧ Completes s t g G iss.frag noV (scalD x.d (iss.pc + 8)) 0 fun _ =>
          if x.cond = 0 then branchTarget iss.pc x.ofs else iss.rds x.a)

/-- BRS (R25, R133) divides the fragment: the slices that take it form one fragment at the target, the others one at PC + 8; a
fragment is named by its lowest slice. Where one set is empty the fragment stays whole. -/
def Obligations.BrsSplitsFragments : Prop :=
  ∀ (x : Branch) (s : State) (g : Nat) (G : Gang) (gr : Group) (iss : Issuer), s.issue = .gang g G gr iss →
    Operable [Use.r x.a] iss G → Roomy s g G [] →
    ∃ t, exec (.brs x) s = .next t ∧ OnlyTo s t g fun G' =>
      G.Keeps G' ∧ G.Regs G' noV noS ∧ G'.flags = G.flags ∧ G.SameNest G' ∧ G'.slices.length = G.slices.length
      ∧ ∀ (k : Nat) (sl : Slice), G.slices[k]? = some sl → ∃ sl' : Slice, G'.slices[k]? = some sl' ∧
          (iss.frag.getLsbD k = false → sl' = sl)
          ∧ (TakesBrs x iss k → sl' = { sl with pc := branchTarget iss.pc x.ofs, frag := sl'.frag, replay := none }
              ∧ LowestOf (TakesBrs x iss) sl'.frag)
          ∧ (iss.frag.getLsbD k = true → ¬TakesBrs x iss k → sl' = { sl with pc := sl.pc + 8, frag := sl'.frag, replay := none }
              ∧ LowestOf (fun j => iss.frag.getLsbD j = true ∧ ¬TakesBrs x iss j) sl'.frag)

/-- IF, ELSE, ENDIF, LOOP and BRK change the nesting counters of the fragment's lanes by the table of R27, and IF, ELSE and BRK
branch when no lane is left active (R28); ENDLOOP branches back while a lane has counter 0, else every counter goes down by one.
No other lane's counter changes. A scalar register as A of IF and BRK is tested on its low 32 bits in every lane, which is the
model's choice (notes/assumptions 34). -/
def Obligations.NestingCounters : Prop :=
  (∀ (i : Instr) (s : State) (g : Nat) (G : Gang) (gr : Group) (iss : Issuer), s.issue = .gang g G gr iss →
    let c (l : Nat) : Bool := match nestCond i with | some (o, k) => condition k (iss.rd o l) | none => false
    (∀ b n, (nestTable i b n).isSome = true) → Operable (nestUses i) iss G → Roomy s g G [] →
    (∀ l n, InFrag iss.frag l → nestTable i (c l) (G.counter l) = some n → n ≤ 255) →
    ∃ t, exec i s = .next t ∧ OnlyTo s t g fun G' =>
      G.Keeps G' ∧ G.Regs G' noV noS ∧ G'.flags = G.flags
      ∧ (∀ l, InFrag iss.frag l → nestTable i (c l) (G.counter l) = some (G'.counter l))
      ∧ (∀ l, ¬InFrag iss.frag l → stGet G'.nest l = stGet G.nest l)
      ∧ ((∃ l, InFrag iss.frag l ∧ G'.counter l = 0) ∨ nestTarget i = none → G.Moves G' iss.frag fun _ => iss.pc + 8)
      ∧ ∀ ofs, nestTarget i = some ofs → (¬∃ l, InFrag iss.frag l ∧ G'.counter l = 0) →
          G.Moves G' iss.frag fun _ => branchTarget iss.pc ofs)
  ∧ ∀ (x : Branch) (s : State) (g : Nat) (G : Gang) (gr : Group) (iss : Issuer), s.issue = .gang g G gr iss → Roomy s g G [] →
    ∃ t, exec (.endloop x) s = .next t ∧ OnlyTo s t g fun G' =>
      G.Keeps G' ∧ G.Regs G' noV noS ∧ G'.flags = G.flags
      ∧ ((∃ l, InFrag iss.frag l ∧ G.counter l = 0) → G.SameNest G' ∧ G.Moves G' iss.frag fun _ => branchTarget iss.pc x.ofs)
      ∧ ((¬∃ l, InFrag iss.frag l ∧ G.counter l = 0) →
          (∀ l, if l < 32 ∧ iss.frag.getLsbD (l / 4) = true then G'.counter l = G.counter l - 1 else stGet G'.nest l = stGet G.nest l)
          ∧ G.Moves G' iss.frag fun _ => iss.pc + 8)

/-- IF and LOOP with a lane of the fragment at counter 255 raise DIVOVF with those lanes in TRAPMASK (R29): at once in crawl
mode; in a tail the fault is held until the tail has committed (R216). No counter changes. -/
def Obligations.NestingOverflowTraps : Prop :=
  ∀ (i : Instr) (s : State) (g : Nat) (G : Gang) (gr : Group) (iss : Issuer) (m : BitVec 32), s.issue = .gang g G gr iss →
    (∃ x, i = .ifOp x ∨ i = .loop x) → Operable (nestUses i) iss G → Roomy s g G [] →
    (∀ l, m.getLsbD l = true ↔ InFrag iss.frag l ∧ G.counter l = 255) → m ≠ 0 →
    (G.crawl = true → G.tail = none → G.super = false → VectorRuns s G gr →
      ∃ t, exec i s = .next t ∧ Traps s t g G (s.ctx gr.ctx).trapvec (causeWord 0 0 0x09) iss.pc m 0 iss.frag)
    ∧ (G.crawl = false → (∀ tl, G.tail = some tl → tl.held = none) →
      ∃ t, exec i s = .next t ∧ OnlyTo s t g fun G' => G.SameNest G' ∧ G.Regs G' noV noS ∧ ∃ tl h, G'.tail = some tl ∧ tl.held = some h
        ∧ h.trap.cause = .divovf ∧ h.trap.addr = iss.pc ∧ h.trap.lanes = m ∧ h.trap.retry = 0 ∧ h.trap.frag = iss.frag
        ∧ h.ckpt = ⟨G.slices, G.nest, G.flags⟩)

/-- REGANG (R26) stops the fragment at the instruction under its id, and when every live slice has stopped, the slices with the
id of the one that stands lowest go on as one fragment at its PC + 8. -/
def Obligations.RegangStopsAndJoins : Prop :=
  ∀ (x : RegangArgs) (s : State) (g : Nat) (G : Gang) (gr : Group) (iss : Issuer), s.issue = .gang g G gr iss → Roomy s g G [] →
    ∃ t, exec (.regang x) s = .next t ∧ OnlyTo s t g fun G' => G.Still G' ∧ ∃ a : List Slice,
      (∀ k : Nat, a[k]? = (G.slices[k]?).map fun sl =>
        if iss.frag.getLsbD k then { sl with stopped := true, regang := x.id, replay := none } else sl)
      ∧ Rejoins a G'.slices

/-- EXIT (R139) ends the slices of the fragment, whatever their counters; with its last slice the gang ends and its token leaves
it, and with its last gang the group ends. -/
def Obligations.ExitEndsSlices : Prop :=
  ∀ (s : State) (g : Nat) (G : Gang) (gr : Group) (iss : Issuer), s.issue = .gang g G gr iss → Calm G →
    ∃ t, exec .exit s = .next t ∧ Exits s t g G gr iss.frag

/-- A word that fails a check of R68 traps with every lane of its fragment in LANES, RETRY 0 and TRAPADDR its PC (R69): a word
that does not decode, a privileged instruction in user mode, an operand of any kind of word that check 6 refuses. In supervisor
mode, where the privileged instructions run, the trap is a double trap (R158) and ends the group. -/
def Obligations.FailedChecksTrap : Prop :=
  ∀ (s : State) (g : Nat) (G : Gang) (gr : Group) (iss : Issuer), s.issue = .gang g G gr iss → Calm G →
    (G.super = false → VectorRuns s G gr →
      let traps (t : State) (code : Nat) : Prop := Traps s t g G (s.ctx gr.ctx).trapvec (causeWord 0 0 code) iss.pc iss.lanes 0 iss.frag
      (∀ (w : DWord) (c : WordFault), G.deferred = [] → decode w = .error c →
        ∃ t, s.issueWord g G gr iss w = .next t ∧ traps t (match c with | .illop => 0x01 | .illpair => 0x02))
      ∧ (∀ (i : Instr) (us : List Use), privilegedUses i = some us → ∃ t, exec i s = .next t ∧ traps t 0x04)
      ∧ (∀ (i : Instr) (o : RegOp), regTable i = some o → i.wf = true → o.ok iss = true → (∃ u ∈ o.uses, u.bad iss = true) →
        ∃ t, exec i s = .next t ∧ traps t 0x03)
      ∧ (∀ x y : Half, (∃ u ∈ halfUses x ++ halfUses y, u.bad iss = true) → ∃ t, exec (pairInstr x y) s = .next t ∧ traps t 0x03)
      ∧ ∀ (i : Instr) (us : List Use), positions iss i = some us → (∃ u ∈ us, u.bad iss = true) → ∃ t, exec i s = .next t ∧ traps t 0x03)
    ∧ (G.super = true → G.stand = .resident → g ∈ gr.members → (∀ m M, m ∈ gr.members → s.gangs[m]? = some M → M.grp = G.grp) →
      ∀ (i : Instr) (us : List Use), privilegedUses i = some us → (∃ u ∈ us, u.bad iss = true) →
        ∃ t, exec i s = .next t ∧ (∀ m ∈ gr.members, t.gangEnded m = true) ∧ ∃ gr', t.groups[G.grp]? = some gr' ∧ gr'.stand = .ended)

/-- Taking a trap in user mode (R155, R163, R381): EPC0 to EPC7 receive the PCs, membership and counters are held aside,
TRAPCAUSE, TRAPADDR and TRAPMASK receive the report, and the live slices stand as one fragment at TRAPVEC in supervisor mode. No
register, no other gang and no byte of memory changes. -/
def Obligations.TrapEntry : Prop :=
  ∀ (s : State) (g : Nat) (G : Gang) (gr : Group) (r : TrapInfo), s.gangs[g]? = some G → s.groups[G.grp]? = some gr →
    G.super = false → VectorRuns s G gr →
    Traps s (s.takeTrap g r) g G (s.ctx gr.ctx).trapvec
      (causeWord r.info (if r.cause = .pagefault ∨ r.cause = .prot ∨ r.cause = .poison then r.acc % 16 else 0) r.cause.code) r.addr r.lanes
      r.retry r.frag
    ∧ ∃ u, Looked s u ∧ OnlyGang u (s.takeTrap g r) g

/-- A trap in supervisor mode (R158) ends every gang of the group and the group, and the error log records it (R369): the cause,
KIND 0x01, INFO, the unit, TRAPADDR, the node's record and the clk, and the log's head moves on. That the unit is the partition
of the gang is the model's choice (notes/assumptions 11). -/
def Obligations.DoubleTrapEndsGroup : Prop :=
  ∀ (s : State) (g : Nat) (G : Gang) (gr : Group) (r : TrapInfo), s.gangs[g]? = some G → s.groups[G.grp]? = some gr →
    G.super = true → G.stand = .resident → g ∈ gr.members →
    (∀ m M, m ∈ gr.members → s.gangs[m]? = some M → M.grp = G.grp) → (s.ctx gr.ctx).errlog.getLsbD 0 = true → s.logq = [] →
    let t := s.takeTrap g r
    let base := (s.ctx gr.ctx).errlog.toNat / 2 ^ 12 % 2 ^ 40 * 2 ^ 12
    let size := 2 ^ (6 + (s.ctx gr.ctx).errlog.toNat / 2 % 8)
    let head := memNat s.mem base 8
    let rec_ := base + 64 + 32 * (head % size)
    s.held base 8 = false → s.held rec_ 32 = false →
    (∀ m ∈ gr.members, t.gangEnded m = true) ∧ (∃ gr', t.groups[G.grp]? = some gr' ∧ gr'.stand = .ended)
    ∧ memNat t.mem rec_ 1 = r.cause.code ∧ memNat t.mem (rec_ + 1) 1 = 0x01 ∧ memNat t.mem (rec_ + 2) 2 = r.info % 2 ^ 16
    ∧ memNat t.mem (rec_ + 4) 4 = G.part % 2 ^ 32 ∧ memNat t.mem (rec_ + 8) 8 = r.addr.toNat
    ∧ memNat t.mem (rec_ + 16) 8 = s.nodeAddr G.grp % 2 ^ 64 ∧ memNat t.mem (rec_ + 24) 8 = s.clock.toNat
    ∧ memNat t.mem base 8 = (head + 1) % 2 ^ 64 ∧ t.irqs = s.irqs ++ [s.vector gr.ctx 2] ∧ t.logq = []
    ∧ ∀ a, (a < base ∨ base + 8 ≤ a) → (a < rec_ ∨ rec_ + 32 ≤ a) → stGet (w := 8) t.mem a = stGet (w := 8) s.mem a

/-- ERET (R157): the divergence state held aside comes back, each PC is its EPC, a fragment divides by EPC and none merge; the
slices of the faulting fragment that still stand at TRAPADDR replay in the lanes of TRAPMASK that are active, as a whole where
the instruction acts once, or go on at TRAPADDR + 8; lanes that had completed in a replay before a trap that names the lanes of
its fragment as a whole do not run again. That a slice which exited in the handler stays so, and that SLEEP and a BAR which has
arrived are held aside over the trap, is the model's choice (notes/assumptions 27 and 50). -/
def Obligations.EretReturns : Prop :=
  ∀ (s : State) (g : Nat) (G : Gang) (gr : Group) (iss : Issuer), s.issue = .gang g G gr iss → Calm G → G.super = true →
    G.slices.length = 8 → G.aside.length = 8 →
    ∃ t, exec .eret s = .next t ∧ OnlyTo s t g fun G' =>
      G'.super = false ∧ G'.nest = G.asideNest ∧ G'.sleep = G.asideSleep ∧ G'.v = G.v ∧ G'.s = G.s ∧ G'.sv = G.sv ∧ G'.ss = G.ss
      ∧ G'.flags = G.flags ∧ G'.cnt = G.cnt ∧ G'.trapcause = G.trapcause ∧ G'.trapaddr = G.trapaddr ∧ G'.trapmask = G.trapmask
      ∧ (Replays G → (∃ k, k < 8 ∧ AtTrap G k) → G'.inBar = G.asideBar)
      ∧ (¬(Replays G ∧ ∃ k, k < 8 ∧ AtTrap G k) → G'.inBar = none)
      ∧ ∃ a, Returned G a ∧ Rejoins a G'.slices ∧ ∀ (k : Nat) (C sl : Slice), G.slices[k]? = some C → a[k]? = some sl →
          (¬AtTrap G k → sl.pc = C.epc ∧ ∀ A : Slice, G.aside[k]? = some A → sl.replay = if C.epc = A.pc then A.replay else none)
          ∧ (AtTrap G k → ¬Replays G → sl.pc = G.trapaddr + 8 ∧ sl.replay = none)
          ∧ (AtTrap G k → Replays G → sl.pc = G.trapaddr ∧ ∃ m : BitVec 4, sl.replay = some m
              ∧ ∀ j, j < 4 → (m.getLsbD j = true ↔ ReplaysLane G (4 * k + j)))

/-- TRAP raises USER (R153): INFO of TRAPCAUSE receives the immediate, TRAPMASK the active lanes of the fragment. -/
def Obligations.TrapInstruction : Prop :=
  ∀ (x : TrapArgs) (s : State) (g : Nat) (G : Gang) (gr : Group) (iss : Issuer), s.issue = .gang g G gr iss → Calm G → G.super = false →
    VectorRuns s G gr → ∃ t, exec (.trap x) s = .next t ∧
      Traps s t g G (s.ctx gr.ctx).trapvec (causeWord x.imm.toNat 0 0x11) iss.pc iss.active 0 iss.frag

/-- WAIT goes on when every class with a threshold below 31 has at most that many operations in flight (R141), WAITGE when its
counter has reached b or carries the error bit, with the counter's value in d (R142), DRAIN when every count is 0 (R154); until
then each waits. -/
def Obligations.WaitPasses : Prop :=
  ∀ (s : State) (g : Nat) (G : Gang) (gr : Group) (iss : Issuer), s.issue = .gang g G gr iss →
    (∀ x : WaitArgs,
      let done := ∀ e ∈ [(0, x.cp), (1, x.ts), (2, x.mp), (3, x.kv), (4, x.bk), (5, x.rd)], e.2 = 31 ∨ G.count e.1 ≤ e.2.toNat
      (done → Roomy s g G [] → ∃ t, exec (.wait x) s = .next t ∧ Completes s t g G iss.frag noV noS 0 next8)
      ∧ (¬done → ∃ t, exec (.wait x) s = .next t ∧ Waits s t g))
    ∧ (∀ (x : Ops3) (bs : List Byte) (ws : List Nat),
      let us := [Use.w x.d, Use.r x.a, Use.r x.b]
      let off := (iss.rds x.a).toNat - (crewBase + gr.rank * 2 ^ 21)
      Operable us iss G → crewBase + gr.rank * 2 ^ 21 ≤ (iss.rds x.a).toNat → off + 1 ≤ gr.scratch → (iss.rds x.a).toNat % 8 = 0 →
      s.readCoherent G.tail ⟨(iss.rds x.a).toNat, Config.scratchBase G.grp + off, crewLeaf G.grp, false⟩ 8 = .ok bs ws →
      s.room g G ⟨written us, [], if G.crawl then [] else ws⟩ = .ok →
      let done := 2 ^ 63 ≤ leNat bs ∨ (iss.rds x.b).toNat % 2 ^ 63 ≤ leNat bs % 2 ^ 63
      (done → ∃ t, exec (.waitge x) s = .next t ∧ Completes s t g G iss.frag noV (scalD x.d (BitVec.ofNat 64 (leNat bs))) 0 next8)
      ∧ (¬done → ∃ t, exec (.waitge x) s = .next t ∧ Waits s t g))
    ∧ (Calm G →
      ((∀ n ∈ G.cnt, n = 0) → ∃ t, exec .drain s = .next t ∧ Completes s t g G iss.frag noV noS 0 next8)
      ∧ ((∃ n ∈ G.cnt, n ≠ 0) → ∃ t, exec .drain s = .next t ∧ Waits s t g))

/-- The barriers (R144): BARA arrives and goes on; BAR arrives and goes on when its phase is complete, and waits otherwise, its
arrival noted; BARW goes on when no arrival of the gang stands in a phase that is not complete, and waits otherwise. BARA, and a
BAR that has not arrived yet, wait while an earlier arrival of their gang stands there. A phase completes when every participant
has arrived in it or has ended. -/
def Obligations.BarrierArrivals : Prop :=
  ∀ (x : Sync) (s : State) (g : Nat) (G : Gang) (gr : Group) (iss : Issuer) (b : Barrier) (who : List Nat), s.issue = .gang g G gr iss →
    (Instr.bar x).wf = true → ¬Divided G → barrierOf s gr x = some (b, who) →
    (g ∉ b.arrived → Calm G → ∃ t, exec (.bara x) s = .next t ∧ Arrives s t g G gr x b who
      ∧ ∃ G', t.gangs[g]? = some G' ∧ G.Still G' ∧ G.Moves G' iss.frag next8)
    ∧ (g ∉ b.arrived → Roomy s g G [] → ∃ t, exec (.barw x) s = .next t ∧ Completes s t g G iss.frag noV noS 0 next8)
    ∧ (g ∈ b.arrived → ∃ t, exec (.barw x) s = .next t ∧ Waits s t g)
    ∧ (g ∉ b.arrived → Calm G → G.inBar ≠ some (barKey x) →
      ∃ t, exec (.bar x) s = .next t ∧ Arrives s t g G gr x b who ∧ ∃ G', t.gangs[g]? = some G' ∧
        if g ∈ (arrived s who g b).arrived then G' = { G with inBar := some (barKey x), stalled := true }
        else ({ G with inBar := none } : Gang).Still G' ∧ G.Moves G' iss.frag next8)
    ∧ (g ∈ b.arrived → Calm G → (∃ t, exec (.bara x) s = .next t ∧ Waits s t g) ∧ ∃ t, exec (.bar x) s = .next t ∧ Waits s t g)
    ∧ (g ∉ b.arrived → Calm G → G.inBar = some (barKey x) →
      ∃ t, exec (.bar x) s = .next t ∧ Completes s t g { G with inBar := none } iss.frag noV noS 0 next8)

/-- BARA, BARW and BAR of a gang that holds more than one fragment raise ILLOP with the lanes of the issuing fragment in
TRAPMASK (R145); BARW, which is not irrevocable, at once in crawl mode, and else as a fault held in its tail (R216). -/
def Obligations.DividedGangsTrapAtBarriers : Prop :=
  ∀ (x : Sync) (s : State) (g : Nat) (G : Gang) (gr : Group) (iss : Issuer), s.issue = .gang g G gr iss → Divided G →
    (Calm G → G.super = false → VectorRuns s G gr →
      (∃ t, exec (.bara x) s = .next t ∧ Traps s t g G (s.ctx gr.ctx).trapvec (causeWord 0 0 0x01) iss.pc iss.lanes 0 iss.frag)
      ∧ (G.inBar ≠ some (barKey x) →
        ∃ t, exec (.bar x) s = .next t ∧ Traps s t g G (s.ctx gr.ctx).trapvec (causeWord 0 0 0x01) iss.pc iss.lanes 0 iss.frag)
      ∧ (G.crawl = true →
        ∃ t, exec (.barw x) s = .next t ∧ Traps s t g G (s.ctx gr.ctx).trapvec (causeWord 0 0 0x01) iss.pc iss.lanes 0 iss.frag))
    ∧ (G.crawl = false → Roomy s g G [] → (∀ tl, G.tail = some tl → tl.held = none) →
      ∃ t, exec (.barw x) s = .next t ∧ OnlyTo s t g fun G' => ∃ tl h, G'.tail = some tl ∧ tl.held = some h
        ∧ h.trap.cause = .illop ∧ h.trap.addr = iss.pc ∧ h.trap.lanes = iss.lanes ∧ h.trap.retry = 0)

/-- QPUSH appends its value to the instance that the group shares, and QPOP takes the oldest entry into d (R146), for a gang
whose turn it is; a full queue blocks a push and an empty one a pop, in the order of blocking. -/
def Obligations.QueuesPushAndPop : Prop :=
  ∀ (x : Sync) (s : State) (g : Nat) (G : Gang) (gr : Group) (iss : Issuer) (d : QDecl) (k : Nat) (q : Queue),
    s.issue = .gang g G gr iss → s.qdecl gr x.id.toNat = some d → d.scope = x.scope.toNat → s.qinst gr d = some k →
    s.queues[k]? = some q → Calm G →
    let others := { q with blocked := q.blocked.filter fun e => e.1 != g }
    (Operable [Use.r x.d] iss G → gr.stage = d.pstage → q.turn g true = true → q.entries.length < q.decl.depth →
      ∃ t, exec (.qpush x) s = .next t ∧
        Completes { s with queues := s.queues.set k { others with entries := q.entries ++ [iss.rds x.d] } } t g G iss.frag noV noS 0 next8)
    ∧ (Operable [Use.r x.d] iss G → gr.stage = d.pstage → q.turn g true = false ∨ q.decl.depth ≤ q.entries.length →
      ∃ t, exec (.qpush x) s = .next t ∧ Waits { s with queues := s.queues.set k (q.block g true) } t g)
    ∧ (∀ e r, Operable [Use.w x.d] iss G → gr.stage = d.cstage → q.turn g false = true → q.entries = e :: r →
      ∃ t, exec (.qpop x) s = .next t ∧
        Completes { s with queues := s.queues.set k { others with entries := r } } t g G iss.frag noV (scalD x.d e) 0 next8)
    ∧ (Operable [Use.w x.d] iss G → gr.stage = d.cstage → q.turn g false = false ∨ q.entries = [] →
      ∃ t, exec (.qpop x) s = .next t ∧ Waits { s with queues := s.queues.set k (q.block g false) } t g)

/-- QPUSH and QPOP raise QFULLSCOPE (R147) when no declaration of the launch carries the id, when the scope differs from the
declared one, and when a push comes from a stage that is not PSTAGE or a pop from one that is not CSTAGE; no queue changes. -/
def Obligations.QueueScopeTraps : Prop :=
  ∀ (x : Sync) (s : State) (g : Nat) (G : Gang) (gr : Group) (iss : Issuer), s.issue = .gang g G gr iss → Calm G → G.super = false →
    VectorRuns s G gr →
    (Operable [Use.r x.d] iss G → (∀ d, s.qdecl gr x.id.toNat = some d → d.scope ≠ x.scope.toNat ∨ gr.stage ≠ d.pstage) →
      ∃ t, exec (.qpush x) s = .next t ∧ Traps s t g G (s.ctx gr.ctx).trapvec (causeWord 0 0 0x0A) iss.pc iss.lanes 0 iss.frag
        ∧ t.queues = s.queues)
    ∧ (Operable [Use.w x.d] iss G → (∀ d, s.qdecl gr x.id.toNat = some d → d.scope ≠ x.scope.toNat ∨ gr.stage ≠ d.cstage) →
      ∃ t, exec (.qpop x) s = .next t ∧ Traps s t g G (s.ctx gr.ctx).trapvec (causeWord 0 0 0x0A) iss.pc iss.lanes 0 iss.frag
        ∧ t.queues = s.queues)

/-- PASSPRI (R148) passes the partition's token to the partner when the gang holds it and the partner is resident, with a run
count of 0; else it only goes on. SLEEP (R149) holds the slices of the fragment back for min(a<31:0>, 2^24) clk after this one;
a wait of 0 clk holds back none. -/
def Obligations.TokenAndSleep : Prop :=
  (∀ (s : State) (g : Nat) (G : Gang) (gr : Group) (iss : Issuer), s.issue = .gang g G gr iss → Roomy s g G [] →
    (∀ q, s.partner g = some q → q ≠ g → (s.part G.part).token = some g → s.resident q = true →
      ∃ t, exec .passpri s = .next t ∧ Completes (s.updPart G.part fun P => { P with token := some q }) t g G iss.frag noV noS 0 next8
        ∧ (t.part G.part).token = some q ∧ (t.part G.part).run = 0)
    ∧ ((∀ q, s.partner g = some q → (s.part G.part).token = some g → s.resident q = false) →
      ∃ t, exec .passpri s = .next t ∧ Completes s t g G iss.frag noV noS 0 next8))
  ∧ (∀ (x : Ops1) (s : State) (g : Nat) (G : Gang) (gr : Group) (iss : Issuer), s.issue = .gang g G gr iss → Operable [Use.r x.a] iss G →
    Roomy s g G [] →
    let n := min ((iss.rds x.a).toNat % 2 ^ 32) (2 ^ 24)
    let sleep := G.sleep.mapIdx fun k u => if iss.frag.getLsbD k && n != 0 then s.clock.toNat + 1 + n else u
    ∃ t, exec (.sleep x) s = .next t ∧ Completes s t g { G with sleep := sleep } iss.frag noV noS 0 next8)

/-- YDEP (R150) deposits one entry per active lane, rising, with the low 16 bits of a as its key and four registers as its
words, and its fragment exits; without room for all of them it raises LENGTH with the active lanes in TRAPMASK and deposits
none. -/
def Obligations.YdepDeposits : Prop :=
  ∀ (x : Ops2) (s : State) (g : Nat) (G : Gang) (gr : Group) (iss : Issuer) (n : Node) (v : Fin 640), s.issue = .gang g G gr iss →
    x.y = .v v → Operable [Use.r x.x, ⟨x.y, false, 4, 1, 1, 1⟩] iss G → Calm G → s.nodes[gr.node]? = some n →
    let es := (maskLanes iss.active).map fun l =>
      (⟨BitVec.ofNat 16 (iss.rd x.x l).toNat, [iss.getV v.val l, iss.getV (v.val + 1) l, iss.getV (v.val + 2) l, iss.getV (v.val + 3) l],
        gr.lin, iss.gang, l⟩ : YardEntry)
    (n.lr.yard ≠ 0 → n.yard.length + es.length ≤ n.lr.yard → ∃ t, exec (.ydep x) s = .next t ∧ Exits s t g G gr iss.frag
      ∧ t.nodes = s.nodes.set gr.node { n with yard := n.yard ++ es })
    ∧ (n.lr.yard = 0 ∨ n.lr.yard < n.yard.length + es.length → G.super = false → VectorRuns s G gr → ∃ t, exec (.ydep x) s = .next t ∧
        Traps s t g G (s.ctx gr.ctx).trapvec (causeWord 0 0 0x0B) iss.pc iss.active 0 iss.frag ∧ t.nodes = s.nodes)

/-- LAUNCH (R151) makes the record at a ready for the context's queue, behind the nodes that are ready before it, but leaves the
queue as it is where that node is launched and not DONE (R356); POSTR (R152) writes 32-bit values to the result word of the
launch, one after another, so that the last one stays. -/
def Obligations.LaunchSubmitsAndPostrPosts : Prop :=
  (∀ (x : Ops1) (s : State) (g : Nat) (G : Gang) (gr : Group) (iss : Issuer) (l : Leaf) (u : State), s.issue = .gang g G gr iss →
    Operable [Use.r x.a] iss G → Calm G → (iss.rds x.a).toNat < crewBase → (iss.rds x.a).toNat % 256 = 0 →
    s.drawNat.2.translate G.part gr.ctx (iss.rds x.a).toNat = (.leaf l, u) →
    ((s.ctx gr.ctx).queue.filter (·.src != .edge)).length < 1024 →
    let busy := ∃ n ∈ s.nodes, n.ctx = gr.ctx ∧ n.addr = (iss.rds x.a).toNat ∧ n.stand = .launched
    (¬busy → ∃ t, exec (.launch x) s = .next t ∧ Looked s u ∧ SameMemory s t
      ∧ Completes { u.updCtx gr.ctx fun c => { c with queue := c.queue ++ [⟨(iss.rds x.a).toNat, .device, s.stamp⟩] } with stamp := s.stamp + 1 }
          t g G iss.frag noV noS 0 next8)
    ∧ (busy → ∃ t w, exec (.launch x) s = .next t ∧ Wrote s w ∧ Completes w t g G iss.frag noV noS 0 next8
        ∧ (t.ctx gr.ctx).queue = (s.ctx gr.ctx).queue))
  ∧ ∀ (x : Ops1) (s : State) (g : Nat) (G : Gang) (gr : Group) (iss : Issuer) (n : Node) (y : Xlat) (u : State), s.issue = .gang g G gr iss →
    Operable [Use.r x.a] iss G → Calm G → s.nodes[gr.node]? = some n →
    s.checkAccess ⟨G.part, gr.ctx, G.grp, true, true⟩ none n.lr.result 4 = (.ok y, u) → y.leaf.mapped = false → u.held y.pa 4 = false →
    let vs : List Word := match x.a with
      | .v _ => (maskLanes iss.active).map fun l => iss.rd x.a l
      | _ => [(iss.rds x.a).setWidth 32]
    ∃ t w, exec (.postr x) s = .next t ∧ Wrote s w ∧ Completes w t g G iss.frag noV noS 0 next8
      ∧ (∀ v, vs.getLast? = some v → memNat t.mem y.pa 4 = v.toNat)
      ∧ (vs = [] → SameMemory s t)
      ∧ (leafDiscard s.mem y.leaf = false → (y.leaf.pte + 1 < y.pa ∨ y.pa + 4 ≤ y.leaf.pte + 1) →
          ∀ a, (a < y.pa ∨ y.pa + 4 ≤ a) → stGet (w := 8) t.mem a = stGet (w := 8) s.mem a)

/-- CRD (R85, R160 to R163) puts the value of a control register into a scalar register: MODE, FLAGS and the counters in every
mode, the others in supervisor mode. CWR in supervisor mode (R85, R160, R161, R178, R289, R378) writes a legal value to a
control register and to nothing else; a value with a reserved bit set, or an invalid one, raises ILLOP there, which ends the
group as a double trap (R158). -/
def Obligations.ControlRegisters : Prop :=
  (∀ (x : CrArgs) (v : DWord) (s : State) (g : Nat) (G : Gang) (gr : Group) (iss : Issuer), s.issue = .gang g G gr iss →
    crValue s g G gr x.idx.toNat = some v →
    x.idx.toNat ≤ 1 ∨ (0x50 ≤ x.idx.toNat ∧ x.idx.toNat ≤ 0x5F) ∨ G.super = true →
    Operable [Use.w x.r] iss G → Roomy s g G [Use.w x.r] →
    ∃ t, exec (.crd x) s = .next t ∧ Completes s t g G iss.frag noV (scalD x.r v) 0 next8)
  ∧ (∀ (x : CrArgs) (s : State) (g : Nat) (G : Gang) (gr : Group) (iss : Issuer), s.issue = .gang g G gr iss → G.super = true →
    Operable [Use.r x.r] iss G → Calm G →
    (∀ u G', CrLegal x.idx.toNat (iss.rds x.r) → crEffect s G gr x.idx.toNat (iss.rds x.r) = some (u, G') →
      ∃ t, exec (.cwr x) s = .next t ∧ Completes u t g G' iss.frag noV noS 0 next8 ∧ SameMemory s t)
    ∧ (∀ y, crEffect s G gr x.idx.toNat (iss.rds x.r) = some y → ¬CrLegal x.idx.toNat (iss.rds x.r) →
        ∃ t, exec (.cwr x) s = .next t ∧ ∀ m ∈ gr.members, t.gangEnded m = true))

/-- LD (R223 to R227): in a tail the values are on their way to the destination registers and their words stand in the read set;
in crawl mode, and from a window as an irrevocable operation, they arrive at once. A plain access reads its bytes, the lowest
first. No byte of memory changes. That a load takes its bytes when it issues, however late they arrive, is the model's choice
(notes/assumptions 40). -/
def Obligations.LoadsIssue : Prop :=
  ∀ (x : MemArgs) (s : State) (g : Nat) (G : Gang) (gr : Group) (iss : Issuer) (ok : List (Nat × Xlat)) (u : State),
    s.issue = .gang g G gr iss → (Instr.ld x).wf = true →
    Operable (dataUse x.d x.w true :: addrUses x) iss G → Granted s u x G gr iss false false ok →
    u.heldAny (ok.map (·.2)) (accessBytes x.w) = false →
    let n := accessBytes x.w
    (∀ (v : State) (rd : List (Nat × Xlat × LaneRead)), (∀ e ∈ ok, e.2.window = false) →
      u.readLanes G.core (hintOf x) G.tail n ok = (rd, v) → readFails rd = [] →
      let vals := readOk rd
      let res := loadRes x vals
      (G.crawl = false → s.requestsFull G.core (res.vw.length + res.sw.length) = false →
        v.room g G ⟨res.regs, [], readSet rd⟩ = .ok →
        ∃ t w, exec (.ld x) s = .next t ∧ Looked s w ∧ SameMemory s t
          ∧ Completes w t g { G with pend := if res.regs = [] then G.pend else G.pend ++ [⟨res.vw, res.sw⟩] } iss.frag noV noS 0 next8
          ∧ (∀ n l, n < 640 → l < 32 → lastV res.vw n l = loadedV x vals n l) ∧ (∀ n, lastS res.sw n = loadedS x vals n)
          ∧ ∃ G' tl, t.gangs[g]? = some G' ∧ G'.tail = some tl ∧ ∀ k ∈ readSet rd, k ∈ tl.reads)
      ∧ (G.crawl = true → G.tail = none → s.requestsFull G.core 0 = false → v.room g G ⟨res.regs, [], []⟩ = .ok →
        ∃ t w, exec (.ld x) s = .next t ∧ Looked s w ∧ SameMemory s t
          ∧ Completes w t g G iss.frag (loadedV x vals) (loadedS x vals) 0 next8)
      ∧ ∀ e ∈ ok, Plain s e.2 → (∀ k, k < n → bufByte G.tail (e.2.pa + k) = none ∧ s.isPoisoned ((e.2.pa + k) / 4) = false) →
          (e.1, memNat s.mem e.2.pa n) ∈ vals)
    ∧ ∀ (v : State) (rd : List (Nat × Xlat × LaneRead)), (∃ e ∈ ok, e.2.window = true) → Calm G →
      (u.touchAll G.part gr.ctx false (hintOf x) (ok.map (·.2))).readLanes G.core (hintOf x) none n ok = (rd, v) → readFails rd = [] →
      ∃ t w, exec (.ld x) s = .next t ∧ Looked s w ∧ SameMemory s t
        ∧ Completes w t g G iss.frag (loadedV x (readOk rd)) (loadedS x (readOk rd)) 0 next8

/-- ST (R207, R228, R229): in a tail the bytes stand in the store buffer and memory is as before; in crawl mode, and in a window
or on part of a tile as an irrevocable operation, the store performs. On one page it touches its own bytes, the tiles and
headers it must, and what a discarded page gets back; on a plain page every byte reads as stored, lane by lane in ascending
order, and no other byte changes. -/
def Obligations.StoresBufferOrPerform : Prop :=
  ∀ (x : MemArgs) (s : State) (g : Nat) (G : Gang) (gr : Group) (iss : Issuer) (ok : List (Nat × Xlat)) (u : State),
    s.issue = .gang g G gr iss → (Instr.st x).wf = true → Operable (dataUse x.d x.w false :: addrUses x) iss G →
    Granted s u x G gr iss true false ok → u.storeFails G.core G.tail x iss x.d.isS ok = [] →
    let n := accessBytes x.w
    let bs := storeBytes x iss x.d.isS ok
    let alone := (∃ e ∈ ok, e.2.window = true) ∨ partTile (ok.map (·.2)) bs = true
    let far := (u.farParts (ok.map (·.2)) bs).1
    (¬alone → G.crawl = false → s.room g G ⟨[], bs.foldl (fun l e => insNat l (e.1 / 128)) [], []⟩ = .ok →
      ∃ t w, exec (.st x) s = .next t ∧ Looked s w ∧ SameMemory s t ∧ Completes w t g G iss.frag noV noS 0 next8
        ∧ ∃ G' tl, t.gangs[g]? = some G' ∧ G'.tail = some tl ∧ ∀ a, bufByte (some tl) a = (lastByte bs a).or (bufByte G.tail a))
    ∧ (u.heldAny (ok.map (·.2)) n = false → (alone ∧ far = [] ∧ Calm G) ∨ (¬alone ∧ G.crawl = true ∧ Roomy s g G []) →
      ∃ t w, exec (.st x) s = .next t ∧ Wrote s w ∧ Completes w t g G iss.frag noV noS 0 next8
        ∧ ((∀ e ∈ ok, ∀ f ∈ ok, e.2.leaf = f.2.leaf ∧ e.2.window = f.2.window) → ∀ e ∈ ok, ∀ a, ¬Touched s e.2.leaf bs a →
            stGet (w := 8) t.mem a = stGet (w := 8) s.mem a)
        ∧ ((∀ e ∈ ok, ∀ f ∈ ok, e.2.leaf = f.2.leaf) →
            (∀ e ∈ ok, Plain s e.2 ∧ e.2.leaf.frame ≤ e.2.pa ∧ e.2.pa + n ≤ e.2.leaf.frame + e.2.leaf.size) →
            ∀ a, stGet (w := 8) t.mem a = (lastByte bs a).getD (stGet (w := 8) s.mem a)))
    ∧ bs = ok.flatMap fun e => (List.range n).map fun k => (e.2.pa + k, BitVec.ofNat 8 (storeData x iss x.d.isS e.1 / 2 ^ (8 * k)))

/-- ATOM and CAS (R231 to R234): lane by lane, in ascending order, memory is read and written as one event, and the value that
was there before goes to the destination. A single plain access changes its own bytes only. -/
def Obligations.AtomicsExchange : Prop :=
  ∀ (x : MemArgs) (i : Instr) (us : List Use) (f : Issuer → Nat → Nat → Nat) (s : State) (g : Nat) (G : Gang) (gr : Group) (iss : Issuer)
      (ok : List (Nat × Xlat)) (u v : State) (olds : List (Nat × Nat)), s.issue = .gang g G gr iss → i.wf = true →
    (i = .atom x ∧ us = dataUse x.d x.w true :: addrUses x
        ∧ f = fun iss l old => atomOp x.hintx.toNat (accessBytes x.w) old (storeData x iss x.d.isS l))
      ∨ (i = .cas x ∧ us = casUse x :: addrUses x ∧ f = fun iss l old => if old = (casData x iss l).1 then (casData x iss l).2 else old) →
    Operable us iss G → Calm G → Granted s u x G gr iss true true ok →
    (∀ e ∈ ok, u.rmwFail e.2 (accessBytes x.w) = none) → u.heldAny (ok.map (·.2)) (accessBytes x.w) = false →
    (u.touchAll G.part gr.ctx true (hintOf { x with hintx := 0 }) (ok.map (·.2))).rmwLanes g G.core (accessBytes x.w) (f iss) ok = (olds, v) →
    ∃ t, exec i s = .next t ∧ Wrote s v
      ∧ Completes v t g G iss.frag (loadedV { x with hintx := 0 } olds) (loadedS { x with hintx := 0 } olds) 0 next8
      ∧ ∀ e, ok = [e] → Plain s e.2 →
          let n := accessBytes x.w
          let old := memNat s.mem e.2.pa n
          olds = [(e.1, old)] ∧ memNat t.mem e.2.pa n = f iss e.1 old % 2 ^ (8 * n)
            ∧ ∀ a, (a < e.2.pa ∨ e.2.pa + n ≤ a) → stGet (w := 8) t.mem a = stGet (w := 8) s.mem a

/-- RED (R235, R236) issues one operation of class rd with one element for each lane, translated or deferred; SMRG (R237) one
with its merge, from all lanes, when a lane of the fragment is active, and otherwise only goes on. Memory is as before. -/
def Obligations.FarReductionsIssue : Prop :=
  (∀ (x : MemArgs) (s : State) (g : Nat) (G : Gang) (gr : Group) (iss : Issuer) (far : Nat → Option Xlat), s.issue = .gang g G gr iss →
    Operable (dataUse x.d x.w false :: addrUses x) iss G → Calm G → Free G 5 →
    let n := accessBytes x.w
    let las := accesses x iss G gr x.d.isS
    (xtEmpty x G gr = false ∨ las = []) →
    (∀ e ∈ las, s.farResolve ⟨G.part, gr.ctx, G.grp, true, true⟩ (accessXt x G gr) e.2 n n = .ok (far e.2)
      ∧ ∀ y, far e.2 = some y → s.rmwFail y n = none) →
    let es := las.map fun e => Elem.red e.2 (far e.2) (BitVec.ofNat 64 (storeData x iss x.d.isS e.1))
    ∃ t, exec (.red x) s = .next t ∧ SameMemory s t
      ∧ Completes (s.issueOp g 5 (.red x.hintx.toNat (x.w == 3)) es (leavesOf (las.filterMap fun e => far e.2)) false).gather t g
          (G.oneMore 5) iss.frag noV noS 0 next8)
  ∧ ∀ (x : MemArgs) (s : State) (g : Nat) (G : Gang) (gr : Group) (iss : Issuer) (far : Option Xlat), s.issue = .gang g G gr iss →
    Operable (smrgUse x :: (addrUses x).drop 1) iss G → Calm G →
    let va := (laneAddr x iss G gr true 0).toNat
    (iss.active = 0 → ∃ t, exec (.smrg x) s = .next t ∧ Completes s t g G iss.frag noV noS 0 next8)
    ∧ (iss.active ≠ 0 → Free G 5 → s.farResolve ⟨G.part, gr.ctx, G.grp, true, true⟩ none va 1024 (128 * (1 + x.hintx.toNat)) = .ok far →
      (∀ y, far = some y → y.leaf.mapped = false
        ∧ (leafDiscard s.mem y.leaf = true ∨ ∀ k, k < 32 * (1 + x.hintx.toNat) → s.isPoisoned (y.pa / 4 + k) = false)) →
      ∃ t, exec (.smrg x) s = .next t ∧ SameMemory s t
        ∧ Completes (s.issueOp g 5 .smrg [.merge va far (smrgData x iss).1 (smrgData x iss).2.1 (smrgData x iss).2.2]
            (leavesOf far.toList) false).gather t g (G.oneMore 5) iss.frag noV noS 0 next8)

/-- CPY in its five forms (R241 to R244) and CPYM (R245) issue one operation of class cp: an element for each word of an
unmapped destination, for each tile of a mapped one, and for each mapped tile of the source. -/
def Obligations.CopiesIssue : Prop :=
  (∀ x : CpyArgs, (Instr.cpy x).wf = true →
    Accepted (.cpy x) ([Use.r x.d, Use.r x.a, Use.r x.b] ++ if x.form = 0 then [] else [Use.r x.c]) 0 (fun _ => .copy x.hint.toNat) (fun _ => true)
      fun s G gr i =>
        let d := (i.rds x.d).toNat
        match cpyPlan x.form.toNat x.ew.toNat d (i.rds x.a).toNat (i.rds x.b).toNat (i.rds x.c).toNat with
        | .error _ => none
        | .ok p => match s.checkPlan ⟨G.part, gr.ctx, G.grp, false, false⟩ p with
          | (.ok ps, u) => if x.form = 2 && !inCrew d then none else some (planElems 0 ps p, ps, u)
          | _ => none)
  ∧ ∀ x : CpymArgs, Accepted (.cpym x) [Use.r x.d, Use.r x.a] 0 (fun _ => .copy x.hint.toNat) (fun _ => true) fun s G gr i =>
      let va := (i.rds x.d).toNat
      let n := (i.rds x.a).toNat
      let c : Accessor := ⟨G.part, gr.ctx, G.grp, false, false⟩
      if va % 32 ≠ 0 ∨ n < 1 ∨ 4096 < n then none
      else match s.readList c G.core va n with
        | (.ok l, u) => match u.checkList c va 0 l with
          | (.ok (es, ps), v) => some (es, ps, v)
          | _ => none
        | _ => none

/-- MSCL, MOFS, MCLP, MFIL, MPRM, MMAT, MDROP and MSET (R268 to R273) issue one operation of class mp with an element for each
tile of the range, all with the edit that the instruction names. -/
def Obligations.MapCommandsIssue : Prop :=
  ∀ (i : Instr) (x : MapArgs) (us : List Use) (bad : Issuer → Bool) (pre : Bool) (m : Issuer → MapCmd),
    mapCommand i = some (x, us, bad, pre, m) → Accepted i us 2 (fun iss => .map (m iss)) (fun _ => true) (mapPlan x bad pre)

/-- KVFORK, KVDROP, KVEVICT and KVSETPOS (R281, R316, R317) check and read at issue, write nothing, and issue one operation of
class kv with their elements. KVAPP (R281, R300, R316) issues one too; where it opens a page it pops it from the pool at issue:
COUNT goes down by one, the table's entry names the page, NPAGES goes up by one, and the page's descriptor has REFCNT 1, no slot
and the next position; where it opens none, and everywhere else, no byte of memory changes. -/
def Obligations.KeyValueCommandsIssue : Prop :=
  (∀ (i : Instr) (us : List Use) (f : State → KvAsk → Context → KRes (List Elem × List (Nat × Leaf))), kvCommands i = some (us, f) →
    Accepted i us 3 (fun _ => .kv) (fun _ => true) fun s G gr iss =>
      match f s ⟨⟨G.part, gr.ctx, G.grp, false, false⟩, G.core, iss⟩ (s.ctx gr.ctx) with
      | .ok (es, ps) u => some (es, ps, u)
      | _ => none)
  ∧ ∀ (x : KvArgs) (s : State) (g : Nat) (G : Gang) (gr : Group) (iss : Issuer) (es : List Elem) (ps : List (Nat × Leaf)) (u : State),
    s.issue = .gang g G gr iss → Operable [Use.r x.d, Use.r x.a, Use.r x.b] iss G → Calm G → Free G 3 →
    s.kvAppPlan x ⟨⟨G.part, gr.ctx, G.grp, false, false⟩, G.core, iss⟩ (s.ctx gr.ctx) = .ok (es, ps) u →
    let q : KvAsk := ⟨⟨G.part, gr.ctx, G.grp, false, false⟩, G.core, iss⟩
    let kb := (s.ctx gr.ctx).kvbase.toNat
    let pool := (s.ctx gr.ctx).kvpool.toNat
    let d := (iss.rds x.d).toNat
    ∃ t, exec (.kvapp x) s = .next t ∧ Wrote s u
      ∧ Completes (u.issueOp g 3 .kv es ps false) t g (G.oneMore 3) iss.frag noV noS 0 next8
      ∧ (∀ l n c last u0 u1, s.kvTable q d = .ok (l, n, c) u0 → u0.kvPages q kb d (n.v - 1) (if n.v = 0 then 0 else 1) = .ok last u1 →
          needsPage last.head? = false → SameMemory s t)
      ∧ ∀ px ex nx y count id np e pos, OpensPage s q kb pool d px ex nx y count id np e pos →
          let rs := [(px.pa, 4), (y.pa, 32), (ex.pa, 4), (nx.pa, 4)]
          Disjoint rs → OnLivePages s [px, ex, nx, y] rs →
          memNat t.mem px.pa 4 = count - 1 ∧ memNat t.mem ex.pa 4 = id ∧ memNat t.mem nx.pa 4 = (np + 1) % 2 ^ 32
            ∧ memNat t.mem y.pa 32 = ({ e with ref := 1, surv := 0, pos := pos, form := e.form - e.fill } : Desc).toNat ∧ SameOutside s t rs

/-- KVLDK and KVLDV (R284, R298, R318, R319): the two elements of each lane, rotated by the position for a key, and 1 in the
flag register where the survivor bit is clear; in a tail on their way to the registers, in crawl mode at once. That they are
read when the load issues, however late they arrive, is the model's choice (notes/assumptions 40). In crawl mode some of its
reads may already stand made, apart from the others (`Gang.seen`, R187): they count as they were then. -/
def Obligations.KeyValueLoads : Prop :=
  ∀ (x : KvArgs) (key : Bool) (i : Instr) (s : State) (g : Nat) (G : Gang) (gr : Group) (iss : Issuer) (d : Desc) (j : Nat) (got : KvGot)
      (u v : State) (k : KvLanes), s.issue = .gang g G gr iss → i.wf = true →
    (i = if key then .kvldk x else .kvldv x) → Operable (kvLoadUses x) iss G →
    (s.ctx gr.ctx).kvbase ≠ 0 → (key = true → (s.ctx gr.ctx).rotbase ≠ 0) →
    s.kvHead ⟨G.part, gr.ctx, G.grp, false, false⟩ G.tail (.start G.seen false) (s.ctx gr.ctx).kvbase.toNat (iss.rds x.a).toNat ((iss.rds x.b).toNat % 2 ^ 32)
      = .ok d j got u →
    u.kvLanes ⟨G.part, gr.ctx, G.grp, false, false⟩ G.tail ⟨[], [], [], got⟩
      ((maskLanes iss.active).map fun l => (l, kvAddrs x key d j (s.ctx gr.ctx).rotbase.toNat l)) = some (k, v) →
    k.early = [] → k.late = [] →
    let res : Res := ⟨k.vals.flatMap fun e => kvWrite x e.1 (if e.2.isEmpty then (0, 0) else kvPair key d j e.2) (!bitOf d.surv j), [], 0⟩
    (G.crawl = false → s.requestsFull G.core res.vw.length = false → v.room g G ⟨res.regs, [], k.got.reads⟩ = .ok →
      ∃ t w, exec i s = .next t ∧ Looked s w ∧ SameMemory s t
        ∧ Completes w t g { G with midway := none, pend := if res.regs = [] then G.pend else G.pend ++ [⟨res.vw, []⟩] } iss.frag
          noV noS 0 next8)
    ∧ (G.crawl = true → G.tail = none → s.requestsFull G.core 0 = false → v.room g G ⟨res.regs, [], []⟩ = .ok →
      ∃ t w, exec i s = .next t ∧ Looked s w ∧ SameMemory s t
        ∧ Completes w t g { G with midway := none } iss.frag (lastV res.vw) noS 0 next8)

/-- KVPOP and KVREF in supervisor mode (R280, R283, R320). KVPOP takes the last id of the pool's array: COUNT goes down by one,
the page's descriptor has REFCNT 1 and no slot, and d is the id. KVREF gives the descriptor its new REFCNT, which is d; at 0 the
page goes to the pool, or is lost where COUNT has reached CAP. Where they fail d is all ones, and nothing changes but the log. -/
def Obligations.PoolInstructions : Prop :=
  ∀ (x : KvArgs) (s : State) (g : Nat) (G : Gang) (gr : Group) (iss : Issuer), s.issue = .gang g G gr iss →
    G.super = true → Calm G → (s.ctx gr.ctx).kvbase ≠ 0 → (s.ctx gr.ctx).kvpool ≠ 0 → s.logq = [] →
    let c : Accessor := ⟨G.part, gr.ctx, G.grp, true, true⟩
    let kb := (s.ctx gr.ctx).kvbase.toNat
    let pool := (s.ctx gr.ctx).kvpool.toNat
    (∀ p u, Operable [Use.w x.d] iss G → PoolWord s u c pool 16 16 true p → s.poolBusy p.pa = true →
      ∃ t, exec (.kvpop x) s = .next t ∧ Waits s t g) ∧
    ((∀ pa, s.poolBusy pa = false) →
    let gives (i : Instr) (v : DWord) (mem : State → Prop) : Prop :=
      ∃ t u, exec i s = .next t ∧ Wrote s u ∧ Completes u t g G iss.frag noV (scalD x.d v) 0 next8 ∧ mem t
    (Operable [Use.w x.d] iss G →
      (∀ p y count id d, Pops s c kb pool p y count id d → gives (.kvpop x) (BitVec.ofNat 64 id) fun t =>
        OnLivePages s [p, y] [(p.pa, 4), (y.pa, 32)] → Disjoint [(p.pa, 4), (y.pa, 32)] →
          memNat t.mem p.pa 4 = count - 1
          ∧ memNat t.mem y.pa 32 = ({ d with ref := 1, surv := 0, form := d.form - d.fill } : Desc).toNat
          ∧ SameOutside s t [(p.pa, 4), (y.pa, 32)])
      ∧ (PopFails s c kb pool → gives (.kvpop x) (BitVec.allOnes 64) fun t => SameOutsideLog s t gr.ctx))
    ∧ (Operable [Use.w x.d, Use.r x.a, Use.r x.b] iss G →
      let id := (iss.rds x.a).toNat % 2 ^ 32
      let delta := ((iss.rds x.b).setWidth 32).toInt
      (∀ y d z, Refs s z c kb id y d →
        let n : Int := d.ref + delta
        let d' : Desc := { d with ref := n.toNat }
        (0 < n → n ≤ 65535 → gives (.kvref x) (BitVec.ofInt 64 n) fun t => leafDiscard s.mem y.leaf = false →
          memNat t.mem y.pa 32 = d'.toNat ∧ SameOutside s t [(y.pa, 32)])
        ∧ (∀ p w u v, n = 0 → PoolWord z u c pool 16 16 true p → pageNat u p 0 4 < pageNat u p 4 4 →
            PoolWord u v c (pageNat u p 8 8 + 4 * pageNat u p 0 4) 4 4 true w → gives (.kvref x) 0 fun t =>
              OnLivePages s [p, w, y] [(p.pa, 4), (w.pa, 4), (y.pa, 32)] → Disjoint [(p.pa, 4), (w.pa, 4), (y.pa, 32)] →
              memNat t.mem y.pa 32 = d'.toNat ∧ memNat t.mem w.pa 4 = id ∧ memNat t.mem p.pa 4 = pageNat u p 0 4 + 1
              ∧ SameOutside s t [(p.pa, 4), (w.pa, 4), (y.pa, 32)])
        ∧ ∀ p u, n = 0 → PoolWord z u c pool 16 16 true p → pageNat u p 4 4 ≤ pageNat u p 0 4 → gives (.kvref x) 0 fun t =>
            leafDiscard s.mem y.leaf = false → (∀ a, y.pa ≤ a → a < y.pa + 32 → OutsideLog s gr.ctx a) →
            memNat t.mem y.pa 32 = d'.toNat
            ∧ ∀ a, OutsideLog s gr.ctx a → (a < y.pa ∨ y.pa + 32 ≤ a) → stGet (w := 8) t.mem a = stGet (w := 8) s.mem a)
      ∧ (RefFails s c kb pool id delta → gives (.kvref x) (BitVec.allOnes 64) fun t => SameOutsideLog s t gr.ctx)))

/-- XLATE (R175, R221, R240): the gang sees the new translation register; in a tail as its own view, else for its group. A
malformed entry that ends its walk goes to the error log (R173): in a tail it is among the walks that the tail records at
commit, in crawl mode its record is written at once. -/
def Obligations.TranslationRegisters : Prop :=
  ∀ (x : XlateArgs) (s : State) (g : Nat) (G : Gang) (gr : Group) (iss : Issuer) (y : Xt) (bad : Option Nat) (u : State), s.issue = .gang g G gr iss →
    Operable [Use.r x.a] iss G → s.check1 G.grp (iss.rds x.a).toNat = true → s.room g G ⟨[.xt x.n.val], [], []⟩ = .ok →
    s.xlateOf ⟨G.part, gr.ctx, G.grp, false, false⟩ (iss.rds x.a).toNat = (y, bad, u) →
    Looked s u ∧ y.valid = true ∧ y.base = iss.rds x.a
    ∧ (G.crawl = false → ∃ t, exec (.xlate x) s = .next t ∧ Completes u t g G iss.frag noV noS 0 next8
        ∧ ∃ G', t.gangs[g]? = some G' ∧ G'.xtView gr x.n.val = y ∧ (∀ k, k ≠ x.n.val → G'.xtView gr k = G.xtView gr k)
          ∧ ∀ pte, bad = some pte → ∃ tl, G'.tail = some tl ∧ pte ∈ tl.walks)
    ∧ (G.crawl = true → G.tail = none → ∃ t w, exec (.xlate x) s = .next t ∧ Wrote s w ∧ (bad = none → w = u)
        ∧ (∀ pte, bad = some pte → LogsWalk s t gr.ctx pte)
        ∧ Completes (w.updGroup G.grp fun gr => { gr with xt := gr.xt.modify x.n.val fun _ => y }) t g G iss.frag noV noS 0 next8)

/-- PGMAP, PGINV, PGATTR and LINECLR in supervisor mode (R177, R246 to R249). PGMAP takes the last frame of the tier's array:
the count goes down by one, the 64 KiB of the frame read 0, the level-0 entry becomes valid with that frame, every other byte is
as before, and d is the frame; where it may not d is 0 and no memory changes but the log. PGINV leaves no entry of the range in
a TLB and marks the translation registers over it; PGATTR writes the attribute bits of a leaf and invalidates its page, and
answers 1, or 0 without a leaf; LINECLR writes a line of zeros and answers 1. -/
def Obligations.PageTableMaintenance : Prop :=
  ∀ (s : State) (g : Nat) (G : Gang) (gr : Group) (iss : Issuer), s.issue = .gang g G gr iss → G.super = true → Calm G →
    (∀ x : Ops2, Operable [Use.w x.x, Use.r x.y] iss G →
      let va := (iss.rds x.y).toNat
      (∀ pte, FirstTouch s gr.ctx va pte →
        let e := memNat s.mem pte 8
        let c := poolCountAt s gr.ctx e
        let n := memNat s.mem c 4
        let slot := memNat s.mem (c + 8) 8 + 8 * (n - 1)
        let f := memNat s.mem slot 8
        let busy := s.held c 16 = true ∨ (n ≠ 0 ∧ (s.held slot 8 = true ∨ s.held f 65536 = true ∨ s.held pte 8 = true))
        (busy → ∃ t, exec (.pgmap x) s = .next t ∧ Waits s t g)
        ∧ (¬busy → n ≠ 0 → ∃ t u, exec (.pgmap x) s = .next t ∧ Wrote s u ∧ Completes u t g G iss.frag noV (scalD x.x (BitVec.ofNat 64 f)) 0 next8
            ∧ (Disjoint [(c, 4), (f, 65536), (pte, 8)] → memNat t.mem c 4 = n - 1 ∧ (∀ k, k < 65536 → stGet (w := 8) t.mem (f + k) = 0)
              ∧ (∀ k, k < 64 → (memNat t.mem pte 8).testBit k =
                  if k = 0 then true else if k = 9 then false else if 16 ≤ k ∧ k < 52 then f.testBit k else e.testBit k)
              ∧ SameOutside s t [(c, 4), (f, 65536), (pte, 8)]))
        ∧ (¬busy → n = 0 → ∃ t u, exec (.pgmap x) s = .next t ∧ Looked s u ∧ SameMemory s t
            ∧ Completes u t g G iss.frag noV (scalD x.x 0) 0 next8))
      ∧ ((¬∃ pte, FirstTouch s gr.ctx va pte) →
          ∃ t u, exec (.pgmap x) s = .next t ∧ Wrote s u ∧ Completes u t g G iss.frag noV (scalD x.x 0) 0 next8
            ∧ (s.logq = [] → SameOutsideLog s t gr.ctx)
            ∧ (crewBase ≤ va ∨ (∀ p, walkVa s.mem (s.ctx gr.ctx).root va ≠ .malformed p) → SameMemory s t)))
    ∧ (∀ x : Ops2, Operable [Use.r x.x, Use.r x.y] iss G →
      let lo := if iss.rds x.y = 0 then 0 else (iss.rds x.x).toNat
      let hi := if iss.rds x.y = 0 then 2 ^ 65 else (iss.rds x.x).toNat + (iss.rds x.y).toNat
      s.invBusy gr.ctx lo hi = false →
      ∃ t, exec (.pginv x) s = .next t ∧ Completes (s.pginv gr.ctx lo hi) t g G iss.frag noV noS 0 next8 ∧ SameMemory s t
        ∧ (∀ e ∈ t.tlb, e.ctx = gr.ctx → e.page < hi → ¬lo < e.page + e.leaf.size)
        ∧ ∀ gr' ∈ t.groups, gr'.ctx = gr.ctx → ∀ y ∈ gr'.xt, y.valid = true → y.base.toNat < hi → lo < y.limit.toNat → y.stale = true)
    ∧ (∀ (x : Ops3), Operable [Use.w x.d, Use.r x.a, Use.r x.b] iss G →
      let va := (iss.rds x.a).toNat
      let b := (iss.rds x.b).toNat
      (∀ l, va < crewBase → walkVa s.mem (s.ctx gr.ctx).root va = .leaf l →
        let page := va / l.size * l.size
        let flips := b.testBit 7 != l.mapped
        let s0 := (s.walk gr.ctx va).2
        let m := if !flips then s0 else if l.mapped then (tilesOfLeaf l).foldl (fun u t => u.unmapTile gr.ctx (s.nodeAddr G.grp) t (dieOf G.core)) s0
          else (tilesOfLeaf l).foldl State.mapTile s0
        let e := memNat m.mem l.pte 8
        let w := m.writeNat none none l.pte 8 ((e - (e &&& 0x338C)) + (b &&& 0x338C))
        s.invBusy gr.ctx page (page + l.size) = false → s.held l.pte 8 = false →
        (flips = true → s.held l.frame l.size = false ∧ s.held l.hframe (l.size / 8) = false) →
        ∃ t, exec (.pgattr x) s = .next t ∧ Wrote s w
          ∧ Completes (w.pginv gr.ctx page (page + l.size)) t g G iss.frag noV (scalD x.d 1) 0 next8
          ∧ memNat t.mem l.pte 8 = (e - (e &&& 0x338C)) + (b &&& 0x338C)
          ∧ (flips = false → ∀ a, (a < l.pte ∨ l.pte + 8 ≤ a) → stGet (w := 8) t.mem a = stGet (w := 8) s.mem a))
      ∧ ((crewBase ≤ va ∨ ∃ n p, walkVa s.mem (s.ctx gr.ctx).root va = .invalid n p) →
        ∃ t u, exec (.pgattr x) s = .next t ∧ Looked s u ∧ SameMemory s t ∧ Completes u t g G iss.frag noV (scalD x.d 0) 0 next8)
      ∧ ∀ pte, va < crewBase → walkVa s.mem (s.ctx gr.ctx).root va = .malformed pte →
        ∃ t u, exec (.pgattr x) s = .next t ∧ Wrote s u ∧ Completes u t g G iss.frag noV (scalD x.d 0) 0 next8
          ∧ LogsWalk s t gr.ctx pte ∧ (s.logq = [] → SameOutsideLog s t gr.ctx))
    ∧ (∀ x : Ops2, Operable [Use.w x.x, Use.r x.y] iss G →
      let va := (iss.rds x.y).toNat
      ((crewBase ≤ va ∨ ∃ u, (∃ n p, s.translate G.part gr.ctx va = (.invalid n p, u))
          ∨ ∃ l, s.translate G.part gr.ctx va = (.leaf l, u) ∧ (l.write = false ∨ paTier (l.frame + va % l.size) = none)) →
        ∃ t u, exec (.lineclr x) s = .next t ∧ Looked s u ∧ SameMemory s t ∧ Completes u t g G iss.frag noV (scalD x.x 0) 0 next8)
      ∧ ∀ pte z, va < crewBase → s.translate G.part gr.ctx va = (.malformed pte, z) →
        ∃ t u, exec (.lineclr x) s = .next t ∧ Wrote s u ∧ Completes u t g G iss.frag noV (scalD x.x 0) 0 next8
          ∧ LogsWalk s t gr.ctx pte ∧ (s.logq = [] → SameOutsideLog s t gr.ctx))
    ∧ ∀ (x : Ops2) (l : Leaf) (u : State), Operable [Use.w x.x, Use.r x.y] iss G →
      let va := (iss.rds x.y).toNat
      let pa := l.frame + va % l.size
      va < crewBase → s.translate G.part gr.ctx va = (.leaf l, u) → l.write = true → paTier pa ≠ none →
      u.engineHeld l (pa / 128 * 128) 128 = false →
      let w := (u.revive l).clearLine l G.core (pa / 128) ((s.ctx gr.ctx).inWindow va)
      ∃ t, exec (.lineclr x) s = .next t ∧ Wrote s w ∧ Completes w t g G iss.frag noV (scalD x.x 1) 0 next8
        ∧ (isFar (pa / 128 * 128) = false → (l.mapped = true → Apart (tileOf l (pa / 128 * 128))) → ∀ k, k < 128 → stGet (w := 8) t.mem (pa / 128 * 128 + k) = 0)
        ∧ (isFar (pa / 128 * 128) = false → l.mapped = false → leafDiscard s.mem l = false →
            ∀ a, (a < pa / 128 * 128 ∨ pa / 128 * 128 + 128 ≤ a) → stGet (w := 8) t.mem a = stGet (w := 8) s.mem a)

/-- PREF (R230) goes on and only looks at memory: it leaves at most lines in the caches. CLEAN and INVAL (R199, R239) go on once
the lines of the range are maintained at their scope, CLEAN at system scope when the host has acknowledged every write; from
scope 5 the bytes written in the issuing core's window copies stand at their home slices, from scope 6 those and the slices' own
in memory; CLEAN leaves the copies clean, INVAL drops them; no other byte of memory changes. MGET (R274) puts the header of a
tile into four scalars; that the whole tile enters the read set of its tail is the model's choice (notes/assumptions 62). -/
def Obligations.PrefetchMaintenanceAndMget : Prop :=
  ∀ (s : State) (g : Nat) (G : Gang) (gr : Group) (iss : Issuer), s.issue = .gang g G gr iss →
    (∀ x : MemArgs, Operable (addrUses x) iss G → Roomy s g G [] →
      (∃ t u, exec (.pref x) s = .next t ∧ Wrote s u ∧ Completes u t g G iss.frag noV noS 0 next8)
      ∧ ((∀ e ∈ accesses x iss G gr false, ∀ p, walkVa s.mem (s.ctx gr.ctx).root e.2 ≠ .malformed p) →
        ∃ t, exec (.pref x) s = .next t ∧ SameMemory s t ∧
          let u := (accesses x iss G gr false).foldl (fun s e => s.prefLane x g G gr e.2) s
          Looked s u ∧ Completes u t g G iss.frag noV noS 0 next8))
    ∧ (∀ (x : MaintArgs) (inval : Bool), Operable [Use.r x.a, Use.r x.b] iss G → Calm G →
      let i : Instr := if inval then .inval x else .clean x
      let va := (iss.rds x.a).toNat
      let n := (iss.rds x.b).toNat % 2 ^ 32
      let hi := va + n - 1
      let waits := inval = false ∧ x.scope = 7
      let clean := s.farPend = 0 ∧ ∀ c, c ∈ s.l1win ∨ c ∈ s.l2win → isFar (128 * c.line) = true → c.dirty = 0
      (¬waits ∨ clean → ∃ t u, exec i s = .next t ∧ Wrote s u ∧ Completes u t g G iss.frag noV noS 0 next8)
      ∧ (waits → s.farPend ≠ 0 → ∃ t u, exec i s = .next t ∧ Wrote s u ∧ Waits u t g)
      ∧ ∀ t, exec i s = .next t →
          (∀ c ∈ s.l1win, c.unit ≠ G.core → c ∈ t.l1win)
          ∧ (s.logq = [] → ∀ a, OutsideLog s gr.ctx a → ¬DirtyInWindow s a → stGet (w := 8) t.mem a = stGet (w := 8) s.mem a)
          ∧ ∀ (l : Leaf) (u : State) (k : Nat), n ≠ 0 → va < crewBase → va / 65536 = hi / 65536 →
              s.translate G.part gr.ctx va = (.leaf l, u) → leafDiscard s.mem l = false → InLines s gr.ctx l va hi k →
              Maintained s t G.core x.scope.toNat inval k)
    ∧ ∀ (x : Ops2) (y : Xlat) (u : State) (n : Fin 64), x.x = .s n → Operable [⟨x.x, true, 1, 1, 4, 4⟩, Use.r x.y] iss G →
      s.checkAccess ⟨G.part, gr.ctx, G.grp, false, false⟩ none (iss.rds x.y).toNat 1 = (.ok y, u) → u.mgetFail G.tail y = none →
      let tl := tileOf y.leaf y.pa
      let h := u.seenHdr G.tail tl
      u.heldAny [y] 1 = false →
      s.room g G ⟨[.s n.val, .s (n.val + 1), .s (n.val + 2), .s (n.val + 3)], [], if G.crawl then [] else tl.words⟩ = .ok →
      ∃ t, exec (.mget x) s = .next t ∧ Looked s u ∧ SameMemory s t
        ∧ Completes u t g G iss.frag noV
            (fun k => if k = n.val + 3 then some 0 else if n.val ≤ k ∧ k < n.val + 3 then some (BitVec.ofNat 64 (h / 2 ^ (64 * (k - n.val)))) else none)
            0 next8

/-- A bank core (R71, R330, R337, R338): the register-only words that it accepts have the values of the cores' tables at 32
lanes, BR and BRC jump, the structured words change the 2-bit counters, LD and ST reach the bytes of the instance's segment,
EXIT ends the instance with its bytes; a word outside R71, or an operand outside it, aborts it with ILLOP, and a counter that
would go past 3 with DIVOVF (R30). That a scalar register as A of IF and BRK is tested on its low 32 bits, that the slot
performs a word whole, and that an odd register in a 64-bit position gives ILLOP, is the model's choice (notes/assumptions 34,
22 and 62). -/
def Obligations.BankKernelWords : Prop :=
  ∀ (s : State) (b : Nat) (k : Kernel) (iss : Issuer), s.issue = .bank b k iss →
    (∀ (i : Instr) (o : RegOp), bankTable i = some o → i.wf = true → (∀ u ∈ o.uses, u.badBank iss = false) →
      ∃ t, exec i s = .next t ∧ OnlyKernel s t b fun k' =>
        (∀ n l, l < 32 → stGet k'.v (32 * n + l) = (o.lane iss n l).getD (stGet k.v (32 * n + l)))
        ∧ (∀ n, stGet k'.s n = (o.scal iss n).getD (stGet k.s n)) ∧ k' = { k with v := k'.v, s := k'.s, pc := k.pc + 8 })
    ∧ (∀ x : Branch, (∃ t, exec (.br x) s = .next t ∧ OnlyKernel s t b fun k' => k' = { k with pc := branchTarget k.pc x.ofs })
      ∧ ((Use.r x.a).badBank iss = false → ∃ t, exec (.brc x) s = .next t ∧ OnlyKernel s t b fun k' =>
          k' = { k with pc := if condition x.cond.toNat (iss.rds x.a) then branchTarget k.pc x.ofs else k.pc + 8 }))
    ∧ (∀ i : Instr, (∀ c n, (nestTable i c n).isSome = true) → (∀ u ∈ nestUses i, u.badBank iss = false) →
      let c (l : Nat) : Bool := match nestCond i with | some (o, q) => condition q (iss.rd o l) | none => false
      (∀ l n, l < 32 → nestTable i (c l) (stGet k.nest l).toNat = some n → n ≤ 3) →
      ∃ t, exec i s = .next t ∧ OnlyKernel s t b fun k' => k' = { k with nest := k'.nest, pc := k'.pc }
        ∧ (∀ l, l < 32 → nestTable i (c l) (stGet k.nest l).toNat = some (stGet k'.nest l).toNat)
        ∧ ((∃ l, l < 32 ∧ stGet k'.nest l = 0) ∨ nestTarget i = none → k'.pc = k.pc + 8)
        ∧ ∀ ofs, nestTarget i = some ofs → (¬∃ l, l < 32 ∧ stGet k'.nest l = 0) → k'.pc = branchTarget k.pc ofs)
    ∧ (∀ x : Branch, ∃ t, exec (.endloop x) s = .next t ∧ OnlyKernel s t b fun k' =>
        ((∃ l, l < 32 ∧ stGet k.nest l = 0) → k' = { k with pc := branchTarget k.pc x.ofs })
        ∧ ((¬∃ l, l < 32 ∧ stGet k.nest l = 0) → k' = { k with nest := k'.nest, pc := k.pc + 8 }
            ∧ ∀ l, l < 32 → (stGet k'.nest l).toNat = (stGet k.nest l).toNat - 1))
    ∧ (∀ i : Instr, (∃ x, i = .ifOp x ∨ i = .loop x) → (∀ u ∈ nestUses i, u.badBank iss = false) →
        (∃ l, l < 32 ∧ (stGet k.nest l).toNat = 3) → exec i s = .next (s.abortKernel b .divovf k.pc.toNat))
    ∧ (∀ x : MemArgs, bankMemOk x = true → (∀ u ∈ dataUse x.d x.w true :: addrUses x, u.badBank iss = false) →
      let n := accessBytes x.w
      let las := bankAccesses x iss x.d.isS
      (∀ e ∈ las, k.seg ≤ e.2 ∧ e.2 + n ≤ k.seg + k.segLen ∧ e.2 % n = 0 ∧ s.badTile b (bankBase b + e.2) = none
        ∧ s.isPoisoned ((bankBase b + e.2) / 4) = false) →
      (∃ t, exec (.ld x) s = .next t ∧ OnlyKernel s t b fun k' =>
        let vals := las.map fun e => (e.1, memNat s.mem (bankBase b + e.2) n)
        (∀ m l, l < 32 → stGet k'.v (32 * m + l) = (loadedV x vals m l).getD (stGet k.v (32 * m + l)))
        ∧ (∀ m, stGet k'.s m = (loadedS x vals m).getD (stGet k.s m)) ∧ k' = { k with v := k'.v, s := k'.s, pc := k.pc + 8 })
      ∧ ∃ t w, exec (.st x) s = .next t ∧ Wrote s w ∧ OnlyKernel w t b (fun k' => k' = { k with pc := k.pc + 8 })
        ∧ ∀ a, stGet (w := 8) t.mem a = (lastByte (las.flatMap fun e => (List.range n).map fun j =>
            (bankBase b + e.2 + j, BitVec.ofNat 8 (storeData x iss x.d.isS e.1 / 2 ^ (8 * j)))) a).getD (stGet (w := 8) s.mem a))
    ∧ (∀ n, s.running b = some n → ∃ t, exec .exit s = .next t ∧ t = s.finishItem n k.segLen false)
    ∧ (∀ i : Instr, i.fields ≠ [] → bankWord i = false → exec i s = .next (s.abortKernel b .illop k.pc.toNat))
    ∧ (∀ (i : Instr) (o : RegOp), bankTable i = some o → (∃ u ∈ o.uses, u.badBank iss = true) →
        exec i s = .next (s.abortKernel b .illop k.pc.toNat))
    ∧ (∀ (i : Instr) (x : Branch), i = .brc x ∨ i = .ifOp x ∨ i = .brk x → (Use.r x.a).badBank iss = true →
        exec i s = .next (s.abortKernel b .illop k.pc.toNat))
    ∧ ∀ x : MemArgs,
        (bankMemOk x = false ∨ (∃ u ∈ dataUse x.d x.w true :: addrUses x, u.badBank iss = true) →
          exec (.ld x) s = .next (s.abortKernel b .illop k.pc.toNat))
        ∧ (bankMemOk x = false ∨ (∃ u ∈ dataUse x.d x.w false :: addrUses x, u.badBank iss = true) →
          exec (.st x) s = .next (s.abortKernel b .illop k.pc.toNat))

/-- The ten tile commands of BKT (R322 to R325, R341): a legal block issues one operation of class bk and one bank command,
whose shares go to the bank cores that own the destination rows; a DOT or IDOT whose length is refused later issues too. BKL
(R332 to R335), BKIR (R344 to R346) and BKM (R197, R327): a legal block of BKL issues a kernel whose instances are the
physically contiguous runs of its range, one of BKIR a reduction with a packet for each bag, and BKM begins a new epoch of the
group's bank commands. A row where no valid page lies may not cross a multiple of 64 KiB, which is the model's choice
(notes/assumptions 55). -/
def Obligations.BankCommandsIssue : Prop :=
  (∀ (i : Instr) (code : Nat) (x : Ops3) (s : State) (g : Nat) (G : Gang) (gr : Group) (iss : Issuer) (counter : Nat) (bs : List Byte)
      (u v : State), bktCode i = some (code, x) → s.issue = .gang g G gr iss → Operable [Use.r x.d, Use.r x.a, Use.r x.b] iss G →
    Calm G → Free G 4 → s.counterCheck G gr iss (iss.rds x.d).toNat (iss.rds x.a).toNat = (.ok counter, u) →
    u.issueRead (bankAccessor G gr true) iss false (iss.rds x.d).toNat 64 = (.ok bs, v) →
    let b := BankBlock.ofBytes bs (iss.rds x.b).toNat
    b.cmd = code → fieldAt bs 3 1 = 0 → bankFmtOk b = true → bankExtra b = false → bankSizesOk b = true → bankAligned b = true →
    (∀ ps w, bankRefused b = false → v.stackPages (bankAccessor G gr false) iss (bankSources b) (bankDests b) = (.ok ps, w) →
      ∃ t, exec i s = .next t ∧ Looked s w ∧ SameMemory s t
        ∧ Completes (w.withCmd g (freshCmd w G gr counter (.tile b) (bankSources b) (bankDests b) ps
            (sharesOf ((List.range b.height).flatMap fun r => rowPieces ps r (b.dst + r * b.dpitch) (bankRowBytes b))))) t g (G.oneMore 4)
            iss.frag noV noS 0 next8)
    ∧ (∀ y w, bankRefused b = true → v.resolve G.part gr.ctx G.grp b.dst false false false = (.ok y, w) →
      ∃ t, exec i s = .next t ∧ Looked s w ∧ SameMemory s t
        ∧ Completes (w.withCmd g (freshCmd w G gr counter (.tile b) [] [] [] [(ownerOf y.pa % Config.bankCores, [])])) t g (G.oneMore 4)
            iss.frag noV noS 0 next8))
  ∧ ((∀ (x : Ops3) (s : State) (g : Nat) (G : Gang) (gr : Group) (iss : Issuer) (counter : Nat) (bs code ps : List Byte) (pages : List (Nat × Leaf))
      (u v w y z : State), s.issue = .gang g G gr iss → Operable [Use.r x.d, Use.r x.a, Use.r x.b] iss G → Calm G → Free G 4 →
    s.counterCheck G gr iss (iss.rds x.d).toNat (iss.rds x.a).toNat = (.ok counter, u) →
    u.issueRead (bankAccessor G gr true) iss false (iss.rds x.d).toNat 64 = (.ok bs, v) →
    let entry := fieldAt bs 0 8
    let codeLen := fieldAt bs 8 4
    let regs := fieldAt bs 12 1
    let base := fieldAt bs 16 8
    let len := fieldAt bs 24 8
    let params := fieldAt bs 32 8
    fieldAt bs 13 3 = 0 → fieldAt bs 40 24 = 0 → 2 ≤ regs → regs ≤ 64 → codeLen % 8 = 0 → 8 ≤ codeLen → codeLen ≤ 16384 →
    len % 128 = 0 → 128 ≤ len → len ≤ 2 ^ 40 → entry % 8 = 0 → base % 128 = 0 → params % 128 = 0 →
    v.issueRead (bankAccessor G gr false) iss true entry codeLen = (.ok code, w) →
    (if params = 0 then (.ok (List.replicate 128 0), w) else w.issueRead (bankAccessor G gr false) iss false params 128) = (.ok ps, y) →
    y.stackPages (bankAccessor G gr false) iss [] [(base, len)] = (.ok pages, z) →
    ∃ t, exec (.bkl x) s = .next t ∧ Looked s z ∧ SameMemory s t
      ∧ Completes (z.withCmd g (freshCmd z G gr counter
          (.kernel ((List.range (codeLen / 8)).map fun k => BitVec.ofNat 64 (fieldAt code (8 * k) 8)) entry regs (iss.rds x.b)
            ((List.range 32).map fun k => BitVec.ofNat 32 (fieldAt ps (4 * k) 4))) [] [(base, len)] pages
          ((segmentsOf (rangePieces pages base len)).map fun p => (ownerOf p.pa, [p])))) t g (G.oneMore 4) iss.frag noV noS 0 next8)
  ∧ (∀ (x : Ops3) (s : State) (g : Nat) (G : Gang) (gr : Group) (iss : Issuer) (counter : Nat) (bs raw : List Byte) (ps : List (Nat × Leaf))
      (b : RedBlock) (u v w y : State), s.issue = .gang g G gr iss → Operable [Use.r x.d, Use.r x.a] iss G → Calm G → Free G 4 →
    s.counterCheck G gr iss (iss.rds x.d).toNat (iss.rds x.a).toNat = (.ok counter, u) →
    u.issueRead (bankAccessor G gr true) iss false (iss.rds x.d).toNat 64 = (.ok bs, v) →
    let npkt := fieldAt bs 36 4
    let pk := packetsOf raw (raw.length / 192)
    let rows := b.packets.map fun p => (b.dst + p.1 * b.dpitch, b.rowb)
    1 ≤ npkt → npkt ≤ 4096 → v.issueRead (bankAccessor G gr true) iss false (fieldAt bs 40 8) (192 * npkt) = (.ok raw, w) →
    b = { fmt := fieldAt bs 0 1, accum := (fieldAt bs 1 1).testBit 0, rowb := fieldAt bs 4 4, table := fieldAt bs 8 8,
          nrows := fieldAt bs 16 8, dst := fieldAt bs 24 8, dpitch := fieldAt bs 32 4, tpitch := fieldAt bs 48 8, pkt := fieldAt bs 40 8,
          packets := pk.map fun p => (p.1, p.2.2.take p.2.1) } →
    (b.fmt = 1 ∨ b.fmt = 2) → fieldAt bs 1 1 < 2 → fieldAt bs 2 2 = 0 → fieldAt bs 56 8 = 0 →
    (∀ k, k < pk.length → fieldAt raw (192 * k + 8) 56 = 0) → b.rowb % 4 = 0 → 4 ≤ b.rowb → b.rowb ≤ 4096 → b.nrows ≠ 0 →
    (b.dpitch % 4 = 0 ∧ b.rowb ≤ b.dpitch) → (b.tpitch % 4 = 0 ∧ b.rowb ≤ b.tpitch) → (∀ p ∈ pk, 1 ≤ p.2.1 ∧ p.2.1 ≤ 32) →
    (∀ r ∈ rows, let size := match walkVa w.mem (w.ctx gr.ctx).root r.1 with | .leaf l => l.size | _ => 65536
      r.1 / size = (r.1 + r.2 - 1) / size) → b.table % 4 = 0 → b.dst % 4 = 0 → b.pkt % 64 = 0 →
    w.stackPages (bankAccessor G gr false) iss [] rows = (.ok ps, y) →
    ∃ t, exec (.bkir x) s = .next t ∧ Looked s y ∧ SameMemory s t
      ∧ Completes (y.withCmd g (freshCmd y G gr counter (.reduce b) [] rows ps
          ((List.range rows.length).filterMap fun k => (rows[k]?).bind fun r => (pageOf ps r.1).map fun e =>
            (ownerOf (physOf e r.1), [⟨k, 0, r.2, physOf e r.1⟩])))) t g (G.oneMore 4) iss.frag noV noS 0 next8)
  ∧ ∀ (s : State) (g : Nat) (G : Gang) (gr : Group) (iss : Issuer), s.issue = .gang g G gr iss → Calm G →
    ∃ t, exec .bkm s = .next t
      ∧ Completes { s with epochs := tabSet s.epochs G.grp (tabGet s.epochs 0 G.grp + 1) } t g G iss.frag noV noS 0 next8 ∧ SameMemory s t)

/-- MMA, MMAS and ACCST (R303 to R306) enter the queue of the partition's unit with the physical addresses of their operands and
count in class ts; ACCZ and PROMO (R309) enter it in no class; ACCRD and ACCWR (R287, R310, R311) enter it and hold their
fragment at the instruction. -/
def Obligations.MatrixInstructionsIssue : Prop :=
  ∀ (x : MatArgs) (s : State) (g : Nat) (G : Gang) (gr : Group) (iss : Issuer), s.issue = .gang g G gr iss → Calm G →
    let k := 32 * (x.kq.toNat + 1)
    let sa := iss.slot x.sa.toNat
    let sb := iss.slot x.sb.toNat
    let d := (iss.rds x.d).toNat
    let a := (iss.rds x.a).toNat
    let op (kind : Nat) (ps : List (Nat × Nat)) : MatOp :=
      { matOp kind g iss x with op := s.nextOp, a := ((ps[0]?).getD (0, 0)).1, sca := ((ps[0]?).getD (0, 0)).2,
                                b := ((ps[1]?).getD (0, 0)).1, scb := ((ps[1]?).getD (0, 0)).2 }
    let queued (kind : Nat) (ps : List (Nat × Nat)) (t : State) : Prop := SameMemory s t ∧
      Completes ((s.issueOp g 1 .matrix [] [] true).enqueue G.part (op kind ps)) t g (G.oneMore 1) iss.frag noV noS 0 next8
    (∀ ps, Operable [Use.r x.d, Use.r x.a] iss G → Free G 1 → mmaCheck x iss = none →
      s.matCheck iss G.grp 1 (decide (5 ≤ slotFmt sa)) [(d, denseBytes (slotFmt sa) k, sa), (a, denseBytes (slotFmt sa) k, sb)] = .ok ps →
      ∃ t, exec (.mma x) s = .next t ∧ queued 0 ps t)
    ∧ (∀ ps, Operable [Use.r x.d, Use.r x.a] iss G → Free G 1 → mmasCheck x iss = none →
      s.matCheck iss G.grp 1 false [(d, sparseBytes k, sa), (a, denseBytes 3 k, sb)] = .ok ps →
      ∃ t, exec (.mmas x) s = .next t ∧ queued 1 ps t)
    ∧ (∀ ps, Operable [Use.r x.d] iss G → Free G 1 → s.matCheck iss G.grp 2 false [(d, 4096 * outWidth x.ofmt.toNat, 0)] = .ok ps →
      ∃ t, exec (.accst x) s = .next t ∧ queued 5 ps t)
    ∧ (∃ t, exec (.accz x) s = .next t ∧ Completes (s.enqueue G.part (matOp 2 g iss x)) t g G iss.frag noV noS 0 next8)
    ∧ (∃ t, exec (.promo x) s = .next t ∧ Completes (s.enqueue G.part (matOp 6 g iss x)) t g G iss.frag noV noS 0 next8)
    ∧ (Operable [⟨x.d, true, 32, 1, 1, 1⟩] iss G → s.holding g G.part = false →
      ∃ t, exec (.accrd x) s = .next t ∧ OnlyTo (s.enqueue G.part (matOp 3 g iss x)) t g fun G' => G.Still G' ∧ G'.slices = G.slices)
    ∧ (Operable [⟨x.a, false, 32, 1, 1, 1⟩] iss G → s.holding g G.part = false →
      ∃ t, exec (.accwr x) s = .next t ∧ OnlyTo (s.enqueue G.part (matOp 4 g iss x)) t g fun G' => G.Still G' ∧ G'.slices = G.slices)

/-- The steps of a matrix unit on the head of its queue (R287 to R291, R306 to R312), for a gang that owns or may claim the
accumulator: one block of MMA or MMAS from the operand words as they were read, ACCZ, PROMO, ACCRD with its drained values in
the registers of the active lanes, ACCWR, what is left of one row of ACCST in memory. While a core that holds an operand is
offline the unit makes no step (R295). That what has not been read or written before goes in one step of the block or row, and
that a block whose products cancel adds +0, is the model's choice (notes/assumptions 24 and 25). The watchdog of a matrix unit
(R295): after 2^24 clk without progress nothing is queued, both accumulators are free, and every gang that had an operation
queued or owned an accumulator has a MATRST to take, behind the traps of the unit that wait already; before that nothing
happens. An operation that is stopped by poison or a malformed sparse line (R291, R308) ends with its trap deferred. -/
def Obligations.MatrixUnitEvents : Prop :=
  (∀ (s : State) (p : Nat) (o : MatOp) (a : Acc) (r : List MatOp) (G : Gang), (s.part p).mq = o :: r → s.claim p o = some a →
    (s.part p).accs.length = 2 → s.gangs[o.gang]? = some G → G.stand ≠ .ended →
    let k := matAcc o.args
    let q := tensorScale o.sa o.sb
    let o' := o.masked s.mem
    (s.operandsUp o = false → exec (.mmaExecute p) s = .next s ∧ exec (.accstExecute p) s = .next s) ∧ (s.operandsUp o = true →
    (o.kind = 0 ∨ o.kind = 1 → s.mmaStop o = none → ∃ t, exec (.mmaExecute p) s = .next t ∧ SameMemory s t ∧ t.gangs = s.gangs
      ∧ UnitSteps s t p k (a.block (o'.blockAt (o'.seen s.mem))) (if o.kb = o.args.kq.toNat then r else { o' with kb := o.kb + 1 } :: r))
    ∧ (o.kind = 2 → ∃ t, exec (.acczExecute p) s = .next t ∧ SameMemory s t ∧ t.gangs = s.gangs
      ∧ UnitSteps s t p k (if o.args.free then Acc.zero else s.zeroAcc o.gang) r)
    ∧ (o.kind = 6 → ∃ t, exec (.promoExecute p) s = .next t ∧ SameMemory s t ∧ t.gangs = s.gangs
      ∧ UnitSteps s t p k { (if a.n = 0 then a else a.promote) with p := o.args.pint.toNat } r)
    ∧ (o.kind = 3 → ∃ t, exec (.accrdExecute p) s = .next t ∧ SameMemory s t ∧ OtherGangs s t o.gang ∧ UnitSteps s t p k a.promote r
      ∧ ∃ G', t.gangs[o.gang]? = some G' ∧ G.Keeps G' ∧ G'.flags = G.flags ∧ G.SameNest G' ∧ G.Moves G' (slicesOf o.lanes) next8
        ∧ G.Regs G' (fun n l => match o.args.d with
            | .v e => if o.active.getLsbD l && decide (e.val ≤ n ∧ n < e.val + 32) then
                some (BitVec.ofNat 32 (drained q (stGet a.promote.part (drainIndex o.args (n - e.val) l)))) else none
            | _ => none) noS)
    ∧ (o.kind = 4 → ∃ t, exec (.accwrExecute p) s = .next t ∧ SameMemory s t ∧ OtherGangs s t o.gang
      ∧ (∃ G', t.gangs[o.gang]? = some G' ∧ G.Still G' ∧ G.Moves G' (slicesOf o.lanes) next8)
      ∧ ∃ part, UnitSteps s t p k { a.promote with part := part } r
        ∧ ∀ e j l, o.args.a = .v e → j < 32 → l < 32 → stGet part (drainIndex o.args j l)
            = if o.active.getLsbD l then G.getV (e.val + j) l else stGet a.promote.part (drainIndex o.args j l))
    ∧ (o.kind = 5 → o.kb < 64 →
      let b := if o.kb = 0 ∧ o.did = [] then a.promote else a
      let w := outWidth o.args.ofmt.toNat
      let row := (List.range 64).flatMap fun j => outBytes o.args.ofmt.toNat (drained q (stGet b.part (64 * o.kb + j)))
      ∃ t, exec (.accstExecute p) s = .next t ∧ UnitSteps s t p k b (if o.kb = 63 then r else { o with kb := o.kb + 1 } :: r)
        ∧ ∀ j, stGet (w := 8) t.mem j =
            if o.a + 64 * o.kb * w ≤ j ∧ j < o.a + 64 * o.kb * w + 64 * w ∧ (j - o.a) / 4 ∉ o.did
            then (row[j - (o.a + 64 * o.kb * w)]?).getD 0 else stGet (w := 8) s.mem j)))
  ∧ (∀ (s : State) (p : Nat),
    ((s.part p).mq ≠ [] → (s.part p).progress + 2 ^ 24 ≤ s.clock.toNat → ∃ t, exec (.matrixUnitReset p) s = .next t
      ∧ (t.part p).mq = [] ∧ (∀ k, t.acc p k = Acc.zero)
      ∧ ∀ (g : Nat) (G : Gang), (∃ o ∈ (s.part p).mq, o.gang = g) ∨ (∃ a ∈ (s.part p).accs, a.owner = some g) → s.gangs[g]? = some G →
          G.stand ≠ .ended → ∃ G' tr, t.gangs[g]? = some G' ∧ G'.deferred = G.deferred ++ [tr] ∧ tr.cause = .matrst ∧ tr.info = 1)
    ∧ ((s.part p).mq = [] ∨ s.clock.toNat < (s.part p).progress + 2 ^ 24 → exec (.matrixUnitReset p) s = .next s)
    ∧ ∀ (o : MatOp) (a : Acc) (r : List MatOp) (G : Gang) (c : Cause) (acc addr : Nat), (s.part p).mq = o :: r → o.kind = 0 ∨ o.kind = 1 →
        s.claim p o = some a → s.mmaStop o = some (c, acc, addr) → s.gangs[o.gang]? = some G → G.stand ≠ .ended → s.operandsUp o = true →
        ∃ t, exec (.mmaExecute p) s = .next t ∧ (t.part p).mq = r
          ∧ ∃ G' tr, t.gangs[o.gang]? = some G' ∧ G'.deferred = G.deferred ++ [tr] ∧ tr.cause = c ∧ tr.info = 1 ∧ tr.acc = acc)

/-- The device's steps on a gang: TAIL_COMMIT (R209, R210, R221) performs the buffered stores and gives the group the tail's
translation registers, TAIL_INSTRUCTION_LIMIT (R209) closes a tail, SHED (R213, R214, R215) undoes one, CRAWL_END (R215),
TRAP_ENTRY (R155, R216) commits up to a held fault and takes it with the registers as they stood there, LOAD_RETURN (R226),
SLEEP_EXPIRY (R149), TOKEN_RUN_LIMIT (R47), ASYNC_COMPLETION (R140). -/
def Obligations.GangEvents : Prop :=
  (∀ (s : State) (g : Nat) (G : Gang), s.gangs[g]? = some G →
    (∀ tl : Tail, G.tail = some tl → tl.conflict = false → tl.held = none → G.pend = [] → s.bufHeld tl.sbuf = false →
      let v := s.drainBuffer g G.core tl.sbuf
      let u := s.commitTail g G tl.sbuf tl.xts tl.walks
      ∃ t, exec (.tailCommit g) s = .next t ∧ Wrote s v ∧ t = { u with gangs := t.gangs }
        ∧ t.gangs[g]? = some { G with tail := none, sheds := 0 } ∧ OtherGangs u t g
        ∧ t.groups = updAt s.groups G.grp (fun gr => { gr with xt := tl.xts.foldl (fun l e => updAt l e.1 fun _ => e.2) gr.xt })
        ∧ (tl.walks = [] → t = { v with gangs := t.gangs, groups := t.groups })
        ∧ ∀ l : Leaf, tl.walks = [] → (∀ b ∈ tl.sbuf, b.leaf = l) → l.mapped = false → l.tier ≠ 2 → leafDiscard s.mem l = false →
          ((∀ m, leafDiscard m l = false) ∨ ∀ b ∈ bufBytes tl.sbuf, b.1 ≠ l.pte + 1) → ∀ j,
            stGet (w := 8) t.mem j = (lastByte (bufBytes tl.sbuf) j).getD (stGet (w := 8) s.mem j))
    ∧ (∀ (tl : Tail) (gr : Group), G.tail = some tl → 256 ≤ tl.count → tl.closed = false → s.groups[G.grp]? = some gr →
      ∃ t, exec (.tailInstructionLimit g) s = .next t ∧ OnlyTo s t g fun G' => G' = { G with tail := some { tl with closed := true } })
    ∧ (∀ tl : Tail, G.tail = some tl → tl.conflict = true →
      let n := if G.sheds ≠ 0 ∧ G.shedPc = tl.ckptPc then G.sheds + 1 else 1
      ∃ t, exec (.shed g) s = .next t ∧ OnlyTo s t g fun G' =>
        G' = { G with v := G'.v, s := G'.s, sv := G'.sv, ss := G'.ss, slices := tl.ckpt.slices, nest := tl.ckpt.nest, flags := tl.ckpt.flags,
                      tail := none, pend := [], sheds := n, shedPc := tl.ckptPc, crawl := decide (3 ≤ n), crawlCnt := 0 }
        ∧ G.Regs G' (undoneV tl.log) (undoneS tl.log))
    ∧ (G.crawl = true → 256 ≤ G.crawlCnt →
      ∃ t, exec (.crawlEnd g) s = .next t ∧ OnlyTo s t g fun G' => G' = { G with crawl := false, crawlCnt := 0, sheds := 0 })
    ∧ (∀ (tl : Tail) (h : HeldFault) (gr : Group), G.tail = some tl → tl.held = some h → tl.conflict = false → h.pend = [] →
      s.bufHeld h.sbuf = false → h.trap.gather = [] → h.trap.walks = [] → G.super = false → s.groups[G.grp]? = some gr →
      let u := s.commitTail g G h.sbuf h.xts h.walks
      VectorRuns u G gr →
      ∃ t G', exec (.trapEntry g) s = .next t ∧ t.gangs[g]? = some G' ∧ OtherGangs u t g ∧ SameMemory u t
        ∧ { G with v := h.v, s := h.s, sv := h.sv, ss := h.ss, slices := h.ckpt.slices, nest := h.ckpt.nest, flags := h.ckpt.flags, tail := none,
                   pend := [], sheds := 0 }.Entered G'
            (causeWord h.trap.info (if h.trap.cause = Cause.pagefault ∨ h.trap.cause = Cause.prot ∨ h.trap.cause = Cause.poison then h.trap.acc % 16 else 0)
              h.trap.cause.code) h.trap.addr (h.trap.retry ++ h.trap.lanes) (s.ctx gr.ctx).trapvec h.trap.frag)
    ∧ (∀ (n : Nat) (p : PendLoad), G.pend[n]? = some p →
      ∃ t G', exec (.loadReturn g n) s = .next t ∧ t = { s with gangs := t.gangs } ∧ OtherGangs s t g ∧ t.gangs[g]? = some G'
        ∧ G' = { G with v := G'.v, s := G'.s, sv := G'.sv, ss := G'.ss, pend := G.pend.eraseIdx n, tail := G'.tail }
        ∧ (G.tail = none → G'.tail = none) ∧ G.Regs G' (lastV p.vw) (lastS p.sw))
    ∧ (∀ k u : Nat, G.sleep[k]? = some u → u ≠ 0 →
      (u ≤ s.clock.toNat → s.clock.toNat < u + 2 ^ 63 → ∃ t G', exec (.sleepExpiry g k) s = .next t ∧ t = { s with gangs := t.gangs }
        ∧ OtherGangs s t g ∧ t.gangs[g]? = some G' ∧ G' = { G with sleep := G'.sleep }
        ∧ ∀ j : Nat, G'.sleep[j]? = (G.sleep[j]?).map fun e => if j = k then 0 else e)
      ∧ (s.clock.toNat < u → u ≤ s.clock.toNat + 2 ^ 63 → exec (.sleepExpiry g k) s = .next s))
    ∧ (∀ (cls : Nat) (o : AsyncOp), (s.ops.find? fun o => o.gang = g && o.cls = cls) = some o → o.elems = [] → o.busy = false →
      ∃ t G', exec (.asyncCompletion g cls) s = .next t ∧ t = { s with gangs := t.gangs, ops := s.ops.filter (·.id != o.id) }
        ∧ OtherGangs s t g ∧ t.gangs[g]? = some G' ∧ G' = { G with cnt := G'.cnt }
        ∧ ∀ c, G'.count c = if c = cls then G.count c - 1 else G.count c))
  ∧ ∀ (s : State) (p : Nat), (s.part p).token.isSome = true → 64 ≤ (s.part p).run →
    ∃ t, exec (.tokenRunLimit p) s = .next t ∧ OnlyPart s t p ∧ t.part p = { s.part p with yield := true }

/-- The element events on plain memory: RED_ELEMENT (R231, R235, R236) replaces the word at its home by the operation's result,
SMRG_MERGE (R238) merges into its record, CPY_ELEMENT (R243, R244) copies a word. An element that waits for an earlier one or
for a bank command changes nothing. That a lane waits for an earlier one whose page is not valid yet wherever the two may come
to share a word is the model's choice (notes/assumptions 57). -/
def Obligations.FarAndCopyElements : Prop :=
  ∀ (s : State) (id : Nat) (o : AsyncOp), s.op id = some o →
    (∀ (el opc : Nat) (wide : Bool) (va : Nat) (x : Option Xlat) (d : DWord) (y : Xlat), o.kind = .red opc wide →
      o.elems[el]? = some (.red va x d) → Resolved s o va x y →
      let n := if wide then 8 else 4
      (s.redBlocked o el va x = true ∨ (x = some y ∧ s.heldAny [y] n = true) → exec (.redElement id el) s = .next s)
      ∧ (s.redBlocked o el va x = false → s.heldAny [y] n = false → Plain s y → Clean s y.pa n →
        ∃ t, exec (.redElement id el) s = .next t ∧ Performs s t id el
          ∧ HoldsNumber s t y.pa n (atomOp opc n (memNat s.mem y.pa n) (d.toNat % 2 ^ (8 * n)))))
    ∧ (∀ (va : Nat) (x : Option Xlat) (m l : Word) (v : List Word) (r : List Elem) (y : Xlat), o.elems = .merge va x m l v :: r →
      Resolved s o va x y → s.held y.pa (128 + 4 * v.length) = false → Plain s y →
      (∀ k, k < 32 + v.length → s.isPoisoned (y.pa / 4 + k) = false) →
      ∃ t, exec (.smrgMerge id) s = .next t ∧ Performs s t id 0
        ∧ (∀ e ∈ mergeWords (fun k => memNat s.mem (y.pa + k) 4) m l v, memNat t.mem (y.pa + e.1) 4 = e.2 % 2 ^ 32)
        ∧ ∀ j, (j < y.pa ∨ y.pa + 8 ≤ j) → (j < y.pa + 128 ∨ y.pa + 128 + 4 * v.length ≤ j) →
            stGet (w := 8) t.mem j = stGet (w := 8) s.mem j)
    ∧ ∀ (el h k d a : Nat) (e e' : Nat × Leaf), o.kind = .copy h → o.elems[el]? = some (.copy k [(d, srcWord a)]) →
      pageOf o.pages d = some e → (∀ j, j < 4 → pageOf o.pages (a + j) = some e') →
      (s.copyHeld o.pages [(d, srcWord a)] = true → exec (.cpyElement id el) s = .next s)
      ∧ (s.copyHeld o.pages [(d, srcWord a)] = false → e.2.mapped = false → e'.2.mapped = false → leafDiscard s.mem e.2 = false →
        leafDiscard s.mem e'.2 = false → physOf e d % 4 = 0 → e.2.tier ≠ 2 →
        (∀ j, j < 4 → isFar (physOf e' (a + j)) = false ∧ s.isPoisoned (physOf e' (a + j) / 4) = false) →
        ∃ t, exec (.cpyElement id el) s = .next t ∧ Performs s t id el
          ∧ (∀ j, j < 4 → stGet (w := 8) t.mem (physOf e d + j) = stGet (w := 8) s.mem (physOf e' (a + j)))
          ∧ ∀ j, (j < physOf e d ∨ physOf e d + 4 ≤ j) → stGet (w := 8) t.mem j = stGet (w := 8) s.mem j)

/-- MAP_EDIT_ELEMENT (R260 to R263, R270 to R273): an edit that composes changes the header alone, one that does not writes the
payload and an identity header; MMAT materialises, MDROP drops the map, MSET sets it, ahead of the mapping one header word at a
time. KV_ELEMENT (R281): a table word, a reference count, a fill, a position. That MMAT of an identity tile makes no record
whatever its payload is the model's choice (notes/assumptions 62). -/
def Obligations.MapAndKvElements : Prop :=
  ∀ (s : State) (id el : Nat) (o : AsyncOp), s.op id = some o →
    (∀ (va : Nat) (e : Nat × Leaf) (m : MapCmd), o.kind = .map m → o.elems[el]? = some (.tile va) → pageOf o.pages va = some e →
      let t0 := tileOf e.2 (physOf e va)
      let h := Hdr.ofNat (s.tileHdr t0)
      let reset := Hdr.identity h.efmt (h.seq + 1)
      (m.ahead = false → s.engineHeld e.2 t0.pa 256 = true → exec (.mapEditElement id el) s = .next s)
      ∧ (s.engineHeld e.2 t0.pa 256 = false → TileSound s t0 →
        (∀ (a b lo hi : Word) (r k : Nat), m = .edit a b lo hi r k → r < indexWidth h.efmt → k < 2 ^ indexWidth h.efmt →
          let ed : Edit := ⟨a.toNat, b.toNat, lo.toNat, hi.toNat, r, k⟩
          (∀ h', h.compose ed = some h' → ∃ t, exec (.mapEditElement id el) s = .next t ∧ Performs s t id el
            ∧ HoldsNumber s t t0.hpa 32 h'.toNat)
          ∧ (h.compose ed = none → s.payloadPoisoned t0 = false → Apart t0 → ∃ t, exec (.mapEditElement id el) s = .next t
            ∧ Performs s t id el ∧ HoldsTile s t t0 (h.applied ed (s.tilePayload t0)) reset))
        ∧ (m = .mat → h.ident = false →
          (s.payloadPoisoned t0 = false → Apart t0 → ∃ t, exec (.mapEditElement id el) s = .next t
            ∧ Performs s t id el ∧ HoldsTile s t t0 (s.tileImage t0) reset)
          ∧ (s.payloadPoisoned t0 = true → ∃ t u, exec (.mapEditElement id el) s = .next t ∧ Wrote s u ∧ t = { u with ops := t.ops }
            ∧ (s.logq = [] → SameOutsideLog s t o.ctx) ∧ ∀ o', t.op id = some o' → Elem.tile va ∉ o'.elems))
        ∧ (m = .drop → h.ident = false → ∃ t, exec (.mapEditElement id el) s = .next t ∧ Performs s t id el
          ∧ HoldsNumber s t t0.hpa 32 reset.toNat)
        ∧ (m = .mat ∨ m = .drop → h.ident = true → ∃ t, exec (.mapEditElement id el) s = .next t ∧ Performs s t id el ∧ SameMemory s t))
      ∧ ∀ (v : BitVec 256) (h' : Hdr), t0.leaf.tier ≠ 2 →
        (m = .set v false → s.engineHeld e.2 t0.pa 256 = false → leafDiscard s.mem t0.leaf = false →
          setHdr (memNat s.mem t0.hpa 32) v.toNat false = some h' →
          ∃ t, exec (.mapEditElement id el) s = .next t ∧ Performs s t id el ∧ HoldsNumber s t t0.hpa 32 h'.toNat)
        ∧ (m = .set v true → va % 256 < 32 → setHdr (memNat s.mem t0.hpa 32) v.toNat true = some h' →
          let j := va % 256 / 4
          ∃ t, exec (.mapEditElement id el) s = .next t ∧ Performs s t id el ∧ HoldsNumber s t (t0.hpa + 4 * j) 4 (h'.toNat / 2 ^ (32 * j))))
    ∧ (o.kind = .kv →
      (∀ (x : Xlat) (v : Word), o.elems[el]? = some (.put x v) ∨ o.elems[el]? = some (.count x v) → s.held x.pa 4 = false → x.leaf.mapped = false → x.leaf.tier ≠ 2 → leafDiscard s.mem x.leaf = false →
        ∃ t, exec (.kvElement id el) s = .next t ∧ Performs s t id el ∧ HoldsNumber s t x.pa 4 v.toNat)
      ∧ ∀ (x : Xlat), s.held x.pa 32 = false → x.leaf.mapped = false → x.leaf.tier ≠ 2 → leafDiscard s.mem x.leaf = false → Clean s x.pa 32 →
        let d := Desc.ofNat (memNat s.mem x.pa 32)
        let becomes (d' : Desc) : Prop :=
          ∃ t, exec (.kvElement id el) s = .next t ∧ Performs s t id el ∧ HoldsNumber s t x.pa 32 d'.toNat
        d.malformed = false →
        (o.elems[el]? = some (.refInc x) → d.ref < 65535 → becomes { d with ref := d.ref + 1 })
        ∧ (∀ page pool, o.elems[el]? = some (.refDec x page pool) → laterDrop o.elems el = false → 1 < d.ref → becomes { d with ref := d.ref - 1 })
        ∧ (o.elems[el]? = some (.grow x) → d.fill < 16 →
            becomes { d with surv := (d.surv ||| 2 ^ d.fill) % 2 ^ 16, form := d.form + 1 })
        ∧ ∀ v : Word, o.elems[el]? = some (.setPos x v) → becomes { d with pos := v.toNat })

/-- BANK_RECALL (R196, R347) takes the lines of a command from every core, sheds the tails that read them, and hands its items
to their bank cores; BANK_WORK_ITEM (R331, R343) starts the next item of an idle bank core and writes the rows of a share,
unless the command's range is not recalled; BANK_SUSPEND (R350, R368) sets an item aside for one of a higher priority, or when
its context leaves the device, and gives up the command's lines. That a row of which no word has been written goes in one step
is the model's choice (notes/assumptions 22). -/
def Obligations.BankEvents : Prop :=
  (∀ (s : State) (id : Nat) (c : BankCmd), s.cmd id = some c → s.wantsRecall c = true → s.mkReady c = true → s.rangeHeld c = false →
    ∃ t, exec (.bankRecall id) s = .next t
      ∧ (∃ d, t.cmd id = some d ∧ d.held = true ∧ d.started = true ∧ d.work = c.work ∧ d.range = c.range)
      ∧ t.items = (if c.started then s.items else s.items ++ c.shares.map fun p => ⟨c.id, p.1, .queued, p.2, none, 0, [], 0, [], []⟩)
      ∧ (∀ e ∈ t.owner, ∀ r ∈ c.range, 4 * e.1 < r.1 ∨ r.2 ≤ 4 * e.1)
      ∧ (∀ (k : Nat) (G : Gang) (tl : Tail), s.gangs[k]? = some G → G.tail = some tl →
          (∃ w ∈ tl.reads, ∃ r ∈ c.range, r.1 ≤ 4 * w ∧ 4 * w < r.2) →
          ∃ G' tl', t.gangs[k]? = some G' ∧ G'.tail = some tl' ∧ tl'.conflict = true)
      ∧ ((∀ e ∈ c.pages, e.2.mapped = false ∧ leafDiscard s.mem e.2 = false) → SameMemory s t))
  ∧ (∀ (s : State) (b : Nat), s.bankOffline b = false →
    (∀ (k : Nat) (it : BankItem), s.running b = none → s.nextItem b = some k → s.items[k]? = some it →
      ∃ t it', exec (.bankWorkItem b) s = .next t ∧ t = { s with items := t.items } ∧ t.items[k]? = some it'
        ∧ it' = { it with stand := .running, kern := it'.kern } ∧ (∀ j, j ≠ k → t.items[j]? = s.items[j]?)
        ∧ ∀ (c : BankCmd) (p : BankPiece) (r : List BankPiece) (code : List DWord) (entry regs : Nat) (v : DWord) (ps : List Word),
            s.cmd it.cmd = some c → it.kern = none → it.pieces = p :: r → c.work = .kernel code entry regs v ps → ps.length = 32 →
            ∃ kn, it'.kern = some kn ∧ kn.seg = p.pa % 2 ^ 25 ∧ kn.segLen = p.lo ∧ kn.segVa = p.row ∧ kn.pc = BitVec.ofNat 64 entry
              ∧ kn.regs = regs ∧ (∀ l, stGet kn.nest l = 0) ∧ stGet kn.s 1 = v ∧ stGet kn.s 2 = BitVec.ofNat 64 (p.pa % 2 ^ 25)
              ∧ stGet kn.s 3 = BitVec.ofNat 64 p.lo ∧ stGet kn.s 4 = BitVec.ofNat 64 p.row ∧ stGet kn.s 5 = BitVec.ofNat 64 it.core
              ∧ ∀ l, l < 32 → stGet kn.v l = (ps[l]?).getD 0 ∧ stGet kn.v (32 + l) = BitVec.ofNat 32 (4 * l))
    ∧ ∀ (k : Nat) (it : BankItem) (c : BankCmd) (blk : BankBlock) (p q : BankPiece) (bs : List Byte), s.running b = some k →
        s.items[k]? = some it → s.cmd it.cmd = some c →
        (c.held = false → exec (.bankWorkItem b) s = .next s)
        ∧ (c.held = true → c.work = .tile blk → bankRefused blk = false → it.did = [] → it.pieces[it.prog]? = some p → p.lo ≤ p.hi →
          it.pieces[it.prog + 1]? = some q → q.lo < q.hi → s.bankRow c blk p.row p.lo p.hi = .ok bs → c.bad = [] → p.pa % 4 = 0 →
          bs.length % 4 = 0 →
          ∃ t u, exec (.bankWorkItem b) s = .next t ∧ Wrote s u ∧ t = { u with items := t.items }
            ∧ t.items[k]? = some { it with prog := it.prog + 1, bytes := it.bytes + (p.hi - p.lo) } ∧ (∀ j, j ≠ k → t.items[j]? = s.items[j]?)
            ∧ ∀ j, stGet (w := 8) t.mem j = if p.pa ≤ j ∧ j < p.pa + bs.length then (bs[j - p.pa]?).getD 0 else stGet (w := 8) s.mem j))
  ∧ ∀ (s : State) (b k : Nat) (it : BankItem), s.running b = some k → s.items[k]? = some it →
    let full := 4 ≤ s.suspendedAt b ∨ ∀ x ∈ s.items, x.core = b → s.itemReady x = true → s.itemPrio x ≤ s.itemPrio it
    (it.half = false → (¬full ∨ ∃ c, s.cmd it.cmd = some c ∧ s.bankLeaves c.ctx = true) →
      ∃ t, exec (.bankSuspend b) s = .next t ∧ t = { s with items := t.items, cmds := t.cmds }
        ∧ t.items[k]? = some { it with stand := .suspended } ∧ (∀ j, j ≠ k → t.items[j]? = s.items[j]?)
        ∧ t.cmds = s.cmds.map fun d => if d.id = it.cmd then { d with held := false } else d)
    ∧ (it.half = true ∨ ((∀ c, s.cmd it.cmd = some c → s.bankLeaves c.ctx = false) ∧ full) → exec (.bankSuspend b) s = .next s)

/-- NODE_READY (R356, R359) takes an accepted record into launch, PLACE_GROUP (R35, R357) gives a waiting unit new gangs,
PREEMPT_GROUP (R358, R366, R367) stops a group that no word keeps midway and saves it when it has drained, NODE_COMPLETE (R355,
R359) writes STATUS. -/
def Obligations.DispatchEvents : Prop :=
  (∀ (s : State) (c : Nat) (q : Submission) (r : List Submission) (x : Xlat), (s.ctx c).queue = q :: r → (s.ctx c).active = true →
    s.devHeld c q.addr 256 = false → (∀ y ∈ (s.ctx c).waitYards, y.1 ≠ q.addr) →
    (∀ n ∈ s.nodes, n.ctx = c → n.addr = q.addr → n.stand ≠ .launched) → s.devXlat c q.addr true = (.ok x, s) →
    leafDiscard s.mem x.leaf = false → x.leaf.tier ≠ 2 → (∀ k, k < 64 → s.isPoisoned (x.pa / 4 + k) = false) →
    let bs := memBytes (memPut s.mem (x.pa + 0x78) (leBytes 8 0)) x.pa 256
    recordOk bs false = true → launchFits (launchOf bs) (s.ctx c).yardsize = true →
    ∃ t u, exec (.nodeReady c) s = .next t ∧ Wrote s u ∧ t = { u with nodes := t.nodes, ctxs := t.ctxs } ∧ HoldsNumber s t (x.pa + 0x78) 8 0
      ∧ t.nodes = s.nodes ++ [{ ctx := c, addr := q.addr, pa := x.pa, lr := launchOf bs, k := (s.ctx c).launched, stand := .launched,
                                placed := [], lost := false, yard := [], reserved := false, relay := [], relayBytes := 0, readyAt := q.at_ }]
      ∧ t.ctx c = { s.ctx c with queue := r, launched := (s.ctx c).launched + 1 } ∧ ∀ k, k ≠ c → t.ctx k = s.ctx k)
  ∧ (∀ (s : State) (w : Waiting) (n : Node) (seats : List Seat), s.firstWaiting = some w → w.saved = none → s.nodes[w.node]? = some n →
    (∀ y ∈ seats, y.core ∈ s.usableCores (clusterOf y.core)) →
    seatsOk (s.waitQueues w) (s.seatings w) seats (s.onCores fun _ => false) [] = true →
    ∃ t, exec (.placeGroup seats) s = .next t ∧ t.ops = s.ops ∧ t.ctxs = s.ctxs
      ∧ t.gangs.length = s.gangs.length + seats.length * n.lr.gangs ∧ t.groups.length = s.groups.length + seats.length
      ∧ ((∀ c ∈ s.l1win, c.dirty = 0) → t.mem = s.mem ∧ ∀ k, k < s.gangs.length → t.gangs[k]? = s.gangs[k]?)
      ∧ (∀ k, k < s.groups.length → t.groups[k]? = s.groups[k]?)
      ∧ (∀ (k : Nat) (G : Gang), s.gangs.length ≤ k → t.gangs[k]? = some G →
          (∀ m l, G.getV m l = 0) ∧ (∀ m, G.getS m = 0) ∧ G.sv = [] ∧ G.ss = [] ∧ G.super = false ∧ G.flags = 0 ∧ (∀ l, stGet G.nest l = 0)
          ∧ (∀ c, G.count c = 0) ∧ G.pend = [] ∧ G.tail = none ∧ G.crawl = false ∧ G.stand = .resident
          ∧ G.slices = List.replicate 8 ⟨BitVec.ofNat 64 n.lr.entry, 0, true, false, 0, 0, none⟩)
      ∧ ∀ (k : Nat) (g : Group), s.groups.length ≤ k → t.groups[k]? = some g → g.node = w.node ∧ g.ctx = n.ctx ∧ g.mode = 0 ∧ g.promo = 16
          ∧ g.stand = .resident ∧ g.slots = n.lr.slots ∧ g.regs = n.lr.regs ∧ g.gangs = n.lr.gangs ∧ g.scratch = n.lr.scratch
          ∧ (∀ x ∈ g.xt, x.valid = false) ∧ ∀ b ∈ g.bars, b.arrived = [])
  ∧ (∀ (s : State) (w : Waiting) (n : Node) (i : Nat) (g : Group) (seats : List Seat), s.firstWaiting = some w → w.saved = some i →
    s.nodes[w.node]? = some n → s.groups[i]? = some g → (∀ y ∈ seats, y.core ∈ s.usableCores (clusterOf y.core)) →
    seatsOk (s.waitQueues w) (s.seatings w) seats (s.onCores fun _ => false) [] = true →
    let unit := s.unitOf n.lr g
    ∃ t, exec (.placeGroup seats) s = .next t ∧ t.ops = s.ops ∧ t.ctxs = s.ctxs ∧ t.nodes = s.nodes ∧ t.items = s.items
      ∧ t.gangs.length = s.gangs.length ∧ t.groups.length = s.groups.length
      ∧ (∀ k, (∀ e ∈ unit, e.1 ≠ k) → t.groups[k]? = s.groups[k]?)
      ∧ (∀ (k : Nat) (M : Gang), s.gangs[k]? = some M → (∀ e ∈ unit, k ∉ e.2.members) → ∃ M', t.gangs[k]? = some M' ∧ Marked M M')
      ∧ (∀ (j : Nat) (e : Nat × Group) (y : Seat), unit[j]? = some e → seats[j]? = some y →
          (∃ p, t.groups[e.1]? = some { e.2 with core := y.core, p0 := y.p0, placedAt := p, stand := if e.2.stand = .saved then .resident else e.2.stand })
          ∧ ∀ (m : Nat) (M : Gang), m ∈ e.2.members → (∀ e' ∈ unit, m ∈ e'.2.members → e'.1 = e.1) → s.gangs[m]? = some M → M.stand = .saved →
              ∃ M', t.gangs[m]? = some M' ∧ (M' = { M with
                  v := M'.v, stand := .resident, arrival := M'.arrival, irr := M'.arrival, lastIssue := 0, stalled := false, accs := [],
                  hadToken := false, tail := M'.tail, part := 8 * y.core + (y.p0 + if n.lr.pairing = 1 then M.idx / 2 else M.idx) % 8 })
                ∧ (M.tail = none → M'.tail = none))
      ∧ ∀ sc : List Byte, MemoryTidy s → s.l1win = [] → s.l2win = [] → unit = [(i, g)] →
          let base := n.lr.save + g.lin * saveBytes g
          (∀ m M, m ∈ g.members → s.gangs[m]? = some M → M.stand ≠ .ended → ∃ bs, s.saveRead g (base + saveGangAt g M.idx) (128 * g.regs) = (some bs, s)) →
          s.saveRead g (base + saveScratchAt g) g.scratch = (some sc, s) →
          (∀ m M bs, m ∈ g.members → s.gangs[m]? = some M → M.stand = .saved → s.saveRead g (base + saveGangAt g M.idx) (128 * g.regs) = (some bs, s) →
            ∃ M', t.gangs[m]? = some M' ∧ ∀ r l, r < g.regs → l < 32 →
              (stGet M'.v (32 * r + l)).toNat = leNat ((bs.drop (4 * (32 * r + l))).take 4))
          ∧ ∀ a, stGet (w := 8) t.mem a =
              let k := a - Config.scratchBase i
              if Config.scratchBase i ≤ a ∧ k < g.scratch ∧ stGet (w := 8) s.mem a = stGet (tabGet s.images [] i) k then (sc[k]?).getD 0
              else stGet (w := 8) s.mem a)
  ∧ (∀ (s : State) (i : Nat) (g : Group) (n : Node), s.groups[i]? = some g → s.nodes[g.node]? = some n → g.stand = .resident →
    n.lr.save ≠ 0 → (i, g) ∈ s.unitOf n.lr g →
    let midway := ∃ e ∈ s.unitOf n.lr g, e.2.stand = .resident ∧ ∃ m ∈ e.2.members, s.midWord m = true
    (g.leaving = false → midway → exec (.preemptGroup i) s = .next s)
    ∧ (g.leaving = false → ¬midway → (s.ctx g.ctx).suspend = true ∨ s.asksFor i = true → ∃ t, exec (.preemptGroup i) s = .next t ∧ t.mem = s.mem
      ∧ t.groups[i]? = some { g with leaving := true }
      ∧ ∀ (m : Nat) (M : Gang), m ∈ g.members → s.gangs[m]? = some M → M.stand = .resident →
          ∃ M', t.gangs[m]? = some M' ∧ M'.tail = none ∧ M'.fwait = none ∧ M'.crawl = false ∧ M'.stand = .resident)
    ∧ (g.leaving = true → (∀ e ∈ s.unitOf n.lr g, e.2.stand = .resident → s.drained e.2 = true) →
      (∀ e ∈ s.unitOf n.lr g, s.keepsScratch e.2 = true → s.saveHeld e.2 n.lr.save = false) →
      ∃ t, exec (.preemptGroup i) s = .next t ∧ t.groups[i]? = some { g with leaving := false, stand := .saved }
        ∧ ∀ (m : Nat) (M : Gang), m ∈ g.members → s.gangs[m]? = some M → M.stand = .resident →
            (∃ M', t.gangs[m]? = some M' ∧ M'.stand = .saved ∧ M'.v = M.v ∧ M'.s = M.s) ∧ (t.part M.part).token ≠ some m))
  ∧ ∀ (s : State) (k : Nat) (n : Node), s.nodes[k]? = some n → n.stand = .launched → (s.ctx n.ctx).active = true → s.nodeQuiet k n = true →
    s.endingHeld n.ending = false →
    let status := if n.lost then 3 else 1
    (n.lr.next = 0 →
      ∃ t u, exec (.nodeComplete k) s = .next t ∧ Wrote s u ∧ t = { u with nodes := t.nodes }
        ∧ t.nodes = s.nodes.modify k (fun n => { n with stand := .done, yard := [] })
        ∧ HoldsNumber s t (n.pa + 0x78) 8 status)
    ∧ ∀ (h word : Nat) (es : List (List Byte)),
      let u := (s.updNode k fun n => { n with stand := .done, yard := [] }).writeNat none none (n.pa + 0x78) 8 status
      ListReads u n.ctx n.lr.next h es →
      ((∃ e ∈ es, edgeSel e = false) → ∃ bs, u.devRead n.ctx n.lr.result 4 = (.ok bs, u) ∧ leNat bs = word) →
      (∀ m ∈ u.nodes, m.ctx = n.ctx → m.stand = .launched → ∀ e ∈ es, m.addr ≠ edgeTo e) →
      let told (t : State) : Prop := t.irqs = s.irqs ++ if h / 2 ^ 8 = 1 then [s.vector n.ctx 0] else []
      ((∀ e ∈ es, edgeJoin e = 0) →
        let taken := es.filter (edgeHolds status word)
        ∃ t, exec (.nodeComplete k) s = .next t ∧ OnlyGraph u t n.ctx ∧ told t
          ∧ readied (t.ctx n.ctx) = readied (s.ctx n.ctx) ++ taken.map (fun e => (edgeTo e, .edge))
          ∧ (t.ctx n.ctx).waitYards = (s.ctx n.ctx).waitYards ++ yardTo n ((taken.find? edgeRelay).map edgeTo))
      ∧ ∀ (e : List Byte) (x : Xlat), es = [e] → edgeJoin e ≠ 0 → edgeJoin e % 4 = 0 → u.devXlat n.ctx (edgeJoin e) true = (.ok x, u) →
        x.leaf.crew = false → x.leaf.tier ≠ 2 → leafDiscard u.mem x.leaf = false → Clean u x.pa 4 →
        let v := memNat u.mem x.pa 4
        let yard (t : State) : Prop := (t.ctx n.ctx).waitYards = (s.ctx n.ctx).waitYards ++ yardTo n (if edgeRelay e then some (edgeTo e) else none)
        let same (t : State) : Prop := readied (t.ctx n.ctx) = readied (s.ctx n.ctx)
        (edgeHolds status word e = false →
          ∃ t, exec (.nodeComplete k) s = .next t ∧ OnlyGraph u t n.ctx ∧ told t ∧ same t ∧ (t.ctx n.ctx).waitYards = (s.ctx n.ctx).waitYards)
        ∧ (edgeHolds status word e = true →
          (v = 0 → ∃ t, exec (.nodeComplete k) s = .next t ∧ (u.logq = [] → SameOutsideLog u t n.ctx) ∧ same t
            ∧ (t.ctx n.ctx).waitYards = (s.ctx n.ctx).waitYards)
          ∧ (0 < v → ∃ t, exec (.nodeComplete k) s = .next t ∧ HoldsNumber u t x.pa 4 (v - 1) ∧ told t ∧ yard t
            ∧ (v = 1 → readied (t.ctx n.ctx) = readied (s.ctx n.ctx) ++ [(edgeTo e, .edge)]) ∧ (1 < v → same t)))

/-- The cluster's fault stage (R362 to R364): a walk that finds the page, or maps it at first touch, sends the waiting gangs
back to their access; an entry that it cannot map escalates into the host's ring with the fault interrupt; RESOLVE sends it to
its walk again, or ends the wait with the trap. -/
def Obligations.FaultStageEvents : Prop :=
  (∀ (s u : State) (i : Instr) (x : StageEntry) (f : Nat),
    (i = .faultStageWalk x.cluster x.slot ∧ s.stageAt x.cluster x.slot = some x ∧ x.escalate = false)
      ∨ (∃ id, i = .resolveRetry x.ctx id ∧ s.stageAt (id / 256) (id % 256) = some x ∧ x.posted = true ∧ s.unposted x.ctx = []) →
    s.walkReady (s.ctx x.ctx).root x.unit = true →
    ((∃ v p, walkVa s.mem (s.ctx x.ctx).root x.unit = .invalid v p) → s.pgmapHeld x.ctx x.unit = true → exec i s = .next s)
    ∧ ((∃ v p, walkVa s.mem (s.ctx x.ctx).root x.unit = .invalid v p) → s.pgmapHeld x.ctx x.unit = false → s.pgmap x.ctx x.unit = (0, s) →
      ∃ t, exec i s = .next t ∧ t = { s with stages := s.stages.map fun y =>
        if y.cluster = x.cluster ∧ y.slot = x.slot then { y with escalate := true, posted := false } else y })
    ∧ (((∀ v p, walkVa s.mem (s.ctx x.ctx).root x.unit ≠ .invalid v p) ∧ u = s)
        ∨ ((∃ v p, walkVa s.mem (s.ctx x.ctx).root x.unit = .invalid v p) ∧ s.pgmapHeld x.ctx x.unit = false ∧ s.pgmap x.ctx x.unit = (f, u) ∧ f ≠ 0) →
      (∀ m ∈ x.waiters, ∀ M w, u.gangs[m]? = some M → M.fwait = some w → ∀ e ∈ w.units, e.2.2 ≠ 2) →
      ∃ t, exec i s = .next t ∧ SameMemory u t
        ∧ (∀ m M w, m ∈ x.waiters → u.gangs[m]? = some M → M.fwait = some w →
            ∃ M', t.gangs[m]? = some M' ∧ M' = { M with fwait := M'.fwait, slices := M'.slices }
              ∧ ((∀ e ∈ w.units, e.1 = x.unit ∨ e.2.2 ≠ 0) → M'.fwait = none
                  ∧ ∀ k : Nat, M'.slices[k]? = (M.slices[k]?).map fun sl => if w.trap.frag.getLsbD k ∧ w.trap.once = false
                      then { sl with replay := some (BitVec.ofNat 4 ((w.trap.lanes ||| w.trap.retry).toNat / 2 ^ (4 * k))) } else sl)
              ∧ ((∃ e ∈ w.units, e.1 ≠ x.unit ∧ e.2.2 = 0) → M'.fwait = some (resolveUnit w x.unit) ∧ M'.slices = M.slices))
        ∧ ∀ m, m ∉ x.waiters → t.gangs[m]? = u.gangs[m]?))
  ∧ (∀ (s : State) (i : Instr) (x : StageEntry),
    (i = .faultEscalate x.cluster x.slot ∧ s.stageAt x.cluster x.slot = some x ∧ x.escalate = true ∧ x.posted = false)
      ∨ (i = .faultRingPoll x.ctx ∧ s.unposted x.ctx = [x]) →
    let q := (s.ctx x.ctx).faultq
    let head := memNat s.mem q 8
    let tail := memNat s.mem (q + 8) 8
    let a := q + 64 + 32 * (head % 8192)
    s.held q 16 = false → s.held a 32 = false → tail ≤ head → head < tail + 8192 →
    ∃ t u, exec i s = .next t ∧ Wrote s u ∧ t = { u with stages := t.stages, irqs := s.irqs ++ [s.vector x.ctx 1] }
      ∧ (t.stages = s.stages.map fun y => if y.cluster = x.cluster ∧ y.slot = x.slot then { y with posted := true } else y)
      ∧ memNat t.mem a 8 = x.unit % 2 ^ 64 ∧ memNat t.mem (a + 8) 2 = x.acc % 16 ∧ memNat t.mem (a + 10) 2 = s.waitCount x % 2 ^ 16
      ∧ memNat t.mem (a + 12) 2 = (x.cluster * 256 + x.slot) % 2 ^ 16 ∧ (∀ j, 14 ≤ j → j < 32 → stGet (w := 8) t.mem (a + j) = 0)
      ∧ memNat t.mem q 8 = (head + 1) % 2 ^ 64
      ∧ ∀ j, (j < q ∨ q + 8 ≤ j) → (j < a ∨ a + 32 ≤ j) → stGet (w := 8) t.mem j = stGet (w := 8) s.mem j)
  ∧ ∀ (s : State) (id g : Nat) (x : StageEntry) (G : Gang) (gr : Group) (w : FaultWait) (m : BitVec 32),
    s.stageAt (id / 256) (id % 256) = some x → x.posted = true → s.unposted x.ctx = [] → x.defers = [] → x.waiters = [g] →
    s.gangs[g]? = some G → s.groups[G.grp]? = some gr → G.fwait = some w → w.units = [(x.unit, m, 0)] → G.super = false → VectorRuns s G gr →
    ∃ t, exec (.resolveFail x.ctx id) s = .next t
      ∧ Traps s t g G (s.ctx gr.ctx).trapvec (causeWord w.trap.info
          (if w.trap.cause = .pagefault ∨ w.trap.cause = .prot ∨ w.trap.cause = .poison then w.trap.acc % 16 else 0) w.trap.cause.code)
          w.trap.addr m w.trap.retry w.trap.frag
      ∧ ∃ G', t.gangs[g]? = some G' ∧ G'.fwait = none

/-- The host's steps on a context: SUBMIT (R352, R356), CTXCTL_ACTIVATE (R353), CTXCTL_TEARDOWN (R352), CTXCTL_SUSPEND and
CTXCTL_RESUME (R368), CONTEXT_SUSPENDED (R352, R368), none of which makes more than 64 contexts active (R1), and INCOMING_ACCESS
(R371, R374), which reads or writes one word of device memory. -/
def Obligations.ContextEvents : Prop :=
  ∀ (s : State) (c : Nat),
    (∀ x : DWord, ((s.ctx c).active = false ∨ 64 ≤ c → exec (.submit c x) s = .next s)
      ∧ (c < 64 → (s.ctx c).active = true → x.toNat < 2 ^ 57 → x.toNat % 256 = 0 →
        (((s.ctx c).queue.filter (·.src != .edge)).length < 1024 →
          (∀ n ∈ s.nodes, n.ctx = c → n.addr = x.toNat → n.stand ≠ .launched) →
          ∃ t, exec (.submit c x) s = .next t ∧ t = { s with ctxs := t.ctxs, stamp := s.stamp + 1 }
            ∧ t.ctx c = { s.ctx c with queue := (s.ctx c).queue ++ [⟨x.toNat, .host, s.stamp⟩] } ∧ ∀ k, k ≠ c → t.ctx k = s.ctx k)
        ∧ (1024 ≤ ((s.ctx c).queue.filter (·.src != .edge)).length ∨ (∃ n ∈ s.nodes, n.ctx = c ∧ n.addr = x.toNat ∧ n.stand = .launched) →
          ∃ t, exec (.submit c x) s = .next t ∧ ∀ k, t.ctx k = s.ctx k)))
    ∧ (let pa := (s.ctx c).ctxrec.toNat
      ((s.ctx c).active = true ∨ 64 ≤ c → exec (.ctxctlActivate c) s = .next s)
      ∧ (c < 64 → s.lamgil = true → (s.ctx c).active = false → s.held pa 512 = false → s.recReadable pa 512 = true →
        ctxRecOk (memBytes s.mem pa 512) = true →
        ∃ t, exec (.ctxctlActivate c) s = .next t ∧ t = { s with ctxs := t.ctxs, tlb := s.tlb.filter fun e => e.ctx != c }
          ∧ (t.ctx c).active = true ∧ (t.ctx c).suspended = false ∧ (t.ctx c).ctxrec = (s.ctx c).ctxrec ∧ (t.ctx c).queue = []
          ∧ (t.ctx c).launched = 0 ∧ (t.ctx c).waitYards = [] ∧ LoadedFrom s.mem pa (t.ctx c) ∧ ∀ k, k ≠ c → t.ctx k = s.ctx k))
    ∧ (((s.ctx c).active = false → exec (.ctxctlTeardown c) s = .next s)
      ∧ ((s.ctx c).active = true → ∃ t, exec (.ctxctlTeardown c) s = .next t ∧ t.mem = s.mem ∧ t.ops = s.ops
        ∧ t.ctx c = { s.ctx c with active := false, suspended := false, torn := true, queue := [], waitYards := [] }
        ∧ (∀ k, k ≠ c → t.ctx k = s.ctx k)
        ∧ (∀ (i : Nat) (gr : Group), s.groups[i]? = some gr → gr.ctx = c → gr.stand ≠ .ended → ∀ m ∈ gr.members, t.gangEnded m = true)
        ∧ ∀ n ∈ t.nodes, n.ctx = c → n.stand ≠ .launched))
    ∧ ((s.ctx c).suspend = false → ∃ t, exec (.ctxctlSuspend c) s = .next t ∧ OnlyCtx s t c
        ∧ t.ctx c = { s.ctx c with suspend := true, suspended := if (s.ctx c).active then false else (s.ctx c).suspended })
    ∧ ((s.ctx c).suspend = true → (∃ t, exec (.ctxctlResume c) s = .next t ∧ OnlyCtx s t c
        ∧ t.ctx c = { s.ctx c with suspend := false, suspended := if (s.ctx c).active then false else (s.ctx c).suspended }) ∧ exec (.ctxctlSuspend c) s = .next s)
    ∧ ((s.ctx c).torn = true ∨ (s.ctx c).suspend = true → (s.ctx c).suspended = false →
        (∀ gr ∈ s.groups, gr.ctx = c → gr.stand ≠ .resident) → (∀ d ∈ s.cmds, d.ctx ≠ c) →
        (∀ o ∈ s.ops, o.ctx = c → o.cls ≠ 4 → o.elems = [] ∧ o.busy = false) →
        ∃ t, exec (.contextSuspended c) s = .next t ∧ OnlyCtx s t c ∧ t.ctx c = { s.ctx c with suspended := true, torn := false })
    ∧ ∀ x : Incoming,
        (s.incomingWaits x = true → exec (.incomingAccess x) s = .next s)
        ∧ (s.incomingWaits x = false → s.incomingXlat x = none → x.ctx = none →
          exec (.incomingAccess x) s = .next (if x.data = none then { s with replies := s.replies ++ [.abort] } else s))
        ∧ (s.incomingWaits x = false → s.incomingXlat x = none → x.ctx ≠ none →
          ∃ t, exec (.incomingAccess x) s = .next t ∧ t.replies = s.replies ++ (if x.data = none then [.unsupported] else []))
        ∧ ∀ y : Xlat, s.incomingWaits x = false → s.incomingXlat x = some y → y.leaf.mapped = false →
          let disc := y.leaf.size ≠ 0 ∧ leafDiscard s.mem y.leaf = true
          (s.held y.pa 4 = true → exec (.incomingAccess x) s = .next s)
          ∧ (s.held y.pa 4 = false → x.data = none → ∃ (t : State) (v : Reply), exec (.incomingAccess x) s = .next t
            ∧ t = { s with slices := t.slices, free := t.free, farOut := t.farOut, replies := s.replies ++ [v] }
            ∧ (disc → v = .data 0) ∧ (¬disc → s.isPoisoned (y.pa / 4) = true → v = .abort)
            ∧ (¬disc → s.isPoisoned (y.pa / 4) = false → v = .data (BitVec.ofNat 64 (memNat s.mem y.pa 4)) ∨ isFar y.pa = true ∧ v = .abort)
            ∧ (¬disc → isFar y.pa = true → s.farReq y.pa .read = none → y.leaf.size ≠ 0 → v = .abort)
            ∧ (disc ∨ isFar y.pa = false → t.free = s.free ∧ t.farOut = s.farOut))
          ∧ ∀ w, s.held y.pa 4 = false → x.data = some w → ¬disc →
            (s.isPoisoned (y.pa / 4) = true → ∃ t, exec (.incomingAccess x) s = .next t ∧ t = { s with slices := t.slices })
            ∧ (s.isPoisoned (y.pa / 4) = false → y.leaf.tier ≠ 2 →
              ∃ t, exec (.incomingAccess x) s = .next t ∧ Wrote s t ∧ HoldsNumber s t y.pa 4 w.toNat)

/-- HOST_REGISTER_WRITE (R352, R370, R371, R372, R375): a write reaches a context's block from the function that owns it, once
Lamgil is ready, and does what the register says; the mailbox, the slice counters and VF Enable belong to the physical function.
That a slice selector keeps its 12 low bits and drops the others is the model's choice (notes/assumptions 14). -/
def Obligations.HostRegisterWrites : Prop :=
  ∀ (s : State) (fn : Nat) (x : DWord),
    (∀ c, s.lamgil = true → s.reaches fn c = true →
      exec (.hostRegisterWrite fn (.submit c) x) s = exec (.submit c x) s
      ∧ (x.toNat % 512 = 0 → x.toNat < 2 ^ 52 → (s.ctx c).active = false →
        ∃ t, exec (.hostRegisterWrite fn (.ctxrec c) x) s = .next t ∧ OnlyCtx s t c ∧ t.ctx c = { s.ctx c with ctxrec := x })
      ∧ (x.toNat % 512 = 0 → x.toNat < 2 ^ 52 → (s.ctx c).active = true → exec (.hostRegisterWrite fn (.ctxrec c) x) s = .next s)
      ∧ (x.toNat < 8 → ∃ u, exec (if x.getLsbD 1 then .ctxctlSuspend c else .ctxctlResume c) s = .next u
        ∧ exec (.hostRegisterWrite fn (.ctxctl c) x) s = exec (if x.getLsbD 0 then .ctxctlActivate c else .ctxctlTeardown c) u)
      ∧ (x.toNat < 2 ^ 18 → exec (.hostRegisterWrite fn (.resolve c) x) s =
          exec (if x.toNat / 2 ^ 16 = 0 then .resolveRetry c (x.toNat % 2 ^ 16)
                else if x.toNat / 2 ^ 16 = 1 then .resolveFail c (x.toNat % 2 ^ 16) else .faultRingPoll c) s))
    ∧ (∀ c, s.lamgil = false ∨ s.reaches fn c = false →
      ∀ r ∈ [HostReg.submit c, .ctxrec c, .ctxctl c, .resolve c], exec (.hostRegisterWrite fn r x) s = .next s)
    ∧ (∀ c, s.reaches fn c = true ↔ c < 64 ∧ ((fn = 0 ∧ ¬(c < 32 ∧ s.vfs.getLsbD c = true)) ∨ (fn = c + 1 ∧ c < 32 ∧ s.vfs.getLsbD c = true)))
    ∧ (∀ o, s.lamgil = true → o < 4096 → (o / 4 = 0 → leNat ((List.range 4).map fun k => stGet s.mailbox k) ≠ 1) →
      ∃ t, exec (.hostRegisterWrite 0 (.mailbox o) x) s = .next t ∧ t = { s with mailbox := t.mailbox }
        ∧ leNat ((List.range 4).map fun k => stGet t.mailbox (o / 4 * 4 + k)) = x.toNat % 2 ^ 32
        ∧ ∀ j, (j < o / 4 * 4 ∨ o / 4 * 4 + 4 ≤ j) → stGet t.mailbox j = stGet s.mailbox j)
    ∧ (∀ i j, s.lamgil = true → i < 128 → j < 8 →
      (∃ t, exec (.hostRegisterWrite 0 (.sliceSel i j) x) s = .next t ∧ t = { s with slices := t.slices }
        ∧ stGet (t.slice i).sel j = x &&& 0xFFF ∧ (t.slice i).cnt = (s.slice i).cnt ∧ ∀ k, k ≠ i → t.slice k = s.slice k)
      ∧ ∃ t, exec (.hostRegisterWrite 0 (.sliceCnt i j) x) s = .next t ∧ t = { s with slices := t.slices }
        ∧ stGet (t.slice i).cnt j = x ∧ (t.slice i).sel = (s.slice i).sel ∧ ∀ k, k ≠ i → t.slice k = s.slice k)
    ∧ (s.link = true → exec (.hostRegisterWrite 0 .vfEnable x) s = .next { s with vfs := x.setWidth 32 })
    ∧ ∀ r, (fn ≠ 0 ∧ (r = .vfEnable ∨ (∃ o, r = .mailbox o) ∨ ∃ i j, r = .sliceSel i j ∨ r = .sliceCnt i j)) →
        exec (.hostRegisterWrite fn r x) s = .next s

/-- Units that become ready, fail or are struck (R2, R34, R366, R375 to R380): UNIT_READY, FIRMWARE_VERIFY, ATTESTATION_REQUEST,
UNIT_OFFLINE, SOFT_ERROR, SCRUB, THERMAL_THROTTLE, CLOCK_COUNT. That a clk counts for the context that wrote the selector while
it has a resident gang on the core, and that a unit that concerns no group and no bank item concerns every active context, is
the model's choice (notes/assumptions 61 and 59). -/
def Obligations.PlatformEvents : Prop :=
  ∀ s : State,
    (∃ t, exec .clockCount s = .next t ∧ t.clock = s.clock + 1 ∧ (∀ p, t.part p = { s.part p with issued := false, throttled := false })
      ∧ (s.logq = [] → t = { s with clock := s.clock + 1, parts := t.parts, gangs := t.gangs, cores := t.cores }
        ∧ (∀ g : Nat, t.gangs[g]? = (s.gangs[g]?).map fun G => { G with stalled := false })
        ∧ ∀ c, (t.core c).evsel = (s.core c).evsel ∧ (t.core c).offline = (s.core c).offline ∧ ∀ k, k < 16 →
            stGet (t.core c).evcnt k = stGet (s.core c).evcnt k
              + if (stGet (s.core c).evsel k).toNat % 256 = 1 ∧ s.clkOf c (tabGet (s.core c).evctx 64 k) = true then 1 else 0))
    ∧ ((Device.link ∉ s.offline → exec (.unitReady .link) s = .next { s with link := true })
      ∧ (∀ c, Device.cluster c ∉ s.offline → c < 24 → ∃ t, exec (.unitReady (.cluster c)) s = .next t
          ∧ t = { s with clusters := t.clusters } ∧ ∀ j, j ∈ t.clusters ↔ j = c ∨ j ∈ s.clusters)
      ∧ (∀ c, Device.channel c ∉ s.offline → c < 128 → ∃ t, exec (.unitReady (.channel c)) s = .next t
          ∧ t = { s with channels := t.channels } ∧ ∀ j, j ∈ t.channels ↔ j = c ∨ j ∈ s.channels)
      ∧ (∀ k, Device.stack k ∉ s.offline → k < 2 → k ∉ s.stacksUp → ∃ t, exec (.unitReady (.stack k)) s = .next t
          ∧ (∀ j, j ∈ t.stacksUp ↔ j = k ∨ j ∈ s.stacksUp)
          ∧ ∀ a, stGet (w := 8) t.mem a = if k * 2 ^ 33 ≤ a ∧ a < (k + 1) * 2 ^ 33 then 0 else stGet (w := 8) s.mem a)
      ∧ ∀ u, u ∈ s.offline → exec (.unitReady u) s = .next s)
    ∧ ((Device.lamgil ∉ s.offline → imagesOk s.firmware s.config = true → exec .firmwareVerify s = .next { s with lamgil := true })
      ∧ (imagesOk s.firmware s.config = false → exec .firmwareVerify s = .next s))
    ∧ (let req := leNat ((List.range 4).map fun k => stGet s.mailbox k)
      (s.lamgil = true → req = 1 → ∃ t, exec .attestationRequest s = .next t ∧ t = { s with mailbox := t.mailbox }
        ∧ (∀ k, k < 4 → stGet t.mailbox k = 0)
        ∧ (∀ j, j < s.signedReport.length → some (stGet t.mailbox (0x100 + j)) = s.signedReport[j]?)
        ∧ ∀ j, 4 ≤ j → (j < 0x100 ∨ 0x100 + s.signedReport.length ≤ j) → stGet t.mailbox j = stGet s.mailbox j)
      ∧ (req ≠ 1 → exec .attestationRequest s = .next s))
    ∧ (∀ (u : Device) (lost : List Nat), (u ∈ s.offline → exec (.unitOffline u lost) s = .next s)
      ∧ (u ∉ s.offline → ∃ t, exec (.unitOffline u lost) s = .next t ∧ t.offline = s.offline ++ [u]
        ∧ t.link = (s.link && u != .link) ∧ t.lamgil = (s.lamgil && u != .lamgil)
        ∧ (∀ c, c ∈ t.clusters ↔ c ∈ s.clusters ∧ u ≠ .cluster c) ∧ (∀ k, k ∈ t.stacksUp ↔ k ∈ s.stacksUp ∧ u ≠ .stack k)
        ∧ (∀ c, c ∈ t.channels ↔ c ∈ s.channels ∧ u ≠ .channel c)
        ∧ (∀ c, u = .core c ∨ u = .cluster (c / 8) → (t.core c).offline = true)
        ∧ ((∃ i, u = .slice i) ∨ (∃ c, u = .channel c) ∨ u = .link ∨ u = .lamgil → ∀ c, (s.ctx c).active = true → s.vector c 2 ∈ t.irqs)
        ∧ ∀ (g : Nat) (G : Gang) (gr : Group), s.gangs[g]? = some G → G.stand = .resident → s.groups[G.grp]? = some gr → g ∈ gr.members →
            u = .core G.core ∨ u = .cluster (G.core / 8) → t.gangEnded g = true))
    ∧ ((∀ i, ∃ t, exec (.softError (.corrected i)) s = .next t ∧ t = { s with slices := t.slices } ∧ ∀ k, (t.slice k).sel = (s.slice k).sel)
      ∧ exec (.softError .clean) s = .next s
      ∧ (∀ pa, isFar pa = false → ∃ t, exec (.softError (.memory pa)) s = .next t ∧ t.mem = s.mem
          ∧ ∀ w, t.isPoisoned w = (s.isPoisoned w || w / 2 == pa / 8))
      ∧ (∀ (u pa : Nat) (c : WinCopy), copyOf s.l1win u (pa / 128) = some c → c.dirty.getLsbD (pa % 128) = true →
          ∃ t c', exec (.softError (.copy false u pa)) s = .next t ∧ t.mem = s.mem
            ∧ (∀ w, t.isPoisoned w = (s.isPoisoned w || w / 2 == pa / 8)) ∧ copyOf t.l1win u (pa / 128) = some c' ∧ c'.data = c.data
            ∧ ∀ j, j < 128 → c'.dirty.getLsbD j = (c.dirty.getLsbD j && j / 8 != pa % 128 / 8))
      ∧ ∀ (g : Nat) (G : Gang) (gr : Group), s.gangs[g]? = some G → G.stand = .resident → s.groups[G.grp]? = some gr →
          ∃ t, exec (.softError (.gang g)) s = .next t ∧ ∀ m ∈ gr.members, t.gangEnded m = true)
    ∧ (exec (.scrub true) s = .next { s with scrubBulk := s.clock.toNat }
      ∧ exec (.scrub false) s = .next { s with scrubStack := s.clock.toNat })
    ∧ ∀ p, ∃ t, exec (.thermalThrottle p) s = .next t ∧ OnlyPart s t p ∧ t.part p = { s.part p with throttled := true }

/-- The resets (R380): FLR_VF tears down the context of its function, whose queue is empty then, FLR_PF every context, and both
leave memory alone; FUNDAMENTAL_RESET leaves the state after reset, but for the images in flash and, by the model's choice where
the spec names no value (notes/assumptions 20), the bytes of memory. That CTXREC reads 0 after FLR_PF is the model's choice
(notes/assumptions 1). The links: DIRTY_WINDOW_WRITEBACK (R199), which drops the copy that it writes back by the model's choice
(notes/assumptions 26), ATS_TRANSLATION (R373), SYSTEM_WRITE_ACKNOWLEDGE (R199, R373), PEER_LINK_DOWN (R374). -/
def Obligations.ResetsAndLinks : Prop :=
  ∀ s : State,
    (∀ k, k < 32 → s.vfs.getLsbD k = true → exec (.flrVf (k + 1)) s = exec (.ctxctlTeardown k) s
      ∧ ∃ t, exec (.flrVf (k + 1)) s = .next t ∧ (t.ctx k).active = false ∧ t.mem = s.mem
        ∧ ((s.ctx k).active = true ∨ (s.ctx k).queue = [] → (t.ctx k).queue = []))
    ∧ (∀ k, (k = 0 ∨ 32 < k ∨ s.vfs.getLsbD (k - 1) = false) → exec (.flrVf k) s = .next s)
    ∧ (∃ t, exec .flrPf s = .next t ∧ t.mem = s.mem ∧ t.vfs = 0 ∧ t.slices = [] ∧ (∀ k, k < 4 → stGet t.mailbox k = 0)
      ∧ (∀ j, 4 ≤ j → stGet t.mailbox j = stGet s.mailbox j)
      ∧ ∀ c, c < 64 → (t.ctx c).active = false ∧ (t.ctx c).ctxrec = 0 ∧ (t.ctx c).suspend = false ∧ (t.ctx c).suspended = false
          ∧ (t.ctx c).queue = [])
    ∧ (∃ t, exec .fundamentalReset s = .next t
      ∧ t = { State.reset with agenda := s.agenda, free := s.free, firmware := s.firmware, config := s.config, mem := t.mem, poison := t.poison }
      ∧ ∀ a, stGet (w := 8) t.mem a = if a < 2 ^ 52 then stGet (w := 8) s.mem a else 0)
    ∧ (∀ (u line : Nat) (c : WinCopy), copyOf s.l2win u line = some c → isFar (128 * line) = false →
      ∃ t, exec (.dirtyWindowWriteback true u line) s = .next t ∧ copyOf t.l2win u line = none
        ∧ ∀ j, stGet (w := 8) t.mem j = if 128 * line ≤ j ∧ j < 128 * line + 128 ∧ c.dirty.getLsbD (j - 128 * line) = true
            then stGet c.data (j - 128 * line) else stGet (w := 8) s.mem j)
    ∧ (∀ (u line : Nat) (c d : WinCopy), copyOf s.l1win u line = some c → copyOf s.l2win (homeSlice (128 * line) (dieOf u)) line = some d →
      ∃ t d', exec (.dirtyWindowWriteback false u line) s = .next t ∧ t.mem = s.mem ∧ copyOf t.l1win u line = none
        ∧ copyOf t.l2win (homeSlice (128 * line) (dieOf u)) line = some d'
        ∧ ∀ k, k < 128 → (stGet d'.data k = if c.dirty.getLsbD k then stGet c.data k else stGet d.data k)
            ∧ d'.dirty.getLsbD k = (d.dirty.getLsbD k || c.dirty.getLsbD k))
    ∧ (∀ page host, ∃ t, exec (.atsTranslation page host) s = .next t ∧ t = { s with ats := t.ats } ∧ (∀ d, tabGet t.ats d page = host)
      ∧ ∀ d q, q ≠ page → tabGet t.ats d q = tabGet s.ats d q)
    ∧ (∀ n, exec (.systemWriteAcknowledge n) s = .next { s with farPend := s.farPend - n })
    ∧ ∀ (p : Nat) (down : Bool), ∃ t, exec (.peerLinkDown p down) s = .next t ∧ t = { s with peerDown := t.peerDown }
        ∧ ∀ q, q ∈ t.peerDown ↔ if q = p then down = true else q ∈ s.peerDown
end

