-- ==== Sys2Proof/Laws/Store.lean ====
section
/-! SUPPORT. The laws of sparse tables and of memory: read after write, the canonical form, byte order. -/
namespace Sys2Proof.Machine

/-! ### Read after write -/

@[simp] theorem stGet_nil {w : Nat} (k : Nat) : stGet ([] : Store w) k = 0 := rfl

theorem stGet_stPut {w : Nat} (t : Store w) (k j : Nat) (x : BitVec w) :
    stGet (stPut t k x) j = if j = k then x else stGet t j := by
  induction t with
  | nil => simp [stPut, stGet, eq_comm]
  | cons e r ih =>
    obtain ⟨a, y⟩ := e
    simp only [stPut]
    grind [stGet]

theorem stGet_filter_ne {w : Nat} (t : Store w) (k j : Nat) :
    stGet (t.filter fun e => e.1 != k) j = if j = k then 0 else stGet t j := by
  induction t with
  | nil => simp
  | cons e r ih =>
    obtain ⟨a, y⟩ := e
    simp only [List.filter_cons]
    grind [stGet]

/-- A read after a write of one key. -/
theorem stGet_stSet {w : Nat} (t : Store w) (k j : Nat) (x : BitVec w) :
    stGet (stSet t k x) j = if j = k then x else stGet t j := by
  unfold stSet
  split
  · next h => rw [stGet_filter_ne, h]
  · exact stGet_stPut t k j x

@[simp] theorem stGet_stSet_self {w : Nat} (t : Store w) (k : Nat) (x : BitVec w) : stGet (stSet t k x) k = x := by
  simp [stGet_stSet]

theorem stGet_stSet_ne {w : Nat} (t : Store w) {k j : Nat} (x : BitVec w) (h : j ≠ k) :
    stGet (stSet t k x) j = stGet t j := by simp [stGet_stSet, h]

/-- A read after several writes: the last one of its key, if any. -/
theorem stGet_stSetAll {w : Nat} (l : List (Nat × BitVec w)) (t : Store w) (j : Nat) :
    stGet (stSetAll t l) j = ((l.reverse.find? fun e => e.1 == j).map (·.2)).getD (stGet t j) := by
  unfold stSetAll
  induction l generalizing t with
  | nil => simp
  | cons e r ih =>
    simp only [List.foldl_cons, ih, List.reverse_cons, List.find?_append, stGet_stSet]
    cases h : List.find? (fun e => e.1 == j) r.reverse <;> grind

/-- A key that no write names keeps its word. -/
theorem stGet_stSetAll_of_not_mem {w : Nat} (l : List (Nat × BitVec w)) (t : Store w) (j : Nat)
    (h : ∀ e ∈ l, e.1 ≠ j) : stGet (stSetAll t l) j = stGet t j := by
  rw [stGet_stSetAll, List.find?_eq_none.2]
  · rfl
  · intro e he; simpa using h e (by simpa using he)

@[simp] theorem stSetAll_nil {w : Nat} (t : Store w) : stSetAll t [] = t := rfl

theorem stSetAll_append {w : Nat} (t : Store w) (l m : List (Nat × BitVec w)) :
    stSetAll t (l ++ m) = stSetAll (stSetAll t l) m := by simp [stSetAll]

theorem stGet_stClear {w : Nat} (t : Store w) (lo hi j : Nat) :
    stGet (stClear t lo hi) j = if lo ≤ j ∧ j < hi then 0 else stGet t j := by
  unfold stClear
  induction t with
  | nil => simp
  | cons e r ih =>
    obtain ⟨a, y⟩ := e
    simp only [List.filter_cons]
    grind [stGet]

theorem tabGet_tabSet {α : Type} (t : Tab α) (d : α) (k j : Nat) (x : α) :
    tabGet (tabSet t k x) d j = if j = k then x else tabGet t d j := by
  induction t with
  | nil => simp [tabSet, tabGet, eq_comm]
  | cons e r ih =>
    obtain ⟨a, y⟩ := e
    simp only [tabSet]
    grind [tabGet]

@[simp] theorem tabGet_tabSet_self {α : Type} (t : Tab α) (d : α) (k : Nat) (x : α) :
    tabGet (tabSet t k x) d k = x := by simp [tabGet_tabSet]

/-! ### The canonical form -/

/-- The canonical form as a statement about keys and words. -/
theorem stWf_iff {w : Nat} (t : Store w) :
    stWf t = true ↔ t.Pairwise (fun a b => a.1 < b.1) ∧ ∀ e ∈ t, e.2 ≠ 0 := by
  induction t with
  | nil => simp [stWf]
  | cons e r ih =>
    obtain ⟨a, x⟩ := e
    cases r with
    | nil => simp [stWf]
    | cons f r =>
      obtain ⟨b, y⟩ := f
      simp only [stWf, Bool.and_eq_true, bne_iff_ne, decide_eq_true_eq, ih, List.pairwise_cons, List.mem_cons,
        forall_eq_or_imp]
      constructor
      · rintro ⟨⟨hx, hab⟩, ⟨hb, hr⟩, hy, hz⟩
        exact ⟨⟨⟨hab, fun e he => Nat.lt_trans hab (hb e he)⟩, hb, hr⟩, hx, hy, hz⟩
      · rintro ⟨⟨⟨hab, _⟩, hb, hr⟩, hx, hy, hz⟩
        exact ⟨⟨hx, hab⟩, ⟨hb, hr⟩, hy, hz⟩

theorem stWf_nil {w : Nat} : stWf ([] : Store w) = true := rfl

theorem stWf_filter {w : Nat} (t : Store w) (p : Nat × BitVec w → Bool) (h : stWf t = true) :
    stWf (t.filter p) = true := by
  rw [stWf_iff] at *
  exact ⟨h.1.filter _, fun e he => h.2 e (List.mem_filter.1 he).1⟩

theorem mem_stPut {w : Nat} {t : Store w} {k : Nat} {x : BitVec w} {e : Nat × BitVec w}
    (h : e ∈ stPut t k x) : e = (k, x) ∨ e ∈ t := by
  induction t with
  | nil => simp_all [stPut]
  | cons f r ih =>
    obtain ⟨a, y⟩ := f
    simp only [stPut] at h
    split at h
    · simp at h; tauto
    · split at h
      · simp at h; simp; tauto
      · simp at h
        rcases h with h | h
        · simp [h]
        · rcases ih h with h | h <;> simp [h]

theorem stWf_stPut {w : Nat} (t : Store w) (k : Nat) (x : BitVec w) (hx : x ≠ 0) (h : stWf t = true) :
    stWf (stPut t k x) = true := by
  rw [stWf_iff] at *
  refine ⟨?_, fun e he => ?_⟩
  · replace h := h.1
    induction t with
    | nil => simp [stPut]
    | cons f r ih =>
      obtain ⟨a, y⟩ := f
      rw [List.pairwise_cons] at h
      simp only [stPut]
      split
      · next h' => subst h'; exact List.pairwise_cons.2 h
      · split
        · next h' =>
          refine List.pairwise_cons.2 ⟨fun e he => ?_, List.pairwise_cons.2 h⟩
          rcases List.mem_cons.1 he with rfl | he
          · exact h'
          · exact Nat.lt_trans h' (h.1 e he)
        · refine List.pairwise_cons.2 ⟨fun e he => ?_, ih h.2⟩
          rcases mem_stPut he with rfl | he
          · simp only; omega
          · exact h.1 e he
  · rcases mem_stPut he with rfl | he
    · exact hx
    · exact h.2 e he

/-- A write keeps the canonical form. -/
theorem stWf_stSet {w : Nat} (t : Store w) (k : Nat) (x : BitVec w) (h : stWf t = true) : stWf (stSet t k x) = true := by
  unfold stSet
  split
  · exact stWf_filter t _ h
  · next hx => exact stWf_stPut t k x hx h

/-- Several writes keep the canonical form. -/
theorem stWf_stSetAll {w : Nat} (t : Store w) (l : List (Nat × BitVec w)) (h : stWf t = true) :
    stWf (stSetAll t l) = true := by
  unfold stSetAll
  induction l generalizing t with
  | nil => exact h
  | cons e r ih => exact ih _ (stWf_stSet t e.1 e.2 h)

theorem stWf_stClear {w : Nat} (t : Store w) (lo hi : Nat) (h : stWf t = true) : stWf (stClear t lo hi) = true :=
  stWf_filter t _ h

theorem Memory.wf_nil : Memory.wf [] = true := rfl

/-- Bytes put into memory keep its canonical form. -/
theorem Memory.wf_memPut (m : Memory) (a : Nat) (bs : List Byte) (h : Memory.wf m = true) :
    Memory.wf (memPut m a bs) = true := stWf_stSetAll m _ h

/-- Equal reads are equal tables, in the canonical form. -/
theorem stWf_ext {w : Nat} (t u : Store w) (ht : stWf t = true) (hu : stWf u = true)
    (h : ∀ k, stGet t k = stGet u k) : t = u := by
  rw [stWf_iff] at ht hu
  have key : ∀ {t : Store w}, t.Pairwise (fun a b => a.1 < b.1) → ∀ {e : Nat × BitVec w}, e ∈ t → stGet t e.1 = e.2 := by
    intro t
    induction t with
    | nil => simp
    | cons f r ih =>
      intro hp e he
      obtain ⟨hf, hr⟩ := List.pairwise_cons.1 hp
      rcases List.mem_cons.1 he with rfl | he
      · simp [stGet]
      · simp only [stGet]
        rw [if_neg (Nat.ne_of_lt (hf e he))]
        exact ih hr he
  have miss : ∀ {t : Store w} {k : Nat}, (∀ e ∈ t, e.1 ≠ k) → stGet t k = 0 := by
    intro t k
    induction t with
    | nil => simp
    | cons f r ih =>
      intro hk
      simp only [stGet, if_neg (hk f (by simp))]
      exact ih fun e he => hk e (by simp [he])
  induction t generalizing u with
  | nil =>
    cases u with
    | nil => rfl
    | cons f r =>
      have h1 := h f.1
      rw [key hu.1 (by simp)] at h1
      exact absurd h1.symm (hu.2 f (by simp))
  | cons e r ih =>
    cases u with
    | nil =>
      have h1 := h e.1
      rw [key ht.1 (by simp)] at h1
      exact absurd h1 (ht.2 e (by simp))
    | cons f q =>
      obtain ⟨he, hr⟩ := List.pairwise_cons.1 ht.1
      obtain ⟨hf, hq⟩ := List.pairwise_cons.1 hu.1
      have hef : e.1 = f.1 := by
        rcases Nat.lt_trichotomy e.1 f.1 with hlt | heq | hlt
        · have h1 := h e.1
          rw [key ht.1 (by simp), miss (t := f :: q) (k := e.1)] at h1
          · exact absurd h1 (ht.2 e (by simp))
          · intro x hx
            rcases List.mem_cons.1 hx with rfl | hx
            · omega
            · have := hf x hx; omega
        · exact heq
        · have h1 := h f.1
          rw [key hu.1 (by simp), miss (t := e :: r) (k := f.1)] at h1
          · exact absurd h1.symm (hu.2 f (by simp))
          · intro x hx
            rcases List.mem_cons.1 hx with rfl | hx
            · omega
            · have := he x hx; omega
      have hv : e.2 = f.2 := by
        have h1 := h e.1
        rwa [key ht.1 (by simp), hef, key hu.1 (by simp)] at h1
      have hrq : r = q := by
        refine ih q ⟨hr, fun x hx => ht.2 x (by simp [hx])⟩ ⟨hq, fun x hx => hu.2 x (by simp [hx])⟩ fun k => ?_
        have h1 := h k
        simp only [stGet] at h1
        by_cases hk : e.1 = k
        · rw [miss (t := r), miss (t := q)]
          · intro x hx; have := hf x hx; omega
          · intro x hx; have := he x hx; omega
        · rwa [if_neg hk, if_neg (hef ▸ hk)] at h1
      rw [hrq, Prod.ext hef hv]

/-! ### Bytes -/

@[simp] theorem leBytes_length (n x : Nat) : (leBytes n x).length = n := by
  induction n generalizing x with
  | zero => rfl
  | succ n ih => simp [leBytes, ih]

/-- The bytes of a number make the number again, as far as they hold it (R3). -/
theorem leNat_leBytes (n x : Nat) : leNat (leBytes n x) = x % 2 ^ (8 * n) := by
  induction n generalizing x with
  | zero => simp [leBytes, leNat, Nat.mod_one]
  | succ n ih =>
    simp only [leBytes, leNat, ih, BitVec.toNat_ofNat]
    rw [show 8 * (n + 1) = 8 + 8 * n by ring, pow_add, Nat.mod_mul]
    norm_num

end Sys2Proof.Machine
end

