-- ==== Sys2Proof/Laws/State.lean ====
section
/-! SUPPORT. What each named update of the state does to each field, and what it reads as afterwards. -/
namespace Sys2Proof.Machine

/-! ### updGang -/

@[simp] theorem State.updGang_agenda (s : State) (i : Nat) (f : Gang → Gang) : (s.updGang i f).agenda = s.agenda := rfl
@[simp] theorem State.updGang_cur (s : State) (i : Nat) (f : Gang → Gang) : (s.updGang i f).cur = s.cur := rfl
@[simp] theorem State.updGang_free (s : State) (i : Nat) (f : Gang → Gang) : (s.updGang i f).free = s.free := rfl
@[simp] theorem State.updGang_stamp (s : State) (i : Nat) (f : Gang → Gang) : (s.updGang i f).stamp = s.stamp := rfl
@[simp] theorem State.updGang_nextOp (s : State) (i : Nat) (f : Gang → Gang) : (s.updGang i f).nextOp = s.nextOp := rfl
@[simp] theorem State.updGang_clock (s : State) (i : Nat) (f : Gang → Gang) : (s.updGang i f).clock = s.clock := rfl
@[simp] theorem State.updGang_mem (s : State) (i : Nat) (f : Gang → Gang) : (s.updGang i f).mem = s.mem := rfl
@[simp] theorem State.updGang_poison (s : State) (i : Nat) (f : Gang → Gang) : (s.updGang i f).poison = s.poison := rfl
@[simp] theorem State.updGang_owner (s : State) (i : Nat) (f : Gang → Gang) : (s.updGang i f).owner = s.owner := rfl
@[simp] theorem State.updGang_codeOld (s : State) (i : Nat) (f : Gang → Gang) : (s.updGang i f).codeOld = s.codeOld := rfl
@[simp] theorem State.updGang_tlb (s : State) (i : Nat) (f : Gang → Gang) : (s.updGang i f).tlb = s.tlb := rfl
@[simp] theorem State.updGang_l1win (s : State) (i : Nat) (f : Gang → Gang) : (s.updGang i f).l1win = s.l1win := rfl
@[simp] theorem State.updGang_l2win (s : State) (i : Nat) (f : Gang → Gang) : (s.updGang i f).l2win = s.l2win := rfl
@[simp] theorem State.updGang_ctxs (s : State) (i : Nat) (f : Gang → Gang) : (s.updGang i f).ctxs = s.ctxs := rfl
@[simp] theorem State.updGang_nodes (s : State) (i : Nat) (f : Gang → Gang) : (s.updGang i f).nodes = s.nodes := rfl
@[simp] theorem State.updGang_groups (s : State) (i : Nat) (f : Gang → Gang) : (s.updGang i f).groups = s.groups := rfl
@[simp] theorem State.updGang_crews (s : State) (i : Nat) (f : Gang → Gang) : (s.updGang i f).crews = s.crews := rfl
@[simp] theorem State.updGang_gangs (s : State) (i : Nat) (f : Gang → Gang) : (s.updGang i f).gangs = updAt s.gangs i f := rfl
@[simp] theorem State.updGang_queues (s : State) (i : Nat) (f : Gang → Gang) : (s.updGang i f).queues = s.queues := rfl
@[simp] theorem State.updGang_parts (s : State) (i : Nat) (f : Gang → Gang) : (s.updGang i f).parts = s.parts := rfl
@[simp] theorem State.updGang_cores (s : State) (i : Nat) (f : Gang → Gang) : (s.updGang i f).cores = s.cores := rfl
@[simp] theorem State.updGang_slices (s : State) (i : Nat) (f : Gang → Gang) : (s.updGang i f).slices = s.slices := rfl
@[simp] theorem State.updGang_ops (s : State) (i : Nat) (f : Gang → Gang) : (s.updGang i f).ops = s.ops := rfl
@[simp] theorem State.updGang_cmds (s : State) (i : Nat) (f : Gang → Gang) : (s.updGang i f).cmds = s.cmds := rfl
@[simp] theorem State.updGang_items (s : State) (i : Nat) (f : Gang → Gang) : (s.updGang i f).items = s.items := rfl
@[simp] theorem State.updGang_epochs (s : State) (i : Nat) (f : Gang → Gang) : (s.updGang i f).epochs = s.epochs := rfl
@[simp] theorem State.updGang_filters (s : State) (i : Nat) (f : Gang → Gang) : (s.updGang i f).filters = s.filters := rfl
@[simp] theorem State.updGang_stages (s : State) (i : Nat) (f : Gang → Gang) : (s.updGang i f).stages = s.stages := rfl
@[simp] theorem State.updGang_irqs (s : State) (i : Nat) (f : Gang → Gang) : (s.updGang i f).irqs = s.irqs := rfl
@[simp] theorem State.updGang_link (s : State) (i : Nat) (f : Gang → Gang) : (s.updGang i f).link = s.link := rfl
@[simp] theorem State.updGang_lamgil (s : State) (i : Nat) (f : Gang → Gang) : (s.updGang i f).lamgil = s.lamgil := rfl
@[simp] theorem State.updGang_clusters (s : State) (i : Nat) (f : Gang → Gang) : (s.updGang i f).clusters = s.clusters := rfl
@[simp] theorem State.updGang_stacksUp (s : State) (i : Nat) (f : Gang → Gang) : (s.updGang i f).stacksUp = s.stacksUp := rfl
@[simp] theorem State.updGang_channels (s : State) (i : Nat) (f : Gang → Gang) : (s.updGang i f).channels = s.channels := rfl
@[simp] theorem State.updGang_offline (s : State) (i : Nat) (f : Gang → Gang) : (s.updGang i f).offline = s.offline := rfl
@[simp] theorem State.updGang_vfs (s : State) (i : Nat) (f : Gang → Gang) : (s.updGang i f).vfs = s.vfs := rfl
@[simp] theorem State.updGang_mailbox (s : State) (i : Nat) (f : Gang → Gang) : (s.updGang i f).mailbox = s.mailbox := rfl
@[simp] theorem State.updGang_firmware (s : State) (i : Nat) (f : Gang → Gang) : (s.updGang i f).firmware = s.firmware := rfl
@[simp] theorem State.updGang_config (s : State) (i : Nat) (f : Gang → Gang) : (s.updGang i f).config = s.config := rfl
@[simp] theorem State.updGang_ats (s : State) (i : Nat) (f : Gang → Gang) : (s.updGang i f).ats = s.ats := rfl
@[simp] theorem State.updGang_farOut (s : State) (i : Nat) (f : Gang → Gang) : (s.updGang i f).farOut = s.farOut := rfl
@[simp] theorem State.updGang_farPend (s : State) (i : Nat) (f : Gang → Gang) : (s.updGang i f).farPend = s.farPend := rfl
@[simp] theorem State.updGang_peerDown (s : State) (i : Nat) (f : Gang → Gang) : (s.updGang i f).peerDown = s.peerDown := rfl
@[simp] theorem State.updGang_scrubStack (s : State) (i : Nat) (f : Gang → Gang) : (s.updGang i f).scrubStack = s.scrubStack := rfl
@[simp] theorem State.updGang_scrubBulk (s : State) (i : Nat) (f : Gang → Gang) : (s.updGang i f).scrubBulk = s.scrubBulk := rfl
@[simp] theorem State.updGang_l1 (s : State) (i : Nat) (f : Gang → Gang) : (s.updGang i f).l1 = s.l1 := rfl
@[simp] theorem State.updGang_l2 (s : State) (i : Nat) (f : Gang → Gang) : (s.updGang i f).l2 = s.l2 := rfl
@[simp] theorem State.updGang_replies (s : State) (i : Nat) (f : Gang → Gang) : (s.updGang i f).replies = s.replies := rfl
@[simp] theorem State.updGang_logq (s : State) (i : Nat) (f : Gang → Gang) : (s.updGang i f).logq = s.logq := rfl
@[simp] theorem State.updGang_blocked (s : State) (i : Nat) (f : Gang → Gang) : (s.updGang i f).blocked = s.blocked := rfl
@[simp] theorem State.updGang_images (s : State) (i : Nat) (f : Gang → Gang) : (s.updGang i f).images = s.images := rfl

/-! ### updGroup -/

@[simp] theorem State.updGroup_agenda (s : State) (i : Nat) (f : Group → Group) : (s.updGroup i f).agenda = s.agenda := rfl
@[simp] theorem State.updGroup_cur (s : State) (i : Nat) (f : Group → Group) : (s.updGroup i f).cur = s.cur := rfl
@[simp] theorem State.updGroup_free (s : State) (i : Nat) (f : Group → Group) : (s.updGroup i f).free = s.free := rfl
@[simp] theorem State.updGroup_stamp (s : State) (i : Nat) (f : Group → Group) : (s.updGroup i f).stamp = s.stamp := rfl
@[simp] theorem State.updGroup_nextOp (s : State) (i : Nat) (f : Group → Group) : (s.updGroup i f).nextOp = s.nextOp := rfl
@[simp] theorem State.updGroup_clock (s : State) (i : Nat) (f : Group → Group) : (s.updGroup i f).clock = s.clock := rfl
@[simp] theorem State.updGroup_mem (s : State) (i : Nat) (f : Group → Group) : (s.updGroup i f).mem = s.mem := rfl
@[simp] theorem State.updGroup_poison (s : State) (i : Nat) (f : Group → Group) : (s.updGroup i f).poison = s.poison := rfl
@[simp] theorem State.updGroup_owner (s : State) (i : Nat) (f : Group → Group) : (s.updGroup i f).owner = s.owner := rfl
@[simp] theorem State.updGroup_codeOld (s : State) (i : Nat) (f : Group → Group) : (s.updGroup i f).codeOld = s.codeOld := rfl
@[simp] theorem State.updGroup_tlb (s : State) (i : Nat) (f : Group → Group) : (s.updGroup i f).tlb = s.tlb := rfl
@[simp] theorem State.updGroup_l1win (s : State) (i : Nat) (f : Group → Group) : (s.updGroup i f).l1win = s.l1win := rfl
@[simp] theorem State.updGroup_l2win (s : State) (i : Nat) (f : Group → Group) : (s.updGroup i f).l2win = s.l2win := rfl
@[simp] theorem State.updGroup_ctxs (s : State) (i : Nat) (f : Group → Group) : (s.updGroup i f).ctxs = s.ctxs := rfl
@[simp] theorem State.updGroup_nodes (s : State) (i : Nat) (f : Group → Group) : (s.updGroup i f).nodes = s.nodes := rfl
@[simp] theorem State.updGroup_groups (s : State) (i : Nat) (f : Group → Group) : (s.updGroup i f).groups = updAt s.groups i f := rfl
@[simp] theorem State.updGroup_crews (s : State) (i : Nat) (f : Group → Group) : (s.updGroup i f).crews = s.crews := rfl
@[simp] theorem State.updGroup_gangs (s : State) (i : Nat) (f : Group → Group) : (s.updGroup i f).gangs = s.gangs := rfl
@[simp] theorem State.updGroup_queues (s : State) (i : Nat) (f : Group → Group) : (s.updGroup i f).queues = s.queues := rfl
@[simp] theorem State.updGroup_parts (s : State) (i : Nat) (f : Group → Group) : (s.updGroup i f).parts = s.parts := rfl
@[simp] theorem State.updGroup_cores (s : State) (i : Nat) (f : Group → Group) : (s.updGroup i f).cores = s.cores := rfl
@[simp] theorem State.updGroup_slices (s : State) (i : Nat) (f : Group → Group) : (s.updGroup i f).slices = s.slices := rfl
@[simp] theorem State.updGroup_ops (s : State) (i : Nat) (f : Group → Group) : (s.updGroup i f).ops = s.ops := rfl
@[simp] theorem State.updGroup_cmds (s : State) (i : Nat) (f : Group → Group) : (s.updGroup i f).cmds = s.cmds := rfl
@[simp] theorem State.updGroup_items (s : State) (i : Nat) (f : Group → Group) : (s.updGroup i f).items = s.items := rfl
@[simp] theorem State.updGroup_epochs (s : State) (i : Nat) (f : Group → Group) : (s.updGroup i f).epochs = s.epochs := rfl
@[simp] theorem State.updGroup_filters (s : State) (i : Nat) (f : Group → Group) : (s.updGroup i f).filters = s.filters := rfl
@[simp] theorem State.updGroup_stages (s : State) (i : Nat) (f : Group → Group) : (s.updGroup i f).stages = s.stages := rfl
@[simp] theorem State.updGroup_irqs (s : State) (i : Nat) (f : Group → Group) : (s.updGroup i f).irqs = s.irqs := rfl
@[simp] theorem State.updGroup_link (s : State) (i : Nat) (f : Group → Group) : (s.updGroup i f).link = s.link := rfl
@[simp] theorem State.updGroup_lamgil (s : State) (i : Nat) (f : Group → Group) : (s.updGroup i f).lamgil = s.lamgil := rfl
@[simp] theorem State.updGroup_clusters (s : State) (i : Nat) (f : Group → Group) : (s.updGroup i f).clusters = s.clusters := rfl
@[simp] theorem State.updGroup_stacksUp (s : State) (i : Nat) (f : Group → Group) : (s.updGroup i f).stacksUp = s.stacksUp := rfl
@[simp] theorem State.updGroup_channels (s : State) (i : Nat) (f : Group → Group) : (s.updGroup i f).channels = s.channels := rfl
@[simp] theorem State.updGroup_offline (s : State) (i : Nat) (f : Group → Group) : (s.updGroup i f).offline = s.offline := rfl
@[simp] theorem State.updGroup_vfs (s : State) (i : Nat) (f : Group → Group) : (s.updGroup i f).vfs = s.vfs := rfl
@[simp] theorem State.updGroup_mailbox (s : State) (i : Nat) (f : Group → Group) : (s.updGroup i f).mailbox = s.mailbox := rfl
@[simp] theorem State.updGroup_firmware (s : State) (i : Nat) (f : Group → Group) : (s.updGroup i f).firmware = s.firmware := rfl
@[simp] theorem State.updGroup_config (s : State) (i : Nat) (f : Group → Group) : (s.updGroup i f).config = s.config := rfl
@[simp] theorem State.updGroup_ats (s : State) (i : Nat) (f : Group → Group) : (s.updGroup i f).ats = s.ats := rfl
@[simp] theorem State.updGroup_farOut (s : State) (i : Nat) (f : Group → Group) : (s.updGroup i f).farOut = s.farOut := rfl
@[simp] theorem State.updGroup_farPend (s : State) (i : Nat) (f : Group → Group) : (s.updGroup i f).farPend = s.farPend := rfl
@[simp] theorem State.updGroup_peerDown (s : State) (i : Nat) (f : Group → Group) : (s.updGroup i f).peerDown = s.peerDown := rfl
@[simp] theorem State.updGroup_scrubStack (s : State) (i : Nat) (f : Group → Group) : (s.updGroup i f).scrubStack = s.scrubStack := rfl
@[simp] theorem State.updGroup_scrubBulk (s : State) (i : Nat) (f : Group → Group) : (s.updGroup i f).scrubBulk = s.scrubBulk := rfl
@[simp] theorem State.updGroup_l1 (s : State) (i : Nat) (f : Group → Group) : (s.updGroup i f).l1 = s.l1 := rfl
@[simp] theorem State.updGroup_l2 (s : State) (i : Nat) (f : Group → Group) : (s.updGroup i f).l2 = s.l2 := rfl
@[simp] theorem State.updGroup_replies (s : State) (i : Nat) (f : Group → Group) : (s.updGroup i f).replies = s.replies := rfl
@[simp] theorem State.updGroup_logq (s : State) (i : Nat) (f : Group → Group) : (s.updGroup i f).logq = s.logq := rfl
@[simp] theorem State.updGroup_blocked (s : State) (i : Nat) (f : Group → Group) : (s.updGroup i f).blocked = s.blocked := rfl
@[simp] theorem State.updGroup_images (s : State) (i : Nat) (f : Group → Group) : (s.updGroup i f).images = s.images := rfl

/-! ### updCrew -/

@[simp] theorem State.updCrew_agenda (s : State) (i : Nat) (f : Crew → Crew) : (s.updCrew i f).agenda = s.agenda := rfl
@[simp] theorem State.updCrew_cur (s : State) (i : Nat) (f : Crew → Crew) : (s.updCrew i f).cur = s.cur := rfl
@[simp] theorem State.updCrew_free (s : State) (i : Nat) (f : Crew → Crew) : (s.updCrew i f).free = s.free := rfl
@[simp] theorem State.updCrew_stamp (s : State) (i : Nat) (f : Crew → Crew) : (s.updCrew i f).stamp = s.stamp := rfl
@[simp] theorem State.updCrew_nextOp (s : State) (i : Nat) (f : Crew → Crew) : (s.updCrew i f).nextOp = s.nextOp := rfl
@[simp] theorem State.updCrew_clock (s : State) (i : Nat) (f : Crew → Crew) : (s.updCrew i f).clock = s.clock := rfl
@[simp] theorem State.updCrew_mem (s : State) (i : Nat) (f : Crew → Crew) : (s.updCrew i f).mem = s.mem := rfl
@[simp] theorem State.updCrew_poison (s : State) (i : Nat) (f : Crew → Crew) : (s.updCrew i f).poison = s.poison := rfl
@[simp] theorem State.updCrew_owner (s : State) (i : Nat) (f : Crew → Crew) : (s.updCrew i f).owner = s.owner := rfl
@[simp] theorem State.updCrew_codeOld (s : State) (i : Nat) (f : Crew → Crew) : (s.updCrew i f).codeOld = s.codeOld := rfl
@[simp] theorem State.updCrew_tlb (s : State) (i : Nat) (f : Crew → Crew) : (s.updCrew i f).tlb = s.tlb := rfl
@[simp] theorem State.updCrew_l1win (s : State) (i : Nat) (f : Crew → Crew) : (s.updCrew i f).l1win = s.l1win := rfl
@[simp] theorem State.updCrew_l2win (s : State) (i : Nat) (f : Crew → Crew) : (s.updCrew i f).l2win = s.l2win := rfl
@[simp] theorem State.updCrew_ctxs (s : State) (i : Nat) (f : Crew → Crew) : (s.updCrew i f).ctxs = s.ctxs := rfl
@[simp] theorem State.updCrew_nodes (s : State) (i : Nat) (f : Crew → Crew) : (s.updCrew i f).nodes = s.nodes := rfl
@[simp] theorem State.updCrew_groups (s : State) (i : Nat) (f : Crew → Crew) : (s.updCrew i f).groups = s.groups := rfl
@[simp] theorem State.updCrew_crews (s : State) (i : Nat) (f : Crew → Crew) : (s.updCrew i f).crews = updAt s.crews i f := rfl
@[simp] theorem State.updCrew_gangs (s : State) (i : Nat) (f : Crew → Crew) : (s.updCrew i f).gangs = s.gangs := rfl
@[simp] theorem State.updCrew_queues (s : State) (i : Nat) (f : Crew → Crew) : (s.updCrew i f).queues = s.queues := rfl
@[simp] theorem State.updCrew_parts (s : State) (i : Nat) (f : Crew → Crew) : (s.updCrew i f).parts = s.parts := rfl
@[simp] theorem State.updCrew_cores (s : State) (i : Nat) (f : Crew → Crew) : (s.updCrew i f).cores = s.cores := rfl
@[simp] theorem State.updCrew_slices (s : State) (i : Nat) (f : Crew → Crew) : (s.updCrew i f).slices = s.slices := rfl
@[simp] theorem State.updCrew_ops (s : State) (i : Nat) (f : Crew → Crew) : (s.updCrew i f).ops = s.ops := rfl
@[simp] theorem State.updCrew_cmds (s : State) (i : Nat) (f : Crew → Crew) : (s.updCrew i f).cmds = s.cmds := rfl
@[simp] theorem State.updCrew_items (s : State) (i : Nat) (f : Crew → Crew) : (s.updCrew i f).items = s.items := rfl
@[simp] theorem State.updCrew_epochs (s : State) (i : Nat) (f : Crew → Crew) : (s.updCrew i f).epochs = s.epochs := rfl
@[simp] theorem State.updCrew_filters (s : State) (i : Nat) (f : Crew → Crew) : (s.updCrew i f).filters = s.filters := rfl
@[simp] theorem State.updCrew_stages (s : State) (i : Nat) (f : Crew → Crew) : (s.updCrew i f).stages = s.stages := rfl
@[simp] theorem State.updCrew_irqs (s : State) (i : Nat) (f : Crew → Crew) : (s.updCrew i f).irqs = s.irqs := rfl
@[simp] theorem State.updCrew_link (s : State) (i : Nat) (f : Crew → Crew) : (s.updCrew i f).link = s.link := rfl
@[simp] theorem State.updCrew_lamgil (s : State) (i : Nat) (f : Crew → Crew) : (s.updCrew i f).lamgil = s.lamgil := rfl
@[simp] theorem State.updCrew_clusters (s : State) (i : Nat) (f : Crew → Crew) : (s.updCrew i f).clusters = s.clusters := rfl
@[simp] theorem State.updCrew_stacksUp (s : State) (i : Nat) (f : Crew → Crew) : (s.updCrew i f).stacksUp = s.stacksUp := rfl
@[simp] theorem State.updCrew_channels (s : State) (i : Nat) (f : Crew → Crew) : (s.updCrew i f).channels = s.channels := rfl
@[simp] theorem State.updCrew_offline (s : State) (i : Nat) (f : Crew → Crew) : (s.updCrew i f).offline = s.offline := rfl
@[simp] theorem State.updCrew_vfs (s : State) (i : Nat) (f : Crew → Crew) : (s.updCrew i f).vfs = s.vfs := rfl
@[simp] theorem State.updCrew_mailbox (s : State) (i : Nat) (f : Crew → Crew) : (s.updCrew i f).mailbox = s.mailbox := rfl
@[simp] theorem State.updCrew_firmware (s : State) (i : Nat) (f : Crew → Crew) : (s.updCrew i f).firmware = s.firmware := rfl
@[simp] theorem State.updCrew_config (s : State) (i : Nat) (f : Crew → Crew) : (s.updCrew i f).config = s.config := rfl
@[simp] theorem State.updCrew_ats (s : State) (i : Nat) (f : Crew → Crew) : (s.updCrew i f).ats = s.ats := rfl
@[simp] theorem State.updCrew_farOut (s : State) (i : Nat) (f : Crew → Crew) : (s.updCrew i f).farOut = s.farOut := rfl
@[simp] theorem State.updCrew_farPend (s : State) (i : Nat) (f : Crew → Crew) : (s.updCrew i f).farPend = s.farPend := rfl
@[simp] theorem State.updCrew_peerDown (s : State) (i : Nat) (f : Crew → Crew) : (s.updCrew i f).peerDown = s.peerDown := rfl
@[simp] theorem State.updCrew_scrubStack (s : State) (i : Nat) (f : Crew → Crew) : (s.updCrew i f).scrubStack = s.scrubStack := rfl
@[simp] theorem State.updCrew_scrubBulk (s : State) (i : Nat) (f : Crew → Crew) : (s.updCrew i f).scrubBulk = s.scrubBulk := rfl
@[simp] theorem State.updCrew_l1 (s : State) (i : Nat) (f : Crew → Crew) : (s.updCrew i f).l1 = s.l1 := rfl
@[simp] theorem State.updCrew_l2 (s : State) (i : Nat) (f : Crew → Crew) : (s.updCrew i f).l2 = s.l2 := rfl
@[simp] theorem State.updCrew_replies (s : State) (i : Nat) (f : Crew → Crew) : (s.updCrew i f).replies = s.replies := rfl
@[simp] theorem State.updCrew_logq (s : State) (i : Nat) (f : Crew → Crew) : (s.updCrew i f).logq = s.logq := rfl
@[simp] theorem State.updCrew_blocked (s : State) (i : Nat) (f : Crew → Crew) : (s.updCrew i f).blocked = s.blocked := rfl
@[simp] theorem State.updCrew_images (s : State) (i : Nat) (f : Crew → Crew) : (s.updCrew i f).images = s.images := rfl

/-! ### updNode -/

@[simp] theorem State.updNode_agenda (s : State) (i : Nat) (f : Node → Node) : (s.updNode i f).agenda = s.agenda := rfl
@[simp] theorem State.updNode_cur (s : State) (i : Nat) (f : Node → Node) : (s.updNode i f).cur = s.cur := rfl
@[simp] theorem State.updNode_free (s : State) (i : Nat) (f : Node → Node) : (s.updNode i f).free = s.free := rfl
@[simp] theorem State.updNode_stamp (s : State) (i : Nat) (f : Node → Node) : (s.updNode i f).stamp = s.stamp := rfl
@[simp] theorem State.updNode_nextOp (s : State) (i : Nat) (f : Node → Node) : (s.updNode i f).nextOp = s.nextOp := rfl
@[simp] theorem State.updNode_clock (s : State) (i : Nat) (f : Node → Node) : (s.updNode i f).clock = s.clock := rfl
@[simp] theorem State.updNode_mem (s : State) (i : Nat) (f : Node → Node) : (s.updNode i f).mem = s.mem := rfl
@[simp] theorem State.updNode_poison (s : State) (i : Nat) (f : Node → Node) : (s.updNode i f).poison = s.poison := rfl
@[simp] theorem State.updNode_owner (s : State) (i : Nat) (f : Node → Node) : (s.updNode i f).owner = s.owner := rfl
@[simp] theorem State.updNode_codeOld (s : State) (i : Nat) (f : Node → Node) : (s.updNode i f).codeOld = s.codeOld := rfl
@[simp] theorem State.updNode_tlb (s : State) (i : Nat) (f : Node → Node) : (s.updNode i f).tlb = s.tlb := rfl
@[simp] theorem State.updNode_l1win (s : State) (i : Nat) (f : Node → Node) : (s.updNode i f).l1win = s.l1win := rfl
@[simp] theorem State.updNode_l2win (s : State) (i : Nat) (f : Node → Node) : (s.updNode i f).l2win = s.l2win := rfl
@[simp] theorem State.updNode_ctxs (s : State) (i : Nat) (f : Node → Node) : (s.updNode i f).ctxs = s.ctxs := rfl
@[simp] theorem State.updNode_nodes (s : State) (i : Nat) (f : Node → Node) : (s.updNode i f).nodes = updAt s.nodes i f := rfl
@[simp] theorem State.updNode_groups (s : State) (i : Nat) (f : Node → Node) : (s.updNode i f).groups = s.groups := rfl
@[simp] theorem State.updNode_crews (s : State) (i : Nat) (f : Node → Node) : (s.updNode i f).crews = s.crews := rfl
@[simp] theorem State.updNode_gangs (s : State) (i : Nat) (f : Node → Node) : (s.updNode i f).gangs = s.gangs := rfl
@[simp] theorem State.updNode_queues (s : State) (i : Nat) (f : Node → Node) : (s.updNode i f).queues = s.queues := rfl
@[simp] theorem State.updNode_parts (s : State) (i : Nat) (f : Node → Node) : (s.updNode i f).parts = s.parts := rfl
@[simp] theorem State.updNode_cores (s : State) (i : Nat) (f : Node → Node) : (s.updNode i f).cores = s.cores := rfl
@[simp] theorem State.updNode_slices (s : State) (i : Nat) (f : Node → Node) : (s.updNode i f).slices = s.slices := rfl
@[simp] theorem State.updNode_ops (s : State) (i : Nat) (f : Node → Node) : (s.updNode i f).ops = s.ops := rfl
@[simp] theorem State.updNode_cmds (s : State) (i : Nat) (f : Node → Node) : (s.updNode i f).cmds = s.cmds := rfl
@[simp] theorem State.updNode_items (s : State) (i : Nat) (f : Node → Node) : (s.updNode i f).items = s.items := rfl
@[simp] theorem State.updNode_epochs (s : State) (i : Nat) (f : Node → Node) : (s.updNode i f).epochs = s.epochs := rfl
@[simp] theorem State.updNode_filters (s : State) (i : Nat) (f : Node → Node) : (s.updNode i f).filters = s.filters := rfl
@[simp] theorem State.updNode_stages (s : State) (i : Nat) (f : Node → Node) : (s.updNode i f).stages = s.stages := rfl
@[simp] theorem State.updNode_irqs (s : State) (i : Nat) (f : Node → Node) : (s.updNode i f).irqs = s.irqs := rfl
@[simp] theorem State.updNode_link (s : State) (i : Nat) (f : Node → Node) : (s.updNode i f).link = s.link := rfl
@[simp] theorem State.updNode_lamgil (s : State) (i : Nat) (f : Node → Node) : (s.updNode i f).lamgil = s.lamgil := rfl
@[simp] theorem State.updNode_clusters (s : State) (i : Nat) (f : Node → Node) : (s.updNode i f).clusters = s.clusters := rfl
@[simp] theorem State.updNode_stacksUp (s : State) (i : Nat) (f : Node → Node) : (s.updNode i f).stacksUp = s.stacksUp := rfl
@[simp] theorem State.updNode_channels (s : State) (i : Nat) (f : Node → Node) : (s.updNode i f).channels = s.channels := rfl
@[simp] theorem State.updNode_offline (s : State) (i : Nat) (f : Node → Node) : (s.updNode i f).offline = s.offline := rfl
@[simp] theorem State.updNode_vfs (s : State) (i : Nat) (f : Node → Node) : (s.updNode i f).vfs = s.vfs := rfl
@[simp] theorem State.updNode_mailbox (s : State) (i : Nat) (f : Node → Node) : (s.updNode i f).mailbox = s.mailbox := rfl
@[simp] theorem State.updNode_firmware (s : State) (i : Nat) (f : Node → Node) : (s.updNode i f).firmware = s.firmware := rfl
@[simp] theorem State.updNode_config (s : State) (i : Nat) (f : Node → Node) : (s.updNode i f).config = s.config := rfl
@[simp] theorem State.updNode_ats (s : State) (i : Nat) (f : Node → Node) : (s.updNode i f).ats = s.ats := rfl
@[simp] theorem State.updNode_farOut (s : State) (i : Nat) (f : Node → Node) : (s.updNode i f).farOut = s.farOut := rfl
@[simp] theorem State.updNode_farPend (s : State) (i : Nat) (f : Node → Node) : (s.updNode i f).farPend = s.farPend := rfl
@[simp] theorem State.updNode_peerDown (s : State) (i : Nat) (f : Node → Node) : (s.updNode i f).peerDown = s.peerDown := rfl
@[simp] theorem State.updNode_scrubStack (s : State) (i : Nat) (f : Node → Node) : (s.updNode i f).scrubStack = s.scrubStack := rfl
@[simp] theorem State.updNode_scrubBulk (s : State) (i : Nat) (f : Node → Node) : (s.updNode i f).scrubBulk = s.scrubBulk := rfl
@[simp] theorem State.updNode_l1 (s : State) (i : Nat) (f : Node → Node) : (s.updNode i f).l1 = s.l1 := rfl
@[simp] theorem State.updNode_l2 (s : State) (i : Nat) (f : Node → Node) : (s.updNode i f).l2 = s.l2 := rfl
@[simp] theorem State.updNode_replies (s : State) (i : Nat) (f : Node → Node) : (s.updNode i f).replies = s.replies := rfl
@[simp] theorem State.updNode_logq (s : State) (i : Nat) (f : Node → Node) : (s.updNode i f).logq = s.logq := rfl
@[simp] theorem State.updNode_blocked (s : State) (i : Nat) (f : Node → Node) : (s.updNode i f).blocked = s.blocked := rfl
@[simp] theorem State.updNode_images (s : State) (i : Nat) (f : Node → Node) : (s.updNode i f).images = s.images := rfl

/-! ### setCtx -/

@[simp] theorem State.setCtx_agenda (s : State) (i : Nat) (x : Context) : (s.setCtx i x).agenda = s.agenda := rfl
@[simp] theorem State.setCtx_cur (s : State) (i : Nat) (x : Context) : (s.setCtx i x).cur = s.cur := rfl
@[simp] theorem State.setCtx_free (s : State) (i : Nat) (x : Context) : (s.setCtx i x).free = s.free := rfl
@[simp] theorem State.setCtx_stamp (s : State) (i : Nat) (x : Context) : (s.setCtx i x).stamp = s.stamp := rfl
@[simp] theorem State.setCtx_nextOp (s : State) (i : Nat) (x : Context) : (s.setCtx i x).nextOp = s.nextOp := rfl
@[simp] theorem State.setCtx_clock (s : State) (i : Nat) (x : Context) : (s.setCtx i x).clock = s.clock := rfl
@[simp] theorem State.setCtx_mem (s : State) (i : Nat) (x : Context) : (s.setCtx i x).mem = s.mem := rfl
@[simp] theorem State.setCtx_poison (s : State) (i : Nat) (x : Context) : (s.setCtx i x).poison = s.poison := rfl
@[simp] theorem State.setCtx_owner (s : State) (i : Nat) (x : Context) : (s.setCtx i x).owner = s.owner := rfl
@[simp] theorem State.setCtx_codeOld (s : State) (i : Nat) (x : Context) : (s.setCtx i x).codeOld = s.codeOld := rfl
@[simp] theorem State.setCtx_tlb (s : State) (i : Nat) (x : Context) : (s.setCtx i x).tlb = s.tlb := rfl
@[simp] theorem State.setCtx_l1win (s : State) (i : Nat) (x : Context) : (s.setCtx i x).l1win = s.l1win := rfl
@[simp] theorem State.setCtx_l2win (s : State) (i : Nat) (x : Context) : (s.setCtx i x).l2win = s.l2win := rfl
@[simp] theorem State.setCtx_ctxs (s : State) (i : Nat) (x : Context) : (s.setCtx i x).ctxs = tabSet s.ctxs i x := rfl
@[simp] theorem State.setCtx_nodes (s : State) (i : Nat) (x : Context) : (s.setCtx i x).nodes = s.nodes := rfl
@[simp] theorem State.setCtx_groups (s : State) (i : Nat) (x : Context) : (s.setCtx i x).groups = s.groups := rfl
@[simp] theorem State.setCtx_crews (s : State) (i : Nat) (x : Context) : (s.setCtx i x).crews = s.crews := rfl
@[simp] theorem State.setCtx_gangs (s : State) (i : Nat) (x : Context) : (s.setCtx i x).gangs = s.gangs := rfl
@[simp] theorem State.setCtx_queues (s : State) (i : Nat) (x : Context) : (s.setCtx i x).queues = s.queues := rfl
@[simp] theorem State.setCtx_parts (s : State) (i : Nat) (x : Context) : (s.setCtx i x).parts = s.parts := rfl
@[simp] theorem State.setCtx_cores (s : State) (i : Nat) (x : Context) : (s.setCtx i x).cores = s.cores := rfl
@[simp] theorem State.setCtx_slices (s : State) (i : Nat) (x : Context) : (s.setCtx i x).slices = s.slices := rfl
@[simp] theorem State.setCtx_ops (s : State) (i : Nat) (x : Context) : (s.setCtx i x).ops = s.ops := rfl
@[simp] theorem State.setCtx_cmds (s : State) (i : Nat) (x : Context) : (s.setCtx i x).cmds = s.cmds := rfl
@[simp] theorem State.setCtx_items (s : State) (i : Nat) (x : Context) : (s.setCtx i x).items = s.items := rfl
@[simp] theorem State.setCtx_epochs (s : State) (i : Nat) (x : Context) : (s.setCtx i x).epochs = s.epochs := rfl
@[simp] theorem State.setCtx_filters (s : State) (i : Nat) (x : Context) : (s.setCtx i x).filters = s.filters := rfl
@[simp] theorem State.setCtx_stages (s : State) (i : Nat) (x : Context) : (s.setCtx i x).stages = s.stages := rfl
@[simp] theorem State.setCtx_irqs (s : State) (i : Nat) (x : Context) : (s.setCtx i x).irqs = s.irqs := rfl
@[simp] theorem State.setCtx_link (s : State) (i : Nat) (x : Context) : (s.setCtx i x).link = s.link := rfl
@[simp] theorem State.setCtx_lamgil (s : State) (i : Nat) (x : Context) : (s.setCtx i x).lamgil = s.lamgil := rfl
@[simp] theorem State.setCtx_clusters (s : State) (i : Nat) (x : Context) : (s.setCtx i x).clusters = s.clusters := rfl
@[simp] theorem State.setCtx_stacksUp (s : State) (i : Nat) (x : Context) : (s.setCtx i x).stacksUp = s.stacksUp := rfl
@[simp] theorem State.setCtx_channels (s : State) (i : Nat) (x : Context) : (s.setCtx i x).channels = s.channels := rfl
@[simp] theorem State.setCtx_offline (s : State) (i : Nat) (x : Context) : (s.setCtx i x).offline = s.offline := rfl
@[simp] theorem State.setCtx_vfs (s : State) (i : Nat) (x : Context) : (s.setCtx i x).vfs = s.vfs := rfl
@[simp] theorem State.setCtx_mailbox (s : State) (i : Nat) (x : Context) : (s.setCtx i x).mailbox = s.mailbox := rfl
@[simp] theorem State.setCtx_firmware (s : State) (i : Nat) (x : Context) : (s.setCtx i x).firmware = s.firmware := rfl
@[simp] theorem State.setCtx_config (s : State) (i : Nat) (x : Context) : (s.setCtx i x).config = s.config := rfl
@[simp] theorem State.setCtx_ats (s : State) (i : Nat) (x : Context) : (s.setCtx i x).ats = s.ats := rfl
@[simp] theorem State.setCtx_farOut (s : State) (i : Nat) (x : Context) : (s.setCtx i x).farOut = s.farOut := rfl
@[simp] theorem State.setCtx_farPend (s : State) (i : Nat) (x : Context) : (s.setCtx i x).farPend = s.farPend := rfl
@[simp] theorem State.setCtx_peerDown (s : State) (i : Nat) (x : Context) : (s.setCtx i x).peerDown = s.peerDown := rfl
@[simp] theorem State.setCtx_scrubStack (s : State) (i : Nat) (x : Context) : (s.setCtx i x).scrubStack = s.scrubStack := rfl
@[simp] theorem State.setCtx_scrubBulk (s : State) (i : Nat) (x : Context) : (s.setCtx i x).scrubBulk = s.scrubBulk := rfl
@[simp] theorem State.setCtx_l1 (s : State) (i : Nat) (x : Context) : (s.setCtx i x).l1 = s.l1 := rfl
@[simp] theorem State.setCtx_l2 (s : State) (i : Nat) (x : Context) : (s.setCtx i x).l2 = s.l2 := rfl
@[simp] theorem State.setCtx_replies (s : State) (i : Nat) (x : Context) : (s.setCtx i x).replies = s.replies := rfl
@[simp] theorem State.setCtx_logq (s : State) (i : Nat) (x : Context) : (s.setCtx i x).logq = s.logq := rfl
@[simp] theorem State.setCtx_blocked (s : State) (i : Nat) (x : Context) : (s.setCtx i x).blocked = s.blocked := rfl
@[simp] theorem State.setCtx_images (s : State) (i : Nat) (x : Context) : (s.setCtx i x).images = s.images := rfl

/-! ### updCtx -/

@[simp] theorem State.updCtx_agenda (s : State) (i : Nat) (f : Context → Context) : (s.updCtx i f).agenda = s.agenda := rfl
@[simp] theorem State.updCtx_cur (s : State) (i : Nat) (f : Context → Context) : (s.updCtx i f).cur = s.cur := rfl
@[simp] theorem State.updCtx_free (s : State) (i : Nat) (f : Context → Context) : (s.updCtx i f).free = s.free := rfl
@[simp] theorem State.updCtx_stamp (s : State) (i : Nat) (f : Context → Context) : (s.updCtx i f).stamp = s.stamp := rfl
@[simp] theorem State.updCtx_nextOp (s : State) (i : Nat) (f : Context → Context) : (s.updCtx i f).nextOp = s.nextOp := rfl
@[simp] theorem State.updCtx_clock (s : State) (i : Nat) (f : Context → Context) : (s.updCtx i f).clock = s.clock := rfl
@[simp] theorem State.updCtx_mem (s : State) (i : Nat) (f : Context → Context) : (s.updCtx i f).mem = s.mem := rfl
@[simp] theorem State.updCtx_poison (s : State) (i : Nat) (f : Context → Context) : (s.updCtx i f).poison = s.poison := rfl
@[simp] theorem State.updCtx_owner (s : State) (i : Nat) (f : Context → Context) : (s.updCtx i f).owner = s.owner := rfl
@[simp] theorem State.updCtx_codeOld (s : State) (i : Nat) (f : Context → Context) : (s.updCtx i f).codeOld = s.codeOld := rfl
@[simp] theorem State.updCtx_tlb (s : State) (i : Nat) (f : Context → Context) : (s.updCtx i f).tlb = s.tlb := rfl
@[simp] theorem State.updCtx_l1win (s : State) (i : Nat) (f : Context → Context) : (s.updCtx i f).l1win = s.l1win := rfl
@[simp] theorem State.updCtx_l2win (s : State) (i : Nat) (f : Context → Context) : (s.updCtx i f).l2win = s.l2win := rfl
@[simp] theorem State.updCtx_ctxs (s : State) (i : Nat) (f : Context → Context) : (s.updCtx i f).ctxs = tabSet s.ctxs i (f (s.ctx i)) := rfl
@[simp] theorem State.updCtx_nodes (s : State) (i : Nat) (f : Context → Context) : (s.updCtx i f).nodes = s.nodes := rfl
@[simp] theorem State.updCtx_groups (s : State) (i : Nat) (f : Context → Context) : (s.updCtx i f).groups = s.groups := rfl
@[simp] theorem State.updCtx_crews (s : State) (i : Nat) (f : Context → Context) : (s.updCtx i f).crews = s.crews := rfl
@[simp] theorem State.updCtx_gangs (s : State) (i : Nat) (f : Context → Context) : (s.updCtx i f).gangs = s.gangs := rfl
@[simp] theorem State.updCtx_queues (s : State) (i : Nat) (f : Context → Context) : (s.updCtx i f).queues = s.queues := rfl
@[simp] theorem State.updCtx_parts (s : State) (i : Nat) (f : Context → Context) : (s.updCtx i f).parts = s.parts := rfl
@[simp] theorem State.updCtx_cores (s : State) (i : Nat) (f : Context → Context) : (s.updCtx i f).cores = s.cores := rfl
@[simp] theorem State.updCtx_slices (s : State) (i : Nat) (f : Context → Context) : (s.updCtx i f).slices = s.slices := rfl
@[simp] theorem State.updCtx_ops (s : State) (i : Nat) (f : Context → Context) : (s.updCtx i f).ops = s.ops := rfl
@[simp] theorem State.updCtx_cmds (s : State) (i : Nat) (f : Context → Context) : (s.updCtx i f).cmds = s.cmds := rfl
@[simp] theorem State.updCtx_items (s : State) (i : Nat) (f : Context → Context) : (s.updCtx i f).items = s.items := rfl
@[simp] theorem State.updCtx_epochs (s : State) (i : Nat) (f : Context → Context) : (s.updCtx i f).epochs = s.epochs := rfl
@[simp] theorem State.updCtx_filters (s : State) (i : Nat) (f : Context → Context) : (s.updCtx i f).filters = s.filters := rfl
@[simp] theorem State.updCtx_stages (s : State) (i : Nat) (f : Context → Context) : (s.updCtx i f).stages = s.stages := rfl
@[simp] theorem State.updCtx_irqs (s : State) (i : Nat) (f : Context → Context) : (s.updCtx i f).irqs = s.irqs := rfl
@[simp] theorem State.updCtx_link (s : State) (i : Nat) (f : Context → Context) : (s.updCtx i f).link = s.link := rfl
@[simp] theorem State.updCtx_lamgil (s : State) (i : Nat) (f : Context → Context) : (s.updCtx i f).lamgil = s.lamgil := rfl
@[simp] theorem State.updCtx_clusters (s : State) (i : Nat) (f : Context → Context) : (s.updCtx i f).clusters = s.clusters := rfl
@[simp] theorem State.updCtx_stacksUp (s : State) (i : Nat) (f : Context → Context) : (s.updCtx i f).stacksUp = s.stacksUp := rfl
@[simp] theorem State.updCtx_channels (s : State) (i : Nat) (f : Context → Context) : (s.updCtx i f).channels = s.channels := rfl
@[simp] theorem State.updCtx_offline (s : State) (i : Nat) (f : Context → Context) : (s.updCtx i f).offline = s.offline := rfl
@[simp] theorem State.updCtx_vfs (s : State) (i : Nat) (f : Context → Context) : (s.updCtx i f).vfs = s.vfs := rfl
@[simp] theorem State.updCtx_mailbox (s : State) (i : Nat) (f : Context → Context) : (s.updCtx i f).mailbox = s.mailbox := rfl
@[simp] theorem State.updCtx_firmware (s : State) (i : Nat) (f : Context → Context) : (s.updCtx i f).firmware = s.firmware := rfl
@[simp] theorem State.updCtx_config (s : State) (i : Nat) (f : Context → Context) : (s.updCtx i f).config = s.config := rfl
@[simp] theorem State.updCtx_ats (s : State) (i : Nat) (f : Context → Context) : (s.updCtx i f).ats = s.ats := rfl
@[simp] theorem State.updCtx_farOut (s : State) (i : Nat) (f : Context → Context) : (s.updCtx i f).farOut = s.farOut := rfl
@[simp] theorem State.updCtx_farPend (s : State) (i : Nat) (f : Context → Context) : (s.updCtx i f).farPend = s.farPend := rfl
@[simp] theorem State.updCtx_peerDown (s : State) (i : Nat) (f : Context → Context) : (s.updCtx i f).peerDown = s.peerDown := rfl
@[simp] theorem State.updCtx_scrubStack (s : State) (i : Nat) (f : Context → Context) : (s.updCtx i f).scrubStack = s.scrubStack := rfl
@[simp] theorem State.updCtx_scrubBulk (s : State) (i : Nat) (f : Context → Context) : (s.updCtx i f).scrubBulk = s.scrubBulk := rfl
@[simp] theorem State.updCtx_l1 (s : State) (i : Nat) (f : Context → Context) : (s.updCtx i f).l1 = s.l1 := rfl
@[simp] theorem State.updCtx_l2 (s : State) (i : Nat) (f : Context → Context) : (s.updCtx i f).l2 = s.l2 := rfl
@[simp] theorem State.updCtx_replies (s : State) (i : Nat) (f : Context → Context) : (s.updCtx i f).replies = s.replies := rfl
@[simp] theorem State.updCtx_logq (s : State) (i : Nat) (f : Context → Context) : (s.updCtx i f).logq = s.logq := rfl
@[simp] theorem State.updCtx_blocked (s : State) (i : Nat) (f : Context → Context) : (s.updCtx i f).blocked = s.blocked := rfl
@[simp] theorem State.updCtx_images (s : State) (i : Nat) (f : Context → Context) : (s.updCtx i f).images = s.images := rfl

/-! ### setPart -/

@[simp] theorem State.setPart_agenda (s : State) (i : Nat) (x : Part) : (s.setPart i x).agenda = s.agenda := rfl
@[simp] theorem State.setPart_cur (s : State) (i : Nat) (x : Part) : (s.setPart i x).cur = s.cur := rfl
@[simp] theorem State.setPart_free (s : State) (i : Nat) (x : Part) : (s.setPart i x).free = s.free := rfl
@[simp] theorem State.setPart_stamp (s : State) (i : Nat) (x : Part) : (s.setPart i x).stamp = s.stamp := rfl
@[simp] theorem State.setPart_nextOp (s : State) (i : Nat) (x : Part) : (s.setPart i x).nextOp = s.nextOp := rfl
@[simp] theorem State.setPart_clock (s : State) (i : Nat) (x : Part) : (s.setPart i x).clock = s.clock := rfl
@[simp] theorem State.setPart_mem (s : State) (i : Nat) (x : Part) : (s.setPart i x).mem = s.mem := rfl
@[simp] theorem State.setPart_poison (s : State) (i : Nat) (x : Part) : (s.setPart i x).poison = s.poison := rfl
@[simp] theorem State.setPart_owner (s : State) (i : Nat) (x : Part) : (s.setPart i x).owner = s.owner := rfl
@[simp] theorem State.setPart_codeOld (s : State) (i : Nat) (x : Part) : (s.setPart i x).codeOld = s.codeOld := rfl
@[simp] theorem State.setPart_tlb (s : State) (i : Nat) (x : Part) : (s.setPart i x).tlb = s.tlb := rfl
@[simp] theorem State.setPart_l1win (s : State) (i : Nat) (x : Part) : (s.setPart i x).l1win = s.l1win := rfl
@[simp] theorem State.setPart_l2win (s : State) (i : Nat) (x : Part) : (s.setPart i x).l2win = s.l2win := rfl
@[simp] theorem State.setPart_ctxs (s : State) (i : Nat) (x : Part) : (s.setPart i x).ctxs = s.ctxs := rfl
@[simp] theorem State.setPart_nodes (s : State) (i : Nat) (x : Part) : (s.setPart i x).nodes = s.nodes := rfl
@[simp] theorem State.setPart_groups (s : State) (i : Nat) (x : Part) : (s.setPart i x).groups = s.groups := rfl
@[simp] theorem State.setPart_crews (s : State) (i : Nat) (x : Part) : (s.setPart i x).crews = s.crews := rfl
@[simp] theorem State.setPart_gangs (s : State) (i : Nat) (x : Part) : (s.setPart i x).gangs = s.gangs := rfl
@[simp] theorem State.setPart_queues (s : State) (i : Nat) (x : Part) : (s.setPart i x).queues = s.queues := rfl
@[simp] theorem State.setPart_parts (s : State) (i : Nat) (x : Part) : (s.setPart i x).parts = tabSet s.parts i x := rfl
@[simp] theorem State.setPart_cores (s : State) (i : Nat) (x : Part) : (s.setPart i x).cores = s.cores := rfl
@[simp] theorem State.setPart_slices (s : State) (i : Nat) (x : Part) : (s.setPart i x).slices = s.slices := rfl
@[simp] theorem State.setPart_ops (s : State) (i : Nat) (x : Part) : (s.setPart i x).ops = s.ops := rfl
@[simp] theorem State.setPart_cmds (s : State) (i : Nat) (x : Part) : (s.setPart i x).cmds = s.cmds := rfl
@[simp] theorem State.setPart_items (s : State) (i : Nat) (x : Part) : (s.setPart i x).items = s.items := rfl
@[simp] theorem State.setPart_epochs (s : State) (i : Nat) (x : Part) : (s.setPart i x).epochs = s.epochs := rfl
@[simp] theorem State.setPart_filters (s : State) (i : Nat) (x : Part) : (s.setPart i x).filters = s.filters := rfl
@[simp] theorem State.setPart_stages (s : State) (i : Nat) (x : Part) : (s.setPart i x).stages = s.stages := rfl
@[simp] theorem State.setPart_irqs (s : State) (i : Nat) (x : Part) : (s.setPart i x).irqs = s.irqs := rfl
@[simp] theorem State.setPart_link (s : State) (i : Nat) (x : Part) : (s.setPart i x).link = s.link := rfl
@[simp] theorem State.setPart_lamgil (s : State) (i : Nat) (x : Part) : (s.setPart i x).lamgil = s.lamgil := rfl
@[simp] theorem State.setPart_clusters (s : State) (i : Nat) (x : Part) : (s.setPart i x).clusters = s.clusters := rfl
@[simp] theorem State.setPart_stacksUp (s : State) (i : Nat) (x : Part) : (s.setPart i x).stacksUp = s.stacksUp := rfl
@[simp] theorem State.setPart_channels (s : State) (i : Nat) (x : Part) : (s.setPart i x).channels = s.channels := rfl
@[simp] theorem State.setPart_offline (s : State) (i : Nat) (x : Part) : (s.setPart i x).offline = s.offline := rfl
@[simp] theorem State.setPart_vfs (s : State) (i : Nat) (x : Part) : (s.setPart i x).vfs = s.vfs := rfl
@[simp] theorem State.setPart_mailbox (s : State) (i : Nat) (x : Part) : (s.setPart i x).mailbox = s.mailbox := rfl
@[simp] theorem State.setPart_firmware (s : State) (i : Nat) (x : Part) : (s.setPart i x).firmware = s.firmware := rfl
@[simp] theorem State.setPart_config (s : State) (i : Nat) (x : Part) : (s.setPart i x).config = s.config := rfl
@[simp] theorem State.setPart_ats (s : State) (i : Nat) (x : Part) : (s.setPart i x).ats = s.ats := rfl
@[simp] theorem State.setPart_farOut (s : State) (i : Nat) (x : Part) : (s.setPart i x).farOut = s.farOut := rfl
@[simp] theorem State.setPart_farPend (s : State) (i : Nat) (x : Part) : (s.setPart i x).farPend = s.farPend := rfl
@[simp] theorem State.setPart_peerDown (s : State) (i : Nat) (x : Part) : (s.setPart i x).peerDown = s.peerDown := rfl
@[simp] theorem State.setPart_scrubStack (s : State) (i : Nat) (x : Part) : (s.setPart i x).scrubStack = s.scrubStack := rfl
@[simp] theorem State.setPart_scrubBulk (s : State) (i : Nat) (x : Part) : (s.setPart i x).scrubBulk = s.scrubBulk := rfl
@[simp] theorem State.setPart_l1 (s : State) (i : Nat) (x : Part) : (s.setPart i x).l1 = s.l1 := rfl
@[simp] theorem State.setPart_l2 (s : State) (i : Nat) (x : Part) : (s.setPart i x).l2 = s.l2 := rfl
@[simp] theorem State.setPart_replies (s : State) (i : Nat) (x : Part) : (s.setPart i x).replies = s.replies := rfl
@[simp] theorem State.setPart_logq (s : State) (i : Nat) (x : Part) : (s.setPart i x).logq = s.logq := rfl
@[simp] theorem State.setPart_blocked (s : State) (i : Nat) (x : Part) : (s.setPart i x).blocked = s.blocked := rfl
@[simp] theorem State.setPart_images (s : State) (i : Nat) (x : Part) : (s.setPart i x).images = s.images := rfl

/-! ### updPart -/

@[simp] theorem State.updPart_agenda (s : State) (i : Nat) (f : Part → Part) : (s.updPart i f).agenda = s.agenda := rfl
@[simp] theorem State.updPart_cur (s : State) (i : Nat) (f : Part → Part) : (s.updPart i f).cur = s.cur := rfl
@[simp] theorem State.updPart_free (s : State) (i : Nat) (f : Part → Part) : (s.updPart i f).free = s.free := rfl
@[simp] theorem State.updPart_stamp (s : State) (i : Nat) (f : Part → Part) : (s.updPart i f).stamp = s.stamp := rfl
@[simp] theorem State.updPart_nextOp (s : State) (i : Nat) (f : Part → Part) : (s.updPart i f).nextOp = s.nextOp := rfl
@[simp] theorem State.updPart_clock (s : State) (i : Nat) (f : Part → Part) : (s.updPart i f).clock = s.clock := rfl
@[simp] theorem State.updPart_mem (s : State) (i : Nat) (f : Part → Part) : (s.updPart i f).mem = s.mem := rfl
@[simp] theorem State.updPart_poison (s : State) (i : Nat) (f : Part → Part) : (s.updPart i f).poison = s.poison := rfl
@[simp] theorem State.updPart_owner (s : State) (i : Nat) (f : Part → Part) : (s.updPart i f).owner = s.owner := rfl
@[simp] theorem State.updPart_codeOld (s : State) (i : Nat) (f : Part → Part) : (s.updPart i f).codeOld = s.codeOld := rfl
@[simp] theorem State.updPart_tlb (s : State) (i : Nat) (f : Part → Part) : (s.updPart i f).tlb = s.tlb := rfl
@[simp] theorem State.updPart_l1win (s : State) (i : Nat) (f : Part → Part) : (s.updPart i f).l1win = s.l1win := rfl
@[simp] theorem State.updPart_l2win (s : State) (i : Nat) (f : Part → Part) : (s.updPart i f).l2win = s.l2win := rfl
@[simp] theorem State.updPart_ctxs (s : State) (i : Nat) (f : Part → Part) : (s.updPart i f).ctxs = s.ctxs := rfl
@[simp] theorem State.updPart_nodes (s : State) (i : Nat) (f : Part → Part) : (s.updPart i f).nodes = s.nodes := rfl
@[simp] theorem State.updPart_groups (s : State) (i : Nat) (f : Part → Part) : (s.updPart i f).groups = s.groups := rfl
@[simp] theorem State.updPart_crews (s : State) (i : Nat) (f : Part → Part) : (s.updPart i f).crews = s.crews := rfl
@[simp] theorem State.updPart_gangs (s : State) (i : Nat) (f : Part → Part) : (s.updPart i f).gangs = s.gangs := rfl
@[simp] theorem State.updPart_queues (s : State) (i : Nat) (f : Part → Part) : (s.updPart i f).queues = s.queues := rfl
@[simp] theorem State.updPart_parts (s : State) (i : Nat) (f : Part → Part) : (s.updPart i f).parts = tabSet s.parts i (f (s.part i)) := rfl
@[simp] theorem State.updPart_cores (s : State) (i : Nat) (f : Part → Part) : (s.updPart i f).cores = s.cores := rfl
@[simp] theorem State.updPart_slices (s : State) (i : Nat) (f : Part → Part) : (s.updPart i f).slices = s.slices := rfl
@[simp] theorem State.updPart_ops (s : State) (i : Nat) (f : Part → Part) : (s.updPart i f).ops = s.ops := rfl
@[simp] theorem State.updPart_cmds (s : State) (i : Nat) (f : Part → Part) : (s.updPart i f).cmds = s.cmds := rfl
@[simp] theorem State.updPart_items (s : State) (i : Nat) (f : Part → Part) : (s.updPart i f).items = s.items := rfl
@[simp] theorem State.updPart_epochs (s : State) (i : Nat) (f : Part → Part) : (s.updPart i f).epochs = s.epochs := rfl
@[simp] theorem State.updPart_filters (s : State) (i : Nat) (f : Part → Part) : (s.updPart i f).filters = s.filters := rfl
@[simp] theorem State.updPart_stages (s : State) (i : Nat) (f : Part → Part) : (s.updPart i f).stages = s.stages := rfl
@[simp] theorem State.updPart_irqs (s : State) (i : Nat) (f : Part → Part) : (s.updPart i f).irqs = s.irqs := rfl
@[simp] theorem State.updPart_link (s : State) (i : Nat) (f : Part → Part) : (s.updPart i f).link = s.link := rfl
@[simp] theorem State.updPart_lamgil (s : State) (i : Nat) (f : Part → Part) : (s.updPart i f).lamgil = s.lamgil := rfl
@[simp] theorem State.updPart_clusters (s : State) (i : Nat) (f : Part → Part) : (s.updPart i f).clusters = s.clusters := rfl
@[simp] theorem State.updPart_stacksUp (s : State) (i : Nat) (f : Part → Part) : (s.updPart i f).stacksUp = s.stacksUp := rfl
@[simp] theorem State.updPart_channels (s : State) (i : Nat) (f : Part → Part) : (s.updPart i f).channels = s.channels := rfl
@[simp] theorem State.updPart_offline (s : State) (i : Nat) (f : Part → Part) : (s.updPart i f).offline = s.offline := rfl
@[simp] theorem State.updPart_vfs (s : State) (i : Nat) (f : Part → Part) : (s.updPart i f).vfs = s.vfs := rfl
@[simp] theorem State.updPart_mailbox (s : State) (i : Nat) (f : Part → Part) : (s.updPart i f).mailbox = s.mailbox := rfl
@[simp] theorem State.updPart_firmware (s : State) (i : Nat) (f : Part → Part) : (s.updPart i f).firmware = s.firmware := rfl
@[simp] theorem State.updPart_config (s : State) (i : Nat) (f : Part → Part) : (s.updPart i f).config = s.config := rfl
@[simp] theorem State.updPart_ats (s : State) (i : Nat) (f : Part → Part) : (s.updPart i f).ats = s.ats := rfl
@[simp] theorem State.updPart_farOut (s : State) (i : Nat) (f : Part → Part) : (s.updPart i f).farOut = s.farOut := rfl
@[simp] theorem State.updPart_farPend (s : State) (i : Nat) (f : Part → Part) : (s.updPart i f).farPend = s.farPend := rfl
@[simp] theorem State.updPart_peerDown (s : State) (i : Nat) (f : Part → Part) : (s.updPart i f).peerDown = s.peerDown := rfl
@[simp] theorem State.updPart_scrubStack (s : State) (i : Nat) (f : Part → Part) : (s.updPart i f).scrubStack = s.scrubStack := rfl
@[simp] theorem State.updPart_scrubBulk (s : State) (i : Nat) (f : Part → Part) : (s.updPart i f).scrubBulk = s.scrubBulk := rfl
@[simp] theorem State.updPart_l1 (s : State) (i : Nat) (f : Part → Part) : (s.updPart i f).l1 = s.l1 := rfl
@[simp] theorem State.updPart_l2 (s : State) (i : Nat) (f : Part → Part) : (s.updPart i f).l2 = s.l2 := rfl
@[simp] theorem State.updPart_replies (s : State) (i : Nat) (f : Part → Part) : (s.updPart i f).replies = s.replies := rfl
@[simp] theorem State.updPart_logq (s : State) (i : Nat) (f : Part → Part) : (s.updPart i f).logq = s.logq := rfl
@[simp] theorem State.updPart_blocked (s : State) (i : Nat) (f : Part → Part) : (s.updPart i f).blocked = s.blocked := rfl
@[simp] theorem State.updPart_images (s : State) (i : Nat) (f : Part → Part) : (s.updPart i f).images = s.images := rfl

/-! ### setCore -/

@[simp] theorem State.setCore_agenda (s : State) (i : Nat) (x : Core) : (s.setCore i x).agenda = s.agenda := rfl
@[simp] theorem State.setCore_cur (s : State) (i : Nat) (x : Core) : (s.setCore i x).cur = s.cur := rfl
@[simp] theorem State.setCore_free (s : State) (i : Nat) (x : Core) : (s.setCore i x).free = s.free := rfl
@[simp] theorem State.setCore_stamp (s : State) (i : Nat) (x : Core) : (s.setCore i x).stamp = s.stamp := rfl
@[simp] theorem State.setCore_nextOp (s : State) (i : Nat) (x : Core) : (s.setCore i x).nextOp = s.nextOp := rfl
@[simp] theorem State.setCore_clock (s : State) (i : Nat) (x : Core) : (s.setCore i x).clock = s.clock := rfl
@[simp] theorem State.setCore_mem (s : State) (i : Nat) (x : Core) : (s.setCore i x).mem = s.mem := rfl
@[simp] theorem State.setCore_poison (s : State) (i : Nat) (x : Core) : (s.setCore i x).poison = s.poison := rfl
@[simp] theorem State.setCore_owner (s : State) (i : Nat) (x : Core) : (s.setCore i x).owner = s.owner := rfl
@[simp] theorem State.setCore_codeOld (s : State) (i : Nat) (x : Core) : (s.setCore i x).codeOld = s.codeOld := rfl
@[simp] theorem State.setCore_tlb (s : State) (i : Nat) (x : Core) : (s.setCore i x).tlb = s.tlb := rfl
@[simp] theorem State.setCore_l1win (s : State) (i : Nat) (x : Core) : (s.setCore i x).l1win = s.l1win := rfl
@[simp] theorem State.setCore_l2win (s : State) (i : Nat) (x : Core) : (s.setCore i x).l2win = s.l2win := rfl
@[simp] theorem State.setCore_ctxs (s : State) (i : Nat) (x : Core) : (s.setCore i x).ctxs = s.ctxs := rfl
@[simp] theorem State.setCore_nodes (s : State) (i : Nat) (x : Core) : (s.setCore i x).nodes = s.nodes := rfl
@[simp] theorem State.setCore_groups (s : State) (i : Nat) (x : Core) : (s.setCore i x).groups = s.groups := rfl
@[simp] theorem State.setCore_crews (s : State) (i : Nat) (x : Core) : (s.setCore i x).crews = s.crews := rfl
@[simp] theorem State.setCore_gangs (s : State) (i : Nat) (x : Core) : (s.setCore i x).gangs = s.gangs := rfl
@[simp] theorem State.setCore_queues (s : State) (i : Nat) (x : Core) : (s.setCore i x).queues = s.queues := rfl
@[simp] theorem State.setCore_parts (s : State) (i : Nat) (x : Core) : (s.setCore i x).parts = s.parts := rfl
@[simp] theorem State.setCore_cores (s : State) (i : Nat) (x : Core) : (s.setCore i x).cores = tabSet s.cores i x := rfl
@[simp] theorem State.setCore_slices (s : State) (i : Nat) (x : Core) : (s.setCore i x).slices = s.slices := rfl
@[simp] theorem State.setCore_ops (s : State) (i : Nat) (x : Core) : (s.setCore i x).ops = s.ops := rfl
@[simp] theorem State.setCore_cmds (s : State) (i : Nat) (x : Core) : (s.setCore i x).cmds = s.cmds := rfl
@[simp] theorem State.setCore_items (s : State) (i : Nat) (x : Core) : (s.setCore i x).items = s.items := rfl
@[simp] theorem State.setCore_epochs (s : State) (i : Nat) (x : Core) : (s.setCore i x).epochs = s.epochs := rfl
@[simp] theorem State.setCore_filters (s : State) (i : Nat) (x : Core) : (s.setCore i x).filters = s.filters := rfl
@[simp] theorem State.setCore_stages (s : State) (i : Nat) (x : Core) : (s.setCore i x).stages = s.stages := rfl
@[simp] theorem State.setCore_irqs (s : State) (i : Nat) (x : Core) : (s.setCore i x).irqs = s.irqs := rfl
@[simp] theorem State.setCore_link (s : State) (i : Nat) (x : Core) : (s.setCore i x).link = s.link := rfl
@[simp] theorem State.setCore_lamgil (s : State) (i : Nat) (x : Core) : (s.setCore i x).lamgil = s.lamgil := rfl
@[simp] theorem State.setCore_clusters (s : State) (i : Nat) (x : Core) : (s.setCore i x).clusters = s.clusters := rfl
@[simp] theorem State.setCore_stacksUp (s : State) (i : Nat) (x : Core) : (s.setCore i x).stacksUp = s.stacksUp := rfl
@[simp] theorem State.setCore_channels (s : State) (i : Nat) (x : Core) : (s.setCore i x).channels = s.channels := rfl
@[simp] theorem State.setCore_offline (s : State) (i : Nat) (x : Core) : (s.setCore i x).offline = s.offline := rfl
@[simp] theorem State.setCore_vfs (s : State) (i : Nat) (x : Core) : (s.setCore i x).vfs = s.vfs := rfl
@[simp] theorem State.setCore_mailbox (s : State) (i : Nat) (x : Core) : (s.setCore i x).mailbox = s.mailbox := rfl
@[simp] theorem State.setCore_firmware (s : State) (i : Nat) (x : Core) : (s.setCore i x).firmware = s.firmware := rfl
@[simp] theorem State.setCore_config (s : State) (i : Nat) (x : Core) : (s.setCore i x).config = s.config := rfl
@[simp] theorem State.setCore_ats (s : State) (i : Nat) (x : Core) : (s.setCore i x).ats = s.ats := rfl
@[simp] theorem State.setCore_farOut (s : State) (i : Nat) (x : Core) : (s.setCore i x).farOut = s.farOut := rfl
@[simp] theorem State.setCore_farPend (s : State) (i : Nat) (x : Core) : (s.setCore i x).farPend = s.farPend := rfl
@[simp] theorem State.setCore_peerDown (s : State) (i : Nat) (x : Core) : (s.setCore i x).peerDown = s.peerDown := rfl
@[simp] theorem State.setCore_scrubStack (s : State) (i : Nat) (x : Core) : (s.setCore i x).scrubStack = s.scrubStack := rfl
@[simp] theorem State.setCore_scrubBulk (s : State) (i : Nat) (x : Core) : (s.setCore i x).scrubBulk = s.scrubBulk := rfl
@[simp] theorem State.setCore_l1 (s : State) (i : Nat) (x : Core) : (s.setCore i x).l1 = s.l1 := rfl
@[simp] theorem State.setCore_l2 (s : State) (i : Nat) (x : Core) : (s.setCore i x).l2 = s.l2 := rfl
@[simp] theorem State.setCore_replies (s : State) (i : Nat) (x : Core) : (s.setCore i x).replies = s.replies := rfl
@[simp] theorem State.setCore_logq (s : State) (i : Nat) (x : Core) : (s.setCore i x).logq = s.logq := rfl
@[simp] theorem State.setCore_blocked (s : State) (i : Nat) (x : Core) : (s.setCore i x).blocked = s.blocked := rfl
@[simp] theorem State.setCore_images (s : State) (i : Nat) (x : Core) : (s.setCore i x).images = s.images := rfl

/-! ### updQueue -/

@[simp] theorem State.updQueue_agenda (s : State) (i : Nat) (f : Queue → Queue) : (s.updQueue i f).agenda = s.agenda := rfl
@[simp] theorem State.updQueue_cur (s : State) (i : Nat) (f : Queue → Queue) : (s.updQueue i f).cur = s.cur := rfl
@[simp] theorem State.updQueue_free (s : State) (i : Nat) (f : Queue → Queue) : (s.updQueue i f).free = s.free := rfl
@[simp] theorem State.updQueue_stamp (s : State) (i : Nat) (f : Queue → Queue) : (s.updQueue i f).stamp = s.stamp := rfl
@[simp] theorem State.updQueue_nextOp (s : State) (i : Nat) (f : Queue → Queue) : (s.updQueue i f).nextOp = s.nextOp := rfl
@[simp] theorem State.updQueue_clock (s : State) (i : Nat) (f : Queue → Queue) : (s.updQueue i f).clock = s.clock := rfl
@[simp] theorem State.updQueue_mem (s : State) (i : Nat) (f : Queue → Queue) : (s.updQueue i f).mem = s.mem := rfl
@[simp] theorem State.updQueue_poison (s : State) (i : Nat) (f : Queue → Queue) : (s.updQueue i f).poison = s.poison := rfl
@[simp] theorem State.updQueue_owner (s : State) (i : Nat) (f : Queue → Queue) : (s.updQueue i f).owner = s.owner := rfl
@[simp] theorem State.updQueue_codeOld (s : State) (i : Nat) (f : Queue → Queue) : (s.updQueue i f).codeOld = s.codeOld := rfl
@[simp] theorem State.updQueue_tlb (s : State) (i : Nat) (f : Queue → Queue) : (s.updQueue i f).tlb = s.tlb := rfl
@[simp] theorem State.updQueue_l1win (s : State) (i : Nat) (f : Queue → Queue) : (s.updQueue i f).l1win = s.l1win := rfl
@[simp] theorem State.updQueue_l2win (s : State) (i : Nat) (f : Queue → Queue) : (s.updQueue i f).l2win = s.l2win := rfl
@[simp] theorem State.updQueue_ctxs (s : State) (i : Nat) (f : Queue → Queue) : (s.updQueue i f).ctxs = s.ctxs := rfl
@[simp] theorem State.updQueue_nodes (s : State) (i : Nat) (f : Queue → Queue) : (s.updQueue i f).nodes = s.nodes := rfl
@[simp] theorem State.updQueue_groups (s : State) (i : Nat) (f : Queue → Queue) : (s.updQueue i f).groups = s.groups := rfl
@[simp] theorem State.updQueue_crews (s : State) (i : Nat) (f : Queue → Queue) : (s.updQueue i f).crews = s.crews := rfl
@[simp] theorem State.updQueue_gangs (s : State) (i : Nat) (f : Queue → Queue) : (s.updQueue i f).gangs = s.gangs := rfl
@[simp] theorem State.updQueue_queues (s : State) (i : Nat) (f : Queue → Queue) : (s.updQueue i f).queues = updAt s.queues i f := rfl
@[simp] theorem State.updQueue_parts (s : State) (i : Nat) (f : Queue → Queue) : (s.updQueue i f).parts = s.parts := rfl
@[simp] theorem State.updQueue_cores (s : State) (i : Nat) (f : Queue → Queue) : (s.updQueue i f).cores = s.cores := rfl
@[simp] theorem State.updQueue_slices (s : State) (i : Nat) (f : Queue → Queue) : (s.updQueue i f).slices = s.slices := rfl
@[simp] theorem State.updQueue_ops (s : State) (i : Nat) (f : Queue → Queue) : (s.updQueue i f).ops = s.ops := rfl
@[simp] theorem State.updQueue_cmds (s : State) (i : Nat) (f : Queue → Queue) : (s.updQueue i f).cmds = s.cmds := rfl
@[simp] theorem State.updQueue_items (s : State) (i : Nat) (f : Queue → Queue) : (s.updQueue i f).items = s.items := rfl
@[simp] theorem State.updQueue_epochs (s : State) (i : Nat) (f : Queue → Queue) : (s.updQueue i f).epochs = s.epochs := rfl
@[simp] theorem State.updQueue_filters (s : State) (i : Nat) (f : Queue → Queue) : (s.updQueue i f).filters = s.filters := rfl
@[simp] theorem State.updQueue_stages (s : State) (i : Nat) (f : Queue → Queue) : (s.updQueue i f).stages = s.stages := rfl
@[simp] theorem State.updQueue_irqs (s : State) (i : Nat) (f : Queue → Queue) : (s.updQueue i f).irqs = s.irqs := rfl
@[simp] theorem State.updQueue_link (s : State) (i : Nat) (f : Queue → Queue) : (s.updQueue i f).link = s.link := rfl
@[simp] theorem State.updQueue_lamgil (s : State) (i : Nat) (f : Queue → Queue) : (s.updQueue i f).lamgil = s.lamgil := rfl
@[simp] theorem State.updQueue_clusters (s : State) (i : Nat) (f : Queue → Queue) : (s.updQueue i f).clusters = s.clusters := rfl
@[simp] theorem State.updQueue_stacksUp (s : State) (i : Nat) (f : Queue → Queue) : (s.updQueue i f).stacksUp = s.stacksUp := rfl
@[simp] theorem State.updQueue_channels (s : State) (i : Nat) (f : Queue → Queue) : (s.updQueue i f).channels = s.channels := rfl
@[simp] theorem State.updQueue_offline (s : State) (i : Nat) (f : Queue → Queue) : (s.updQueue i f).offline = s.offline := rfl
@[simp] theorem State.updQueue_vfs (s : State) (i : Nat) (f : Queue → Queue) : (s.updQueue i f).vfs = s.vfs := rfl
@[simp] theorem State.updQueue_mailbox (s : State) (i : Nat) (f : Queue → Queue) : (s.updQueue i f).mailbox = s.mailbox := rfl
@[simp] theorem State.updQueue_firmware (s : State) (i : Nat) (f : Queue → Queue) : (s.updQueue i f).firmware = s.firmware := rfl
@[simp] theorem State.updQueue_config (s : State) (i : Nat) (f : Queue → Queue) : (s.updQueue i f).config = s.config := rfl
@[simp] theorem State.updQueue_ats (s : State) (i : Nat) (f : Queue → Queue) : (s.updQueue i f).ats = s.ats := rfl
@[simp] theorem State.updQueue_farOut (s : State) (i : Nat) (f : Queue → Queue) : (s.updQueue i f).farOut = s.farOut := rfl
@[simp] theorem State.updQueue_farPend (s : State) (i : Nat) (f : Queue → Queue) : (s.updQueue i f).farPend = s.farPend := rfl
@[simp] theorem State.updQueue_peerDown (s : State) (i : Nat) (f : Queue → Queue) : (s.updQueue i f).peerDown = s.peerDown := rfl
@[simp] theorem State.updQueue_scrubStack (s : State) (i : Nat) (f : Queue → Queue) : (s.updQueue i f).scrubStack = s.scrubStack := rfl
@[simp] theorem State.updQueue_scrubBulk (s : State) (i : Nat) (f : Queue → Queue) : (s.updQueue i f).scrubBulk = s.scrubBulk := rfl
@[simp] theorem State.updQueue_l1 (s : State) (i : Nat) (f : Queue → Queue) : (s.updQueue i f).l1 = s.l1 := rfl
@[simp] theorem State.updQueue_l2 (s : State) (i : Nat) (f : Queue → Queue) : (s.updQueue i f).l2 = s.l2 := rfl
@[simp] theorem State.updQueue_replies (s : State) (i : Nat) (f : Queue → Queue) : (s.updQueue i f).replies = s.replies := rfl
@[simp] theorem State.updQueue_logq (s : State) (i : Nat) (f : Queue → Queue) : (s.updQueue i f).logq = s.logq := rfl
@[simp] theorem State.updQueue_blocked (s : State) (i : Nat) (f : Queue → Queue) : (s.updQueue i f).blocked = s.blocked := rfl
@[simp] theorem State.updQueue_images (s : State) (i : Nat) (f : Queue → Queue) : (s.updQueue i f).images = s.images := rfl

/-! ### updOp -/

@[simp] theorem State.updOp_agenda (s : State) (i : Nat) (f : AsyncOp → AsyncOp) : (s.updOp i f).agenda = s.agenda := rfl
@[simp] theorem State.updOp_cur (s : State) (i : Nat) (f : AsyncOp → AsyncOp) : (s.updOp i f).cur = s.cur := rfl
@[simp] theorem State.updOp_free (s : State) (i : Nat) (f : AsyncOp → AsyncOp) : (s.updOp i f).free = s.free := rfl
@[simp] theorem State.updOp_stamp (s : State) (i : Nat) (f : AsyncOp → AsyncOp) : (s.updOp i f).stamp = s.stamp := rfl
@[simp] theorem State.updOp_nextOp (s : State) (i : Nat) (f : AsyncOp → AsyncOp) : (s.updOp i f).nextOp = s.nextOp := rfl
@[simp] theorem State.updOp_clock (s : State) (i : Nat) (f : AsyncOp → AsyncOp) : (s.updOp i f).clock = s.clock := rfl
@[simp] theorem State.updOp_mem (s : State) (i : Nat) (f : AsyncOp → AsyncOp) : (s.updOp i f).mem = s.mem := rfl
@[simp] theorem State.updOp_poison (s : State) (i : Nat) (f : AsyncOp → AsyncOp) : (s.updOp i f).poison = s.poison := rfl
@[simp] theorem State.updOp_owner (s : State) (i : Nat) (f : AsyncOp → AsyncOp) : (s.updOp i f).owner = s.owner := rfl
@[simp] theorem State.updOp_codeOld (s : State) (i : Nat) (f : AsyncOp → AsyncOp) : (s.updOp i f).codeOld = s.codeOld := rfl
@[simp] theorem State.updOp_tlb (s : State) (i : Nat) (f : AsyncOp → AsyncOp) : (s.updOp i f).tlb = s.tlb := rfl
@[simp] theorem State.updOp_l1win (s : State) (i : Nat) (f : AsyncOp → AsyncOp) : (s.updOp i f).l1win = s.l1win := rfl
@[simp] theorem State.updOp_l2win (s : State) (i : Nat) (f : AsyncOp → AsyncOp) : (s.updOp i f).l2win = s.l2win := rfl
@[simp] theorem State.updOp_ctxs (s : State) (i : Nat) (f : AsyncOp → AsyncOp) : (s.updOp i f).ctxs = s.ctxs := rfl
@[simp] theorem State.updOp_nodes (s : State) (i : Nat) (f : AsyncOp → AsyncOp) : (s.updOp i f).nodes = s.nodes := rfl
@[simp] theorem State.updOp_groups (s : State) (i : Nat) (f : AsyncOp → AsyncOp) : (s.updOp i f).groups = s.groups := rfl
@[simp] theorem State.updOp_crews (s : State) (i : Nat) (f : AsyncOp → AsyncOp) : (s.updOp i f).crews = s.crews := rfl
@[simp] theorem State.updOp_gangs (s : State) (i : Nat) (f : AsyncOp → AsyncOp) : (s.updOp i f).gangs = s.gangs := rfl
@[simp] theorem State.updOp_queues (s : State) (i : Nat) (f : AsyncOp → AsyncOp) : (s.updOp i f).queues = s.queues := rfl
@[simp] theorem State.updOp_parts (s : State) (i : Nat) (f : AsyncOp → AsyncOp) : (s.updOp i f).parts = s.parts := rfl
@[simp] theorem State.updOp_cores (s : State) (i : Nat) (f : AsyncOp → AsyncOp) : (s.updOp i f).cores = s.cores := rfl
@[simp] theorem State.updOp_slices (s : State) (i : Nat) (f : AsyncOp → AsyncOp) : (s.updOp i f).slices = s.slices := rfl
@[simp] theorem State.updOp_ops (s : State) (i : Nat) (f : AsyncOp → AsyncOp) : (s.updOp i f).ops = s.ops.map fun o => if o.id = i then f o else o := rfl
@[simp] theorem State.updOp_cmds (s : State) (i : Nat) (f : AsyncOp → AsyncOp) : (s.updOp i f).cmds = s.cmds := rfl
@[simp] theorem State.updOp_items (s : State) (i : Nat) (f : AsyncOp → AsyncOp) : (s.updOp i f).items = s.items := rfl
@[simp] theorem State.updOp_epochs (s : State) (i : Nat) (f : AsyncOp → AsyncOp) : (s.updOp i f).epochs = s.epochs := rfl
@[simp] theorem State.updOp_filters (s : State) (i : Nat) (f : AsyncOp → AsyncOp) : (s.updOp i f).filters = s.filters := rfl
@[simp] theorem State.updOp_stages (s : State) (i : Nat) (f : AsyncOp → AsyncOp) : (s.updOp i f).stages = s.stages := rfl
@[simp] theorem State.updOp_irqs (s : State) (i : Nat) (f : AsyncOp → AsyncOp) : (s.updOp i f).irqs = s.irqs := rfl
@[simp] theorem State.updOp_link (s : State) (i : Nat) (f : AsyncOp → AsyncOp) : (s.updOp i f).link = s.link := rfl
@[simp] theorem State.updOp_lamgil (s : State) (i : Nat) (f : AsyncOp → AsyncOp) : (s.updOp i f).lamgil = s.lamgil := rfl
@[simp] theorem State.updOp_clusters (s : State) (i : Nat) (f : AsyncOp → AsyncOp) : (s.updOp i f).clusters = s.clusters := rfl
@[simp] theorem State.updOp_stacksUp (s : State) (i : Nat) (f : AsyncOp → AsyncOp) : (s.updOp i f).stacksUp = s.stacksUp := rfl
@[simp] theorem State.updOp_channels (s : State) (i : Nat) (f : AsyncOp → AsyncOp) : (s.updOp i f).channels = s.channels := rfl
@[simp] theorem State.updOp_offline (s : State) (i : Nat) (f : AsyncOp → AsyncOp) : (s.updOp i f).offline = s.offline := rfl
@[simp] theorem State.updOp_vfs (s : State) (i : Nat) (f : AsyncOp → AsyncOp) : (s.updOp i f).vfs = s.vfs := rfl
@[simp] theorem State.updOp_mailbox (s : State) (i : Nat) (f : AsyncOp → AsyncOp) : (s.updOp i f).mailbox = s.mailbox := rfl
@[simp] theorem State.updOp_firmware (s : State) (i : Nat) (f : AsyncOp → AsyncOp) : (s.updOp i f).firmware = s.firmware := rfl
@[simp] theorem State.updOp_config (s : State) (i : Nat) (f : AsyncOp → AsyncOp) : (s.updOp i f).config = s.config := rfl
@[simp] theorem State.updOp_ats (s : State) (i : Nat) (f : AsyncOp → AsyncOp) : (s.updOp i f).ats = s.ats := rfl
@[simp] theorem State.updOp_farOut (s : State) (i : Nat) (f : AsyncOp → AsyncOp) : (s.updOp i f).farOut = s.farOut := rfl
@[simp] theorem State.updOp_farPend (s : State) (i : Nat) (f : AsyncOp → AsyncOp) : (s.updOp i f).farPend = s.farPend := rfl
@[simp] theorem State.updOp_peerDown (s : State) (i : Nat) (f : AsyncOp → AsyncOp) : (s.updOp i f).peerDown = s.peerDown := rfl
@[simp] theorem State.updOp_scrubStack (s : State) (i : Nat) (f : AsyncOp → AsyncOp) : (s.updOp i f).scrubStack = s.scrubStack := rfl
@[simp] theorem State.updOp_scrubBulk (s : State) (i : Nat) (f : AsyncOp → AsyncOp) : (s.updOp i f).scrubBulk = s.scrubBulk := rfl
@[simp] theorem State.updOp_l1 (s : State) (i : Nat) (f : AsyncOp → AsyncOp) : (s.updOp i f).l1 = s.l1 := rfl
@[simp] theorem State.updOp_l2 (s : State) (i : Nat) (f : AsyncOp → AsyncOp) : (s.updOp i f).l2 = s.l2 := rfl
@[simp] theorem State.updOp_replies (s : State) (i : Nat) (f : AsyncOp → AsyncOp) : (s.updOp i f).replies = s.replies := rfl
@[simp] theorem State.updOp_logq (s : State) (i : Nat) (f : AsyncOp → AsyncOp) : (s.updOp i f).logq = s.logq := rfl
@[simp] theorem State.updOp_blocked (s : State) (i : Nat) (f : AsyncOp → AsyncOp) : (s.updOp i f).blocked = s.blocked := rfl
@[simp] theorem State.updOp_images (s : State) (i : Nat) (f : AsyncOp → AsyncOp) : (s.updOp i f).images = s.images := rfl

/-! ### raise -/

@[simp] theorem State.raise_agenda (s : State) (c k : Nat) : (s.raise c k).agenda = s.agenda := rfl
@[simp] theorem State.raise_cur (s : State) (c k : Nat) : (s.raise c k).cur = s.cur := rfl
@[simp] theorem State.raise_free (s : State) (c k : Nat) : (s.raise c k).free = s.free := rfl
@[simp] theorem State.raise_stamp (s : State) (c k : Nat) : (s.raise c k).stamp = s.stamp := rfl
@[simp] theorem State.raise_nextOp (s : State) (c k : Nat) : (s.raise c k).nextOp = s.nextOp := rfl
@[simp] theorem State.raise_clock (s : State) (c k : Nat) : (s.raise c k).clock = s.clock := rfl
@[simp] theorem State.raise_mem (s : State) (c k : Nat) : (s.raise c k).mem = s.mem := rfl
@[simp] theorem State.raise_poison (s : State) (c k : Nat) : (s.raise c k).poison = s.poison := rfl
@[simp] theorem State.raise_owner (s : State) (c k : Nat) : (s.raise c k).owner = s.owner := rfl
@[simp] theorem State.raise_codeOld (s : State) (c k : Nat) : (s.raise c k).codeOld = s.codeOld := rfl
@[simp] theorem State.raise_tlb (s : State) (c k : Nat) : (s.raise c k).tlb = s.tlb := rfl
@[simp] theorem State.raise_l1win (s : State) (c k : Nat) : (s.raise c k).l1win = s.l1win := rfl
@[simp] theorem State.raise_l2win (s : State) (c k : Nat) : (s.raise c k).l2win = s.l2win := rfl
@[simp] theorem State.raise_ctxs (s : State) (c k : Nat) : (s.raise c k).ctxs = s.ctxs := rfl
@[simp] theorem State.raise_nodes (s : State) (c k : Nat) : (s.raise c k).nodes = s.nodes := rfl
@[simp] theorem State.raise_groups (s : State) (c k : Nat) : (s.raise c k).groups = s.groups := rfl
@[simp] theorem State.raise_crews (s : State) (c k : Nat) : (s.raise c k).crews = s.crews := rfl
@[simp] theorem State.raise_gangs (s : State) (c k : Nat) : (s.raise c k).gangs = s.gangs := rfl
@[simp] theorem State.raise_queues (s : State) (c k : Nat) : (s.raise c k).queues = s.queues := rfl
@[simp] theorem State.raise_parts (s : State) (c k : Nat) : (s.raise c k).parts = s.parts := rfl
@[simp] theorem State.raise_cores (s : State) (c k : Nat) : (s.raise c k).cores = s.cores := rfl
@[simp] theorem State.raise_slices (s : State) (c k : Nat) : (s.raise c k).slices = s.slices := rfl
@[simp] theorem State.raise_ops (s : State) (c k : Nat) : (s.raise c k).ops = s.ops := rfl
@[simp] theorem State.raise_cmds (s : State) (c k : Nat) : (s.raise c k).cmds = s.cmds := rfl
@[simp] theorem State.raise_items (s : State) (c k : Nat) : (s.raise c k).items = s.items := rfl
@[simp] theorem State.raise_epochs (s : State) (c k : Nat) : (s.raise c k).epochs = s.epochs := rfl
@[simp] theorem State.raise_filters (s : State) (c k : Nat) : (s.raise c k).filters = s.filters := rfl
@[simp] theorem State.raise_stages (s : State) (c k : Nat) : (s.raise c k).stages = s.stages := rfl
@[simp] theorem State.raise_irqs (s : State) (c k : Nat) : (s.raise c k).irqs = s.irqs ++ [s.vector c k] := rfl
@[simp] theorem State.raise_link (s : State) (c k : Nat) : (s.raise c k).link = s.link := rfl
@[simp] theorem State.raise_lamgil (s : State) (c k : Nat) : (s.raise c k).lamgil = s.lamgil := rfl
@[simp] theorem State.raise_clusters (s : State) (c k : Nat) : (s.raise c k).clusters = s.clusters := rfl
@[simp] theorem State.raise_stacksUp (s : State) (c k : Nat) : (s.raise c k).stacksUp = s.stacksUp := rfl
@[simp] theorem State.raise_channels (s : State) (c k : Nat) : (s.raise c k).channels = s.channels := rfl
@[simp] theorem State.raise_offline (s : State) (c k : Nat) : (s.raise c k).offline = s.offline := rfl
@[simp] theorem State.raise_vfs (s : State) (c k : Nat) : (s.raise c k).vfs = s.vfs := rfl
@[simp] theorem State.raise_mailbox (s : State) (c k : Nat) : (s.raise c k).mailbox = s.mailbox := rfl
@[simp] theorem State.raise_firmware (s : State) (c k : Nat) : (s.raise c k).firmware = s.firmware := rfl
@[simp] theorem State.raise_config (s : State) (c k : Nat) : (s.raise c k).config = s.config := rfl
@[simp] theorem State.raise_ats (s : State) (c k : Nat) : (s.raise c k).ats = s.ats := rfl
@[simp] theorem State.raise_farOut (s : State) (c k : Nat) : (s.raise c k).farOut = s.farOut := rfl
@[simp] theorem State.raise_farPend (s : State) (c k : Nat) : (s.raise c k).farPend = s.farPend := rfl
@[simp] theorem State.raise_peerDown (s : State) (c k : Nat) : (s.raise c k).peerDown = s.peerDown := rfl
@[simp] theorem State.raise_scrubStack (s : State) (c k : Nat) : (s.raise c k).scrubStack = s.scrubStack := rfl
@[simp] theorem State.raise_scrubBulk (s : State) (c k : Nat) : (s.raise c k).scrubBulk = s.scrubBulk := rfl
@[simp] theorem State.raise_l1 (s : State) (c k : Nat) : (s.raise c k).l1 = s.l1 := rfl
@[simp] theorem State.raise_l2 (s : State) (c k : Nat) : (s.raise c k).l2 = s.l2 := rfl
@[simp] theorem State.raise_replies (s : State) (c k : Nat) : (s.raise c k).replies = s.replies := rfl
@[simp] theorem State.raise_logq (s : State) (c k : Nat) : (s.raise c k).logq = s.logq := rfl
@[simp] theorem State.raise_blocked (s : State) (c k : Nat) : (s.raise c k).blocked = s.blocked := rfl
@[simp] theorem State.raise_images (s : State) (c k : Nat) : (s.raise c k).images = s.images := rfl

/-! ### Free values -/

@[simp] theorem State.drawNat_mem (s : State) : s.drawNat.2.mem = s.mem := rfl
@[simp] theorem State.drawBool_mem (s : State) : s.drawBool.2.mem = s.mem := rfl

/-! ### The token handed on (R47) -/

@[simp] theorem Part.handTo_token (P : Part) (t : Option Nat) : (P.handTo t).token = t := rfl
@[simp] theorem Part.handTo_run (P : Part) (t : Option Nat) : (P.handTo t).run = 0 := rfl
@[simp] theorem Part.handTo_yield (P : Part) (t : Option Nat) : (P.handTo t).yield = false := rfl
@[simp] theorem Part.handTo_accs (P : Part) (t : Option Nat) : (P.handTo t).accs = P.accs := rfl
@[simp] theorem Part.handTo_mq (P : Part) (t : Option Nat) : (P.handTo t).mq = P.mq := rfl
@[simp] theorem State.keepCopy_mem (s : State) (i k l : Nat) : (s.keepCopy i k l).mem = s.mem := rfl

/-! ### Records after an update -/

theorem State.ctx_setCtx (s : State) (i k : Nat) (x : Context) :
    (s.setCtx i x).ctx k = if k = i then x else s.ctx k := tabGet_tabSet ..
theorem State.part_setPart (s : State) (i k : Nat) (x : Part) :
    (s.setPart i x).part k = if k = i then x else s.part k := tabGet_tabSet ..
theorem State.core_setCore (s : State) (i k : Nat) (x : Core) :
    (s.setCore i x).core k = if k = i then x else s.core k := tabGet_tabSet ..
theorem State.ctx_updCtx (s : State) (i k : Nat) (f : Context → Context) :
    (s.updCtx i f).ctx k = if k = i then f (s.ctx i) else s.ctx k := tabGet_tabSet ..
theorem State.part_updPart (s : State) (i k : Nat) (f : Part → Part) :
    (s.updPart i f).part k = if k = i then f (s.part i) else s.part k := tabGet_tabSet ..

/-- One element of an updated list. -/
theorem getElem?_updAt {α : Type} (l : List α) (i k : Nat) (f : α → α) :
    (updAt l i f)[k]? = if k = i then (l[k]?).map f else l[k]? := by
  unfold updAt
  rw [List.getElem?_modify]
  by_cases h : k = i
  · simp [h]
  · simp [h, Ne.symm h]

theorem State.gangs_updGang (s : State) (i k : Nat) (f : Gang → Gang) :
    (s.updGang i f).gangs[k]? = if k = i then (s.gangs[k]?).map f else s.gangs[k]? := getElem?_updAt ..

end Sys2Proof.Machine
end

