-- ==== Sys2Proof/Laws/Memory.lean ====
section
/-! SUPPORT. Every operation that writes memory keeps its canonical form, and what a write event does to each byte. -/
namespace Sys2Proof.Machine

/-! ### Write events -/

@[simp] theorem State.countSlice_mem (s : State) (i src n : Nat) : (s.countSlice i src n).mem = s.mem := by
  unfold State.countSlice
  dsimp only
  split <;> rfl

/-- Copies that are invalidated change no byte of memory (R182). -/
@[simp] theorem State.invalidate_mem (s : State) (own : Option Nat) (ws : List Nat) : (s.invalidate own ws).mem = s.mem := by
  unfold State.invalidate
  have h : ∀ (l : List CacheLine) (u : State),
      (l.foldl (fun s c => s.countSlice (homeSlice (128 * c.line) (c.unit / 96)) 0x42 1) u).mem = u.mem := by
    intro l
    induction l with
    | nil => exact fun _ => rfl
    | cons c r ih => intro u; simp [ih]
  exact h _ _

/-- Ownership that moves changes no byte of memory (R182). -/
@[simp] theorem State.own_mem (s : State) (own : Option Nat) (ws : List Nat) : (s.own own ws).mem = s.mem := by
  simp [State.own]

theorem MemoryTidy.own {s : State} (h : MemoryTidy s) (own : Option Nat) (ws : List Nat) : MemoryTidy (s.own own ws) := by
  unfold MemoryTidy
  rw [State.own_mem]
  exact h

theorem State.writeMem_mem (s : State) (who own : Option Nat) (bs : List (Nat × Byte)) :
    (s.writeMem who own bs).mem = stSetAll (w := 8) s.mem bs := rfl

/-- A write event keeps the canonical form of memory. -/
theorem MemoryTidy.writeMem {s : State} (h : MemoryTidy s) (who own : Option Nat) (bs : List (Nat × Byte)) :
    MemoryTidy (s.writeMem who own bs) := stWf_stSetAll s.mem bs h

/-- A byte that a write event does not name reads as before. -/
theorem State.writeMem_frame (s : State) (who own : Option Nat) (bs : List (Nat × Byte)) (a : Nat) (h : ∀ e ∈ bs, e.1 ≠ a) :
    stGet (w := 8) (s.writeMem who own bs).mem a = stGet (w := 8) s.mem a :=
  stGet_stSetAll_of_not_mem bs s.mem a h

theorem MemoryTidy.writeNat {s : State} (h : MemoryTidy s) (who own : Option Nat) (a n x : Nat) :
    MemoryTidy (s.writeNat who own a n x) := h.writeMem ..

/-- The records that are written to the logs keep it (R369). -/
theorem MemoryTidy.drainLog (l : List (Nat × List Byte)) {s : State} (h : MemoryTidy s) (kept : List (Nat × List Byte)) :
    MemoryTidy (s.drainLog kept l) := by
  induction l generalizing s kept with
  | nil => exact h
  | cons e r ih =>
    obtain ⟨c, bs⟩ := e
    unfold State.drainLog
    dsimp only
    split
    · exact ih h _
    · split
      · exact ih h _
      · exact ih ((h.writeMem ..).writeNat ..) _

/-- A log record keeps it (R369). -/
theorem MemoryTidy.logErr {s : State} (h : MemoryTidy s) (ctx kind : Nat) (c : Cause) (info unit addr node : Nat) :
    MemoryTidy (s.logErr ctx kind c info unit addr node) := by
  unfold State.logErr
  have h' : MemoryTidy (if kind = 1 || kind = 8 || kind = 9 then s.raise ctx 2 else s) := by split <;> exact h
  revert h'
  generalize (if kind = 1 || kind = 8 || kind = 9 then s.raise ctx 2 else s) = u
  intro hu
  dsimp only
  split
  · exact hu
  · exact hu.drainLog _ _

/-- A range filled with zeros keeps it (R185). -/
theorem MemoryTidy.zeroFill {s : State} (h : MemoryTidy s) (a n : Nat) : MemoryTidy (s.zeroFill a n) :=
  stWf_stClear s.mem a (a + n) h

/-- After a zero fill a byte of the range reads 0 and every other byte reads as before. -/
theorem State.zeroFill_read (s : State) (a n k : Nat) :
    stGet (w := 8) (s.zeroFill a n).mem k = if a ≤ k ∧ k < a + n then 0 else stGet (w := 8) s.mem k :=
  stGet_stClear s.mem a (a + n) k

/-- Images put one after another keep it. -/
theorem Memory.wf_foldl_memPut {α : Type} (l : List α) (at_ : α → Nat) (bs : α → List Byte) (m : Memory)
    (h : Memory.wf m = true) : Memory.wf (l.foldl (fun m e => memPut m (at_ e) (bs e)) m) = true := by
  induction l generalizing m with
  | nil => exact h
  | cons e r ih => exact ih _ (Memory.wf_memPut m _ _ h)

/-! ### Host and peer memory -/

/-- A request that goes out changes no byte of memory (R373). -/
theorem State.farSend_mem (s : State) (pa : Nat) (k : FarKind) : (s.farSend pa k).2.mem = s.mem := by
  unfold State.farSend
  split <;> rfl

theorem MemoryTidy.farSettle {s t : State} (h : MemoryTidy t) (bad : Bool) (go : State → State)
    (hg : ∀ u, MemoryTidy u → MemoryTidy (go u)) : MemoryTidy (s.farSettle t bad go) := by
  unfold State.farSettle
  have h' : MemoryTidy (if s.farOut.length < t.farOut.length then { t with farPend := t.farPend + 1 } else t) := by split <;> exact h
  dsimp only
  split
  · exact h'
  · exact hg _ h'

/-- A word written to host or peer memory keeps it. -/
theorem MemoryTidy.farWord {s : State} (h : MemoryTidy s) (w : Nat) (bs : List (Nat × Byte)) : MemoryTidy (s.farWord w bs) := by
  unfold State.farWord
  dsimp only
  refine MemoryTidy.farSettle ?_ _ _ fun u hu => hu.writeMem ..
  unfold MemoryTidy
  rw [State.farSend_mem]
  exact h

/-- Bytes written to host or peer memory keep it (R373). -/
theorem MemoryTidy.farWrite {s : State} (h : MemoryTidy s) (bs : List (Nat × Byte)) : MemoryTidy (s.farWrite bs) := by
  unfold State.farWrite
  generalize wordsOf bs = ws
  induction ws generalizing s with
  | nil => exact h
  | cons w r ih => exact ih (h.farWord ..)

/-- A frame of host or peer memory filled with zeros keeps it (R185). -/
theorem MemoryTidy.farZero {s : State} (h : MemoryTidy s) (pa n : Nat) : MemoryTidy (s.farZero pa n) := by
  unfold State.farZero
  refine MemoryTidy.farSettle ?_ _ _ fun u hu => stWf_stClear u.mem pa (pa + n) hu
  show Memory.wf (s.farSend pa (.zero n)).2.mem = true
  rw [State.farSend_mem]
  exact h

/-! ### Tiles and pages -/

/-- An access that waits for its memory keeps it (R375). -/
theorem MemoryTidy.needReady {s : State} (h : MemoryTidy s) (ok : Bool) : MemoryTidy (s.needReady ok) := by
  unfold State.needReady
  split <;> exact h

/-- A page that comes back from DISCARD keeps it (R185). -/
theorem MemoryTidy.revive {s : State} (h : MemoryTidy s) (l : Leaf) : MemoryTidy (s.revive l) := by
  unfold State.revive
  extract_lets l' u v hdr m inside m'
  split
  · exact h
  · have hv : MemoryTidy v := by
      show MemoryTidy (if l'.tier = 2 then _ else _)
      split
      · exact (h.needReady _).farZero ..
      · exact h.needReady _
    have hm : Memory.wf m = true := by
      show Memory.wf (if l'.tier = 2 then _ else _) = true
      split
      · exact hv
      · exact stWf_stClear v.mem l'.frame (l'.frame + l'.size) hv
    refine stWf_stSet _ _ _ ?_
    show Memory.wf (if l'.mapped then _ else _) = true
    split
    · exact Memory.wf_foldl_memPut _ _ _ _ hm
    · exact hm

theorem MemoryTidy.countTile {s : State} (h : MemoryTidy s) (t : Tile) (src die : Nat) :
    MemoryTidy (s.countTile t src die) := by
  unfold MemoryTidy State.countTile
  rw [State.countSlice_mem]
  exact h

theorem MemoryTidy.putTile {s : State} (h : MemoryTidy s) (who own : Option Nat) (t : Tile) (bs : List Byte) (x : Hdr) :
    MemoryTidy (s.putTile who own t bs x) := by
  unfold State.putTile
  dsimp only
  split
  · exact ((h.writeMem ..).own ..).farWrite _
  · exact (h.writeMem ..).own ..

/-- Materialisation keeps it (R263). -/
theorem MemoryTidy.materialise {s : State} (h : MemoryTidy s) (who : Option Nat) (t : Tile) (die : Nat) :
    MemoryTidy (s.materialise who t die) := by
  unfold State.materialise
  dsimp only
  split
  · exact h
  · exact (h.putTile ..).countTile ..

/-- The element event of an edit keeps it (R260 to R262). -/
theorem MemoryTidy.editTile {s : State} (h : MemoryTidy s) (t : Tile) (e : Edit) : MemoryTidy (s.editTile t e) := by
  unfold State.editTile
  dsimp only
  split
  · exact (h.writeMem ..).own ..
  · exact (h.putTile ..).countTile ..

/-- Bytes of a tile written under an identity header keep it (R229). -/
theorem MemoryTidy.putPart {s : State} (h : MemoryTidy s) (who own : Option Nat) (t : Tile) (bs : List (Nat × Byte)) :
    MemoryTidy (s.putPart who own t bs) := by
  unfold State.putPart
  split
  · exact (h.own ..).farWrite _
  · exact (h.writeMem ..).own ..

/-- A store's tile event keeps it (R229). -/
theorem MemoryTidy.storeTile {s : State} (h : MemoryTidy s) (who own : Option Nat) (t : Tile) (bs : List (Nat × Byte))
    (die : Nat) : MemoryTidy (s.storeTile who own t bs die) := by
  unfold State.storeTile
  extract_lets x y put
  split
  · exact h.putTile ..
  · split
    · exact h.putPart ..
    · exact (h.putTile ..).countTile ..

/-- Stores to one page keep it (R185, R228, R229). -/
theorem MemoryTidy.storePage {s : State} (h : MemoryTidy s) (who own : Option Nat) (l : Leaf) (bs : List (Nat × Byte))
    (die : Nat) : MemoryTidy (s.storePage who own l bs die) := by
  unfold State.storePage
  extract_lets l' u l''
  have hu : MemoryTidy u := h.revive l'
  clear_value u
  split
  · exact h
  · split
    · generalize tilesOf bs = ts
      induction ts generalizing u with
      | nil => exact hu
      | cons a r ih => exact ih _ (hu.storeTile ..)
    · split
      · exact hu.farWrite ..
      · exact hu.writeMem ..

/-! ### Resets and the placed word -/

/-- A fundamental reset keeps it (R380). -/
theorem MemoryTidy.fundamentalReset {s t : State} (h : MemoryTidy s) (e : execFundamentalReset s = .next t) :
    MemoryTidy t := by
  unfold execFundamentalReset at e
  injection e with e
  subst e
  exact stWf_filter s.mem _ h

/-- The state with a word placed for the next fetch keeps it. -/
theorem MemoryTidy.seatCode {s : State} (h : MemoryTidy s) (code : List Byte) : MemoryTidy (s.seatCode code) :=
  Memory.wf_foldl_memPut _ _ _ _ h

end Sys2Proof.Machine
end

