-- ==== Sys2Proof/Laws/Ops.lean ====
section
/-! SUPPORT. What the shared operations do, once each: the issuing agent, the accounts of an issue, execution in a tail and
irrevocable execution, register writes, and coherent writes. -/
namespace Sys2Proof.Machine

/-! ### Who issues -/

/-- A gang that issues is the resident gang of its number, with its group and the view of its chosen fragment. -/
theorem State.issue_gang {s : State} {g : Nat} {G : Gang} {gr : Group} {i : Issuer} (h : s.issue = .gang g G gr i) :
    s.gangs[g]? = some G ∧ G.stand = .resident ∧ s.groups[G.grp]? = some gr
      ∧ ∃ f, G.chosen = some f ∧ i = G.view s gr f := by
  unfold State.issue at h
  split at h
  · cases h
  · split at h
    · next g' G' gr' f hi =>
      cases h
      unfold State.issuing at hi
      split at hi
      · next hG =>
        split at hi
        · next hs =>
          split at hi
          · next hgr hf => cases hi; exact ⟨hG, hs, hgr, f, hf, rfl⟩
          · cases hi
        · cases hi
      · cases hi
    · cases h
  · split at h <;> cases h

/-! ### The accounts of an issue -/

theorem State.count_eq (s : State) (p c src n : Nat) : s.count p c src n = { s with cores := (s.count p c src n).cores } := by
  unfold State.count; split <;> rfl

theorem State.count_core (s : State) (p c src n k : Nat) :
    ((s.count p c src n).core k).offline = (s.core k).offline ∧ ((s.count p c src n).core k).evsel = (s.core k).evsel
      ∧ ((s.count p c src n).core k).evctx = (s.core k).evctx := by
  unfold State.count
  split
  · simp
  · simp only [State.core_setCore]
    split
    · next h => subst h; simp [Core.count]
    · simp

@[simp] theorem State.count_gangs (s : State) (p c src n : Nat) : (s.count p c src n).gangs = s.gangs := by
  rw [State.count_eq]
@[simp] theorem State.count_groups (s : State) (p c src n : Nat) : (s.count p c src n).groups = s.groups := by
  rw [State.count_eq]
@[simp] theorem State.count_parts (s : State) (p c src n : Nat) : (s.count p c src n).parts = s.parts := by
  rw [State.count_eq]
@[simp] theorem State.count_mem (s : State) (p c src n : Nat) : (s.count p c src n).mem = s.mem := by rw [State.count_eq]
@[simp] theorem State.count_stamp (s : State) (p c src n : Nat) : (s.count p c src n).stamp = s.stamp := by
  rw [State.count_eq]

/-! ### Frames compose -/

theorem OnlyGang.refl (s : State) (g : Nat) : OnlyGang s s g := ⟨rfl, fun _ _ => rfl, fun _ => ⟨rfl, rfl, rfl⟩, fun _ => ⟨rfl, rfl, rfl⟩⟩

theorem OnlyGang.trans {a b c : State} {g : Nat} (h : OnlyGang a b g) (k : OnlyGang b c g) : OnlyGang a c g where
  rest := by rw [k.rest, h.rest]
  others j hj := (k.others j hj).trans (h.others j hj)
  units p := ⟨(k.units p).1.trans (h.units p).1, (k.units p).2.1.trans (h.units p).2.1, (k.units p).2.2.trans (h.units p).2.2⟩
  counters c := ⟨(k.counters c).1.trans (h.counters c).1, (k.counters c).2.1.trans (h.counters c).2.1,
    (k.counters c).2.2.trans (h.counters c).2.2⟩

theorem OnlyGang.count (s : State) (g p c src n : Nat) : OnlyGang s (s.count p c src n) g where
  rest := by conv_lhs => rw [State.count_eq]
             simp [State.count_gangs]
  others _ _ := by simp
  units _ := by simp [State.part]
  counters k := State.count_core s p c src n k

theorem OnlyGang.updGang (s : State) (g : Nat) (f : Gang → Gang) : OnlyGang s (s.updGang g f) g where
  rest := rfl
  others k hk := by rw [State.gangs_updGang, if_neg hk]
  units _ := ⟨rfl, rfl, rfl⟩
  counters _ := ⟨rfl, rfl, rfl⟩

theorem OnlyGang.updPart (s : State) (g p : Nat) (f : Part → Part)
    (h : ∀ P, (f P).token = P.token ∧ (f P).accs = P.accs ∧ (f P).mq = P.mq) : OnlyGang s (s.updPart p f) g where
  rest := rfl
  others _ _ := rfl
  units k := by
    rw [State.part_updPart]
    split
    · next hk => subst hk; exact h _
    · exact ⟨rfl, rfl, rfl⟩
  counters _ := ⟨rfl, rfl, rfl⟩

theorem OnlyGang.stamp (s : State) (g n : Nat) : OnlyGang s { s with stamp := n } g :=
  ⟨rfl, fun _ _ => rfl, fun _ => ⟨rfl, rfl, rfl⟩, fun _ => ⟨rfl, rfl, rfl⟩⟩

/-- What the accounts of an issue leave of a gang: everything but its place in the order of issue, the length of its
crawl, and the instruction count of its tail. -/
def Gang.Accounted (G G' : Gang) : Prop :=
  G' = { G with lastIssue := G'.lastIssue, crawlCnt := G'.crawlCnt, tail := G'.tail }

/-- The accounts of an issue (R46, R47, R378) touch nothing but the accounts. -/
theorem State.account_frame (s : State) (g : Nat) (pair : Bool) : OnlyGang s (s.account g pair) g := by
  unfold State.account
  split
  · exact .refl s g
  split
  · exact .updPart _ _ _ _ fun P => ⟨rfl, rfl, rfl⟩
  · extract_lets ctx s1 s2 s3 s4 s5
    have h1 : OnlyGang s s1 g := .count ..
    have h2 : OnlyGang s1 s2 g := by
      show OnlyGang s1 (if pair then _ else _) g
      split
      · exact .count ..
      · exact .refl _ _
    have h3 : OnlyGang s2 s3 g := by
      show OnlyGang s2 (if _ then _ else _) g
      split
      · exact .count ..
      · exact .refl _ _
    have h4 : OnlyGang s3 s4 g := .updPart _ _ _ _ fun P => ⟨rfl, rfl, rfl⟩
    have h5 : OnlyGang s4 s5 g := .updGang ..
    exact ((((h1.trans h2).trans h3).trans h4).trans h5).trans (.stamp ..)

theorem State.account_gang {s : State} {g : Nat} {G : Gang} (h : s.gangs[g]? = some G) (pair : Bool) :
    ∃ G', (s.account g pair).gangs[g]? = some G' ∧ G.Accounted G' := by
  unfold State.account
  split
  · next hn => rw [h] at hn; cases hn
  next G0 hG =>
  obtain rfl : G = G0 := by rw [h] at hG; exact Option.some.inj hG
  split
  · exact ⟨G, h, rfl⟩
  extract_lets ctx s1 s2 s3 s4 s5
  have h1 : s1.gangs = s.gangs := State.count_gangs ..
  have h2 : s2.gangs = s.gangs := by
    rw [← h1]; show (if pair then _ else _ : State).gangs = _; split <;> simp
  have h3 : s3.gangs = s.gangs := by
    rw [← h2]; show (if _ then _ else _ : State).gangs = _; split <;> simp
  have h4 : s4.gangs = s.gangs := h3
  have h5 : s5.gangs[g]? = (s4.gangs[g]?).map _ := (State.gangs_updGang ..).trans (if_pos rfl)
  rw [h4, h] at h5
  exact ⟨_, h5, rfl⟩

/-! ### Execution in a tail, irrevocable execution -/

/-- An instruction in a tail (R204, R209) that has room runs its body on the machine with the tail open. -/
theorem State.speculate_ok {s : State} {g : Nat} {G : Gang} {pc : DWord} {pair : Bool} {n : Need} {f : State → State}
    (h : s.room g G n = .ok) :
    s.speculate g G pc pair n f = (f (s.updGang g fun G => G.openTail pc)).account g pair := by
  unfold State.speculate; rw [h]

/-- An irrevocable operation of a calm gang whose body is ready (R212). -/
theorem State.irrevocable_calm {s t : State} {g : Nat} {G : Gang} {f : State → Option State} (h : Calm G) (hf : f s = some t) :
    s.irrevocable g G f = (t.account g false).updGang g fun G => { G.endCrawl with irr := t.stamp + 1 } := by
  obtain ⟨ht, hp, hc⟩ := h
  unfold State.irrevocable
  have : ((!G.pend.isEmpty) || (G.crawl && decide (256 ≤ G.crawlCnt))) = false := by
    rw [hp]
    cases hcr : G.crawl
    · simp
    · simpa using hc hcr
  rw [ht]
  simp [this, hf]

/-- A calm gang whose body is not ready waits. -/
theorem State.irrevocable_wait {s : State} {g : Nat} {G : Gang} {f : State → Option State} (h : Calm G) (hf : f s = none) :
    s.irrevocable g G f = s.stall g := by
  obtain ⟨ht, hp, hc⟩ := h
  unfold State.irrevocable
  have : ((!G.pend.isEmpty) || (G.crawl && decide (256 ≤ G.crawlCnt))) = false := by
    rw [hp]
    cases hcr : G.crawl
    · simp
    · simpa using hc hcr
  rw [ht]
  simp [this, hf]

/-- An open tail holds an irrevocable operation back, and closes (R209, R212). -/
theorem State.irrevocable_tail {s : State} {g : Nat} {G : Gang} {f : State → Option State} {t : Tail} (h : G.tail = some t) :
    s.irrevocable g G f = if t.closed then s.stall g else (s.closeTail g 0x17).stall g := by
  unfold State.irrevocable; rw [h]

/-- An instruction of a gang whose checks pass and whose registers are ready runs its body. -/
theorem State.onGang_ok {s : State} {g : Nat} {G : Gang} {gr : Group} {i : Issuer} {chk : WordCheck} {us : List Use}
    {body : Nat → Gang → Group → Issuer → State} (h : s.issue = .gang g G gr i) (hc : chk i = none)
    (hl : G.interlocked us = false) : s.onGang chk us body = .next (body g G gr i) := by
  unfold State.onGang; simp [h, hc, hl]

/-- A word that fails a check traps (R68, R69). -/
theorem State.onGang_trap {s : State} {g : Nat} {G : Gang} {gr : Group} {i : Issuer} {chk : WordCheck} {us : List Use}
    {body : Nat → Gang → Group → Issuer → State} {c : Cause} (h : s.issue = .gang g G gr i) (hc : chk i = some c) :
    s.onGang chk us body = .next (s.wordTrap g G i c) := by
  unfold State.onGang; simp [h, hc]

theorem usesCheck_none {us : List Use} {i : Issuer} (h : ∀ u ∈ us, u.bad i = false) : usesCheck us i = none := by
  unfold usesCheck
  simp only [ite_eq_right_iff, reduceCtorEq, imp_false, Bool.not_eq_true, List.any_eq_false]
  simpa using h

/-- A register-only instruction whose checks pass commits its result. -/
theorem State.plain_ok {s : State} {g : Nat} {G : Gang} {gr : Group} {i : Issuer} {bank : Bool} {chk : WordCheck}
    {us : List Use} {f : Issuer → Res} (h : s.issue = .gang g G gr i) (hc : chk i = none) (hu : Operable us i G) :
    s.plain bank chk us f = .next (s.finish g G i false (f i)) := by
  unfold State.plain
  have : (chk.then_ (usesCheck us)) i = none := by unfold WordCheck.then_; rw [hc]; exact usesCheck_none hu.1
  simp [h, this, hu.2]

/-! ### Register writes -/

/-- The word that a list of writes leaves at a key, if it writes it. -/
def lastAt {α : Type} (l : List (Nat × α)) (k : Nat) : Option α := (l.reverse.find? fun e => e.1 == k).map (·.2)

theorem Gang.putV_getV (G : Gang) (e : Nat × Word) (n l : Nat) (hl : l < 32) :
    (G.putV e).getV n l = if e.1 = 32 * n + l then e.2 else G.getV n l := by
  unfold Gang.putV Gang.getV
  by_cases hs : G.super = true <;> simp only [hs, Bool.true_and, Bool.false_and, decide_eq_true_eq] <;> grind [stGet_stSet]

theorem Gang.putS_getS (G : Gang) (e : Nat × DWord) (n : Nat) :
    (G.putS e).getS n = if e.1 = n then e.2 else G.getS n := by
  unfold Gang.putS Gang.getS
  by_cases hs : G.super = true <;> simp only [hs, Bool.true_and, Bool.false_and, decide_eq_true_eq] <;> grind [stGet_stSet]

theorem lastAt_nil {α : Type} (k : Nat) : lastAt ([] : List (Nat × α)) k = none := rfl

theorem lastAt_cons {α : Type} (e : Nat × α) (l : List (Nat × α)) (k : Nat) :
    lastAt (e :: l) k = (lastAt l k).or (if e.1 = k then some e.2 else none) := by
  unfold lastAt
  simp only [List.reverse_cons, List.find?_append]
  cases h : List.find? (fun e => e.1 == k) l.reverse <;> grind

/-- The fields of a gang that vector writes leave. -/
theorem Gang.foldl_putV (l : List (Nat × Word)) (G : Gang) :
    l.foldl Gang.putV G = { G with v := (l.foldl Gang.putV G).v, sv := (l.foldl Gang.putV G).sv }
      ∧ (∀ n k, k < 32 → (l.foldl Gang.putV G).getV n k = (lastAt l (32 * n + k)).getD (G.getV n k))
      ∧ (G.super = false → (l.foldl Gang.putV G).sv = G.sv)
      ∧ (G.super = true → ∀ k, 19968 ≤ k → stGet (l.foldl Gang.putV G).v k = stGet G.v k) := by
  induction l generalizing G with
  | nil => exact ⟨rfl, fun _ _ _ => rfl, fun _ => rfl, fun _ _ _ => rfl⟩
  | cons e r ih =>
    obtain ⟨h1, h2, h3, h4⟩ := ih (G.putV e)
    have hp : G.putV e = { G with v := (G.putV e).v, sv := (G.putV e).sv } := by
      unfold Gang.putV; split <;> rfl
    have hs : (G.putV e).super = G.super := by rw [hp]
    refine ⟨?_, fun n k hk => ?_, fun hu => ?_, fun hu k hk => ?_⟩
    · simp only [List.foldl_cons]; rw [h1]; rw [hp]
    · simp only [List.foldl_cons, h2 n k hk, lastAt_cons, Gang.putV_getV G e n k hk]
      cases lastAt r (32 * n + k) <;> simp
      split <;> simp
    · simp only [List.foldl_cons]; rw [h3 (hs.trans hu)]; simp [Gang.putV, hu]
    · simp only [List.foldl_cons]; rw [h4 (hs.trans hu) k hk]
      simp only [Gang.putV, hu, Bool.true_and, decide_eq_true_eq]
      split
      · rfl
      · rw [stGet_stSet_ne]; omega

/-- The fields of a gang that scalar writes leave. -/
theorem Gang.foldl_putS (l : List (Nat × DWord)) (G : Gang) :
    l.foldl Gang.putS G = { G with s := (l.foldl Gang.putS G).s, ss := (l.foldl Gang.putS G).ss }
      ∧ (∀ n, (l.foldl Gang.putS G).getS n = (lastAt l n).getD (G.getS n))
      ∧ (G.super = false → (l.foldl Gang.putS G).ss = G.ss)
      ∧ (G.super = true → ∀ k, 56 ≤ k → stGet (l.foldl Gang.putS G).s k = stGet G.s k) := by
  induction l generalizing G with
  | nil => exact ⟨rfl, fun _ => rfl, fun _ => rfl, fun _ _ _ => rfl⟩
  | cons e r ih =>
    obtain ⟨h1, h2, h3, h4⟩ := ih (G.putS e)
    have hp : G.putS e = { G with s := (G.putS e).s, ss := (G.putS e).ss } := by
      unfold Gang.putS; split <;> rfl
    have hs : (G.putS e).super = G.super := by rw [hp]
    refine ⟨?_, fun n => ?_, fun hu => ?_, fun hu k hk => ?_⟩
    · simp only [List.foldl_cons]; rw [h1]; rw [hp]
    · simp only [List.foldl_cons, h2 n, lastAt_cons, Gang.putS_getS G e n]
      cases lastAt r n <;> simp
      split <;> simp
    · simp only [List.foldl_cons]; rw [h3 (hs.trans hu)]; simp [Gang.putS, hu]
    · simp only [List.foldl_cons]; rw [h4 (hs.trans hu) k hk]
      simp only [Gang.putS, hu, Bool.true_and, decide_eq_true_eq]
      split
      · rfl
      · rw [stGet_stSet_ne]; omega

theorem Gang.logReg_eq (G : Gang) (r : RegId) : G.logReg r = { G with tail := (G.logReg r).tail } := by
  unfold Gang.logReg
  split
  · split <;> rfl
  · rfl

theorem Gang.foldl_logReg (l : List RegId) (G : Gang) :
    l.foldl Gang.logReg G = { G with tail := (l.foldl Gang.logReg G).tail } := by
  induction l generalizing G with
  | nil => rfl
  | cons e r ih => simp only [List.foldl_cons]; rw [ih]; rw [G.logReg_eq e]

/-- What committing a result does to a gang (R60, R87): the written registers, the flags joined, an undo log. -/
theorem Gang.commitRes_spec (G : Gang) (r : Res) :
    G.commitRes r = { G with v := (G.commitRes r).v, sv := (G.commitRes r).sv, s := (G.commitRes r).s, ss := (G.commitRes r).ss, flags := G.flags ||| r.flags, tail := (G.commitRes r).tail }
      ∧ G.Regs (G.commitRes r) (fun n l => lastAt r.vw (32 * n + l)) (fun n => lastAt r.sw n) := by
  set L := r.regs.foldl Gang.logReg G with hL
  have hLe : L = { G with tail := L.tail } := Gang.foldl_logReg ..
  obtain ⟨a1, a2, a3, a4⟩ := Gang.foldl_putV r.vw L
  set V := r.vw.foldl Gang.putV L with hV
  obtain ⟨b1, b2, b3, b4⟩ := Gang.foldl_putS r.sw V
  set S := r.sw.foldl Gang.putS V with hS
  have hc : G.commitRes r = { S with flags := S.flags ||| r.flags } := rfl
  have hsup : V.super = G.super := by rw [a1, hLe]
  have hgv : ∀ n l, L.getV n l = G.getV n l := fun n l => by rw [hLe]; rfl
  have hgs : ∀ n, V.getS n = G.getS n := fun n => by rw [a1, hLe]; rfl
  have hLv : L.v = G.v := by rw [hLe]
  have hLsv : L.sv = G.sv := by rw [hLe]
  have hVs : V.s = G.s := by rw [a1, hLe]
  have hVss : V.ss = G.ss := by rw [a1, hLe]
  refine ⟨?_, ⟨fun n l _ hl => ?_, fun n _ => ?_, fun k hs hk => ?_, fun k hs hk => ?_, fun hs => ?_, fun hs => ?_⟩⟩
  · rw [hc, b1, a1, hLe]
  · rw [← hgv n l, ← a2 n l hl, hc, b1]; rfl
  · rw [← hgs n, ← b2 n, hc]; rfl
  · have := a4 (by rw [hLe]; exact hs) k hk
    rw [hc, b1]; exact this.trans (by rw [hLv])
  · rw [hc]; exact (b4 (by rw [hsup]; exact hs) k hk).trans (by rw [hVs])
  · rw [hc, b1]; exact (a3 (by rw [hLe]; exact hs)).trans hLsv
  · rw [hc]; exact (b3 (by rw [hsup]; exact hs)).trans hVss

/-! ### Completion -/

theorem Gang.openTail_eq (G : Gang) (pc : DWord) : G.openTail pc = { G with tail := (G.openTail pc).tail } := by
  unfold Gang.openTail; split <;> rfl

/-- The slices after a move of a fragment. -/
theorem Gang.advance_slices (G : Gang) (m : BitVec 8) (k : Nat) :
    (G.advance m).slices[k]? = (G.slices[k]?).map fun sl =>
      if m.getLsbD k then { sl with pc := next8 sl.pc, replay := none } else sl := by
  unfold Gang.advance next8
  simp only [List.getElem?_mapIdx]

theorem Gang.jump_slices (G : Gang) (m : BitVec 8) (a : DWord) (k : Nat) :
    (G.jump m a).slices[k]? = (G.slices[k]?).map fun sl =>
      if m.getLsbD k then { sl with pc := a, replay := none } else sl := by
  unfold Gang.jump
  simp only [List.getElem?_mapIdx]

/-- A result committed and the fragment moved on: what `Completes` asks of the gang, before the accounts. -/
theorem Gang.commit_advance (G : Gang) (r : Res) (m : BitVec 8) (pc : DWord) :
    let G' := ((G.openTail pc).commitRes r).advance m
    G.Keeps G' ∧ G.Regs G' (fun n l => lastAt r.vw (32 * n + l)) (fun n => lastAt r.sw n)
      ∧ G'.flags = G.flags ||| r.flags ∧ G.Moves G' m next8 ∧ G.SameNest G' := by
  intro G'
  obtain ⟨h1, h2⟩ := (G.openTail pc).commitRes_spec r
  have ho := G.openTail_eq pc
  have ha : G' = { (G.openTail pc).commitRes r with slices := G'.slices } := rfl
  have hgv : ∀ n l, (G.openTail pc).getV n l = G.getV n l := fun n l => by rw [ho]; rfl
  have hgs : ∀ n, (G.openTail pc).getS n = G.getS n := fun n => by rw [ho]; rfl
  refine ⟨?_, ⟨fun n l hn hl => ?_, fun n hn => ?_, fun k hs hk => ?_, fun k hs hk => ?_, fun hs => ?_, fun hs => ?_⟩, ?_, fun k => ?_, fun l => ?_⟩
  · unfold Gang.Keeps; rw [ha, h1, ho]
  · rw [← hgv]; exact h2.vector n l hn hl
  · rw [← hgs]; exact h2.scalar n hn
  · exact (h2.userV k (by rw [ho]; exact hs) hk).trans (by rw [ho])
  · exact (h2.userS k (by rw [ho]; exact hs) hk).trans (by rw [ho])
  · exact (h2.superV (by rw [ho]; exact hs)).trans (by rw [ho])
  · exact (h2.superS (by rw [ho]; exact hs)).trans (by rw [ho])
  · show ((G.openTail pc).commitRes r).flags = _; rw [h1, ho]
  · show (((G.openTail pc).commitRes r).advance m).slices[k]? = _
    rw [Gang.advance_slices, h1, ho]
  · show stGet ((G.openTail pc).commitRes r).nest l = _; rw [h1, ho]

/-- The accounts of an issue do not touch what `Completes` says of the gang. -/
theorem Gang.Accounted.completes {G G1 G2 : Gang} {m : BitVec 8} {fv : Nat → Nat → Option Word} {fs : Nat → Option DWord}
    {fl : BitVec 5} {go : DWord → DWord} (ha : G1.Accounted G2)
    (h : G.Keeps G1 ∧ G.Regs G1 fv fs ∧ G1.flags = fl ∧ G.Moves G1 m go ∧ G.SameNest G1) :
    G.Keeps G2 ∧ G.Regs G2 fv fs ∧ G2.flags = fl ∧ G.Moves G2 m go ∧ G.SameNest G2 := by
  obtain ⟨h1, h2, h3, h4, h5⟩ := h
  unfold Gang.Accounted at ha
  have hv : G2.v = G1.v := by rw [ha]
  have hs : G2.s = G1.s := by rw [ha]
  have hsv : G2.sv = G1.sv := by rw [ha]
  have hss : G2.ss = G1.ss := by rw [ha]
  have hsup : G2.super = G1.super := by rw [ha]
  refine ⟨?_, ⟨fun n l hn hl => ?_, fun n hn => ?_, fun k hu hk => ?_, fun k hu hk => ?_, fun hu => ?_, fun hu => ?_⟩, ?_, fun k => ?_, fun l => ?_⟩
  · unfold Gang.Keeps at h1 ⊢; rw [ha, h1]
  · rw [← h2.vector n l hn hl]; unfold Gang.getV; rw [hv, hsv, hsup]
  · rw [← h2.scalar n hn]; unfold Gang.getS; rw [hs, hss, hsup]
  · rw [hv]; exact h2.userV k hu hk
  · rw [hs]; exact h2.userS k hu hk
  · rw [hsv]; exact h2.superV hu
  · rw [hss]; exact h2.superS hu
  · rw [← h3, ha]
  · rw [← h4 k, ha]
  · rw [← h5 l, ha]

/-- An instruction in a tail with room, whose body changes only its gang, completes. -/
theorem State.speculate_completes {s : State} {g : Nat} {G : Gang} {pc : DWord} {pair : Bool} {n : Need} {F : Gang → Gang}
    {m : BitVec 8} {fv : Nat → Nat → Option Word} {fs : Nat → Option DWord} {fl : BitVec 5} {go : DWord → DWord}
    (hG : s.gangs[g]? = some G) (hr : s.room g G n = .ok)
    (h : let G' := F (G.openTail pc); G.Keeps G' ∧ G.Regs G' fv fs ∧ G'.flags = G.flags ||| fl ∧ G.Moves G' m go ∧ G.SameNest G') :
    Completes s (s.speculate g G pc pair n fun s => s.updGang g F) g G m fv fs fl go := by
  rw [State.speculate_ok hr]
  set u := (s.updGang g fun G => G.openTail pc).updGang g F with hu
  have hg : u.gangs[g]? = some (F (G.openTail pc)) := by
    rw [hu, State.gangs_updGang, if_pos rfl, State.gangs_updGang, if_pos rfl, hG]; rfl
  obtain ⟨G2, h2, ha⟩ := State.account_gang hg pair
  exact ⟨((OnlyGang.updGang ..).trans (.updGang ..)).trans (State.account_frame ..), G2, h2, ha.completes h⟩

/-- A register-only instruction of a gang with room in its tail completes with its result. -/
theorem State.finish_completes {s : State} {g : Nat} {G : Gang} {i : Issuer} {pair : Bool} {r : Res}
    (hG : s.gangs[g]? = some G) (hr : s.room g G ⟨r.regs, [], []⟩ = .ok) :
    Completes s (s.finish g G i pair r) g G i.frag (fun n l => lastAt r.vw (32 * n + l)) (fun n => lastAt r.sw n) r.flags next8 :=
  State.speculate_completes hG hr (G.commit_advance r i.frag i.pc)

/-! ### Room in a tail -/

theorem poolFits_mono {cap mine n k : Nat} {others : List Nat} (h : poolFits cap mine n others = true) (hk : k ≤ n) :
    poolFits cap mine k others = true := by
  unfold poolFits at *
  simp only [Bool.or_eq_true, Bool.and_eq_true, decide_eq_true_eq] at *
  omega

/-- An instruction that logs fewer registers has room where one that logs more has (R209). -/
theorem State.room_mono {s : State} {g : Nat} {G : Gang} {rs ws : List RegId} (h : s.room g G ⟨ws, [], []⟩ = .ok)
    (hsub : ∀ r ∈ rs, r ∈ ws) (hnd : rs.Nodup) : s.room g G ⟨rs, [], []⟩ = .ok := by
  have hlen : ∀ log : List RegId, (rs.filter fun r => !log.contains r).length ≤ (ws.filter fun r => !log.contains r).length := by
    intro log
    refine (List.subperm_of_subset (hnd.filter _) fun r hr => ?_).length_le
    rw [List.mem_filter] at hr ⊢
    exact ⟨hsub r hr.1, hr.2⟩
  unfold State.room at *
  by_cases hcr : G.crawl = true
  · rw [if_pos hcr] at h ⊢; exact h
  · rw [if_neg hcr] at h ⊢
    extract_lets t stuck log lines reads newRegs newLines newReads m full at h
    extract_lets newRegs' newLines' newReads'
    have hle : newRegs' ≤ newRegs := hlen log
    by_cases h1 : stuck = true
    · rw [if_pos h1] at h; cases h
    · rw [if_neg h1] at h
      rw [if_neg h1]
      by_cases h2 : poolFits 128 G.undoUsed newRegs (m.map Gang.undoUsed) = true
      · have h3 : poolFits 128 G.undoUsed newRegs' (m.map Gang.undoUsed) = true := poolFits_mono h2 hle
        rw [if_neg (by simp [h2])] at h
        rw [if_neg (by simp [h3])]
        exact h
      · rw [if_pos (by simpa using h2)] at h
        exfalso
        revert h
        show (if t.isSome then Room.close 0x14 else Room.busy) = Room.ok → False
        split <;> simp

/-! ### The lanes of a result -/

theorem mem_maskLanes (m : BitVec 32) (l : Nat) : l ∈ maskLanes m ↔ m.getLsbD l = true := by
  unfold maskLanes
  simp only [List.mem_filter, List.mem_range, and_iff_right_iff_imp]
  intro h
  exact BitVec.lt_of_getLsbD h

/-- The word that a list of writes with one value per key leaves. -/
theorem lastAt_map {α : Type} (l : List Nat) (key : Nat → Nat) (f : Nat → α) (k : Nat)
    (hinj : ∀ a ∈ l, ∀ b ∈ l, key a = key b → a = b) :
    lastAt (l.map fun a => (key a, f a)) k = ((l.find? fun a => key a == k)).map f := by
  induction l with
  | nil => rfl
  | cons a r ih =>
    rw [List.map_cons, lastAt_cons, ih fun x hx y hy => hinj x (by simp [hx]) y (by simp [hy]), List.find?_cons]
    by_cases h : key a = k
    · simp only [h, beq_self_eq_true, if_true]
      cases hf : List.find? (fun a => key a == k) r with
      | none => simp
      | some b =>
        have hb := List.mem_of_find?_eq_some hf
        have hk := List.find?_some hf
        have : a = b := hinj a (by simp) b (by simp [hb]) (by rw [h]; exact (by simpa using hk : key b = k).symm)
        simp [this]
    · have hb : (key a == k) = false := by simpa using h
      simp [h, hb]

/-- A vector result of one register: the active lanes of it, and nothing else. -/
theorem lastAt_vec (i : Issuer) (d : Nat) (f : Nat → Word) (n l : Nat) (hl : l < 32) :
    lastAt (i.vec d f) (32 * n + l) = if n = d ∧ i.active.getLsbD l = true then some (f l) else none := by
  unfold Issuer.vec
  rw [lastAt_map i.acts (fun a => 32 * d + a) f _ (fun a _ b _ h => by simpa using h)]
  by_cases h : n = d ∧ i.active.getLsbD l = true
  · rw [if_pos h]
    have hm : l ∈ i.acts := (mem_maskLanes ..).2 h.2
    have : (i.acts.find? fun a => 32 * d + a == 32 * n + l) = some l := by
      rw [List.find?_eq_some_iff_append]
      obtain ⟨as, bs, hab⟩ := List.append_of_mem hm
      refine ⟨by simp [h.1], as, bs, hab, fun a ha => ?_⟩
      have hnd : i.acts.Nodup := by unfold Issuer.acts maskLanes; exact (List.nodup_range).filter _
      rw [hab] at hnd
      have hne : a ≠ l := fun he => by
        subst he
        exact (List.nodup_append.1 hnd).2.2 a ha a (by simp) rfl
      simp only [h.1, Bool.not_eq_true', beq_eq_false_iff_ne, ne_eq]
      omega
    rw [this]; rfl
  · rw [if_neg h, List.find?_eq_none.2]
    · rfl
    · intro a ha
      have ha' := (mem_maskLanes ..).1 ha
      have : a < 32 := BitVec.lt_of_getLsbD ha'
      simp only [beq_iff_eq]
      intro he
      apply h
      have hd : n = d := by omega
      have hal : a = l := by omega
      exact ⟨hd, hal ▸ ha'⟩

end Sys2Proof.Machine
end

