-- ==== Sys2Proof/Laws/Traps.lean ====
section
/-! SUPPORT. What taking a trap does, in its three cases (R155, R158, R160). -/
namespace Sys2Proof.Machine

/-- The divergence state at trap entry is the one that R155 describes. -/
theorem Gang.enterTrap_entered (G : Gang) (t : TrapInfo) (vec : DWord) :
    G.Entered (G.enterTrap t vec) t.causeWord t.addr t.maskWord vec t.frag := by
  have hf : ∀ l : List Slice, (l.map fun x => { x with epc := x.pc }).findIdx? (·.live) = l.findIdx? (·.live) := by
    intro l
    induction l with
    | nil => rfl
    | cons a r ih => simp [List.findIdx?_cons, ih]
  refine ⟨?_, ⟨rfl, ?_⟩, rfl, rfl, rfl, rfl, rfl, rfl, ⟨rfl, rfl, rfl, rfl, rfl, rfl⟩⟩
  · intro k sl h
    simp only [Gang.enterTrap, List.getElem?_map, h, Option.map_some, hf]
    by_cases hl : sl.live <;> simp [hl]
  · simp [Gang.enterTrap, Function.comp_def]

/-- In user mode, with a TRAPVEC that runs, a trap enters the handler and touches nothing but the gang and what the
fetch's translation leaves (R155). -/
theorem State.takeTrap_user {s : State} {g : Nat} {G : Gang} {gr : Group} (t : TrapInfo) (hg : s.gangs[g]? = some G)
    (hr : s.groups[G.grp]? = some gr) (hu : G.super = false) (hv : VectorRuns s G gr) :
    s.takeTrap g t = ((s.vecFault G.part gr.ctx G.grp (s.ctx gr.ctx).trapvec.toNat).2).updGang g fun G =>
      G.enterTrap t (s.ctx gr.ctx).trapvec := by
  unfold State.takeTrap
  simp only [hg, hr, hu, Bool.false_eq_true, if_false]
  unfold VectorRuns at hv
  split
  · next h => rw [h]
  · next h => rw [h] at hv; cases hv

/-- In supervisor mode a trap is a double trap (R158). -/
theorem State.takeTrap_super {s : State} {g : Nat} {G : Gang} {gr : Group} (t : TrapInfo) (hg : s.gangs[g]? = some G)
    (hr : s.groups[G.grp]? = some gr) (hu : G.super = true) : s.takeTrap g t = s.doubleTrap G gr t := by
  unfold State.takeTrap
  simp [hg, hr, hu]

/-- A TRAPVEC that cannot be fetched makes it a double trap of the fetch's cause (R160). -/
theorem State.takeTrap_vector {s : State} {g : Nat} {G : Gang} {gr : Group} {c : Cause} (t : TrapInfo)
    (hg : s.gangs[g]? = some G) (hr : s.groups[G.grp]? = some gr) (hu : G.super = false)
    (hv : (s.vecFault G.part gr.ctx G.grp (s.ctx gr.ctx).trapvec.toNat).1 = some c) :
    s.takeTrap g t = (s.vecFault G.part gr.ctx G.grp (s.ctx gr.ctx).trapvec.toNat).2.doubleTrap G gr
      (TrapInfo.plain c t.lanes t.frag (s.ctx gr.ctx).trapvec) := by
  unfold State.takeTrap
  simp only [hg, hr, hu, Bool.false_eq_true, if_false]
  split
  · next h => rw [h] at hv; cases hv
  · next h => rw [h] at hv ⊢; cases hv; rfl

end Sys2Proof.Machine
end

