-- ==== Sys2Proof/Tests/Slice0.lean ====
section
/-! SUPPORT. Tests of the model. Each word is written out from the encodings of the spec, each expected value is one of
the spec's worked values or was computed by hand from its rule. The witnesses show, for every statement that has
hypotheses, a state and operands that meet them. -/
namespace Sys2Proof.Tests
set_option Elab.async false
set_option synthInstance.maxSize 1000
set_option synthInstance.maxHeartbeats 200000
open Sys2Proof Sys2Proof.Machine

/-! ### Small states -/

/-- Entries of the page table of `withFetchWord` at virtual addresses 0x10000 on: a writable page at frame 0x30000, a mapped one at
0x40000 with its headers at 0x50000, an entry that awaits its first touch, and two more writable pages. -/
def tables : Memory := [(0x18010, leBytes 8 0x30005), (0x18020, leBytes 8 0x40085 ++ leBytes 8 0x50000), (0x18030, leBytes 8 0x200),
  (0x18040, leBytes 8 0x60005), (0x18050, leBytes 8 0x7000D)].foldl (fun m e => memPut m e.1 e.2) (State.reset.withFetchWord 64 0).mem

/-- A gang asked to issue at address 0, in user mode, with nothing in flight. -/
def seat : State := { State.reset.withFetchWord 64 0 with cur := .gang 0, mem := tables }

/-- A state with its gang changed, with scalars set, with bytes of memory set. -/
def State.gang0 (s : State) (f : Gang → Gang) : State := s.updGang 0 f
def State.scal (s : State) (n x : Nat) : State := s.updGang 0 fun G => { G with s := stSet G.s n (BitVec.ofNat 64 x) }
def State.vec (s : State) (n l x : Nat) : State := s.updGang 0 fun G => { G with v := stSet G.v (32 * n + l) (BitVec.ofNat 32 x) }
def State.put (s : State) (a n x : Nat) : State := { s with mem := memPut s.mem a (leBytes n x) }

/-- In `s` gang 0 is asked to issue, and what is asked of it, of its group and of its view holds. -/
def Meets (s : State) (P : Gang → Group → Issuer → Prop) : Prop := ∃ G gr iss, s.issue = .gang 0 G gr iss ∧ P G gr iss

theorem meets (s : State) (P : Gang → Group → Issuer → Prop) [∀ G gr i, Decidable (P G gr i)]
    (h : (match s.issue with | .gang 0 G gr i => decide (P G gr i) | _ => false) = true) : Meets s P := by
  unfold Meets
  split at h
  · rename_i G gr i e; exact ⟨G, gr, i, e, by simpa using h⟩
  · cases h

theorem Meets.imp {s : State} {P Q : Gang → Group → Issuer → Prop} (h : Meets s P) (f : ∀ G gr i, P G gr i → Q G gr i) : Meets s Q := by
  obtain ⟨G, gr, i, e, p⟩ := h
  exact ⟨G, gr, i, e, f G gr i p⟩

/-- An outcome that is a next state. -/
theorem goes (o : Host.Outcome State Fault Refusal) (h : (match o with | .next _ => true | _ => false) = true) : ∃ t, o = .next t := by
  cases o <;> simp_all

/-- The gang, the group and the context of a small state. -/
def theGang (s : State) : Gang := (s.gangs[0]?).getD (newGang 0 0 0 0 0 0)
def theGroup (s : State) : Option Group := s.groups[0]?

/-- The arithmetic layout with every X field 0 but C, RND, SAT and SUB. -/
def x3 (d a b : Operand) (c : Operand := .zero) (rnd : Rnd := .mode) (sat : Bool := false) (sub : BitVec 3 := 0) : Arith :=
  ⟨d, a, b, c, rnd, sat, 0, 0, 0, sub⟩

/-- Two scalars s1 and s2, and two vector elements v2 and v4 of lane 0. -/
def ss (a b : Nat) : State := State.scal (State.scal seat 1 a) 2 b
def vv (a b : Nat) : State := State.vec (State.vec seat 2 0 a) 4 0 b

/-- The worked DB4 case of R91: 5.0, 1.0, -0.75, 0.25 in lanes 0 to 3. -/
def db4 : State :=
  (State.vec (State.vec (State.vec (State.vec seat 2 0 0x40A00000) 2 1 0x3F800000) 2 2 0xBF400000) 2 3 0x3E800000).updGroup 0 fun g =>
    { g with slots := (6 + 2 ^ 8 * 2) :: g.slots.drop 1 }
/-- A gang in crawl mode (R215), in which a load arrives and a store performs at once, and one in supervisor mode. -/
def crawl (s : State) : State := State.gang0 s fun G => { G with crawl := true }
def super (s : State) : State := State.gang0 s fun G => { G with super := true }
/-- A gang of two fragments: slice 0, and slices 1 to 7. -/
def split (s : State) : State := State.gang0 s fun G => { G with slices := G.slices.mapIdx fun k sl => { sl with frag := if k = 0 then 0 else 1 } }
/-- Scalars s1 to s4, and a group with scratchpad bytes. -/
def s4 (a b c d : Nat) : State :=
  let s := State.scal (State.scal (State.scal (State.scal seat 1 a) 2 b) 3 c) 4 d
  s.updGroup 0 fun g => { g with scratch := 65536 }
/-- Two gangs of one group, paired at a distance of one (R45): the gang that issues and its partner. -/
def pairOfGangs (st : Stand) : State :=
  { seat with gangs := seat.gangs ++ [{ newGang 0 1 4 0 1 1 with stand := st }], groups := seat.groups.map fun g => { g with gangs := 2 },
              nodes := seat.nodes.map fun n => { n with lr := { n.lr with gangs := 2, pairing := 1 } } }
/-- A bank core at the second word of a kernel of three words (LD and ST through s2 too), its segment the lines at 0x1000 of its slice. -/
def kern : Kernel := { seg := 0x1000, segLen := 256, segVa := 0x10000, v := [(32, 7)], s := [(2, 0x1000), (3, 256)], nest := [], pc := 0x10008, regs := 8, late := [], ahead := [] }
def bankCmd : BankCmd :=
  ⟨0, 0, 0, 0, 0, 0, .kernel [0, 0, 0] 0x10000 8 0 (List.replicate 32 0), [], [], [], [], [], true, true⟩
def bankItem : BankItem := ⟨0, 0, .running, [⟨0x10000, 256, 0, 0x1000⟩], some kern, 0, [], 0, [], []⟩
def banking : State := { seat with cmds := [bankCmd], items := [bankItem], agenda := [.bankSlot 0], cur := .bank 0 }
/-- A page of a non-coherent window (R178): window 0 covers 0x40000 to 0x4FFFF. -/
def windowed (s : State) : State := s.updCtx 0 fun c => { c with ncwin := [(0, 0x40001), (1, 0x50000)] }
/-- One active lane, s1 at `n`. -/
def solo (n : Nat) : State := State.gang0 (ss n 0) fun G => { G with nest := (List.range 31).map fun l => (l + 1, 1) }
def vload : MemArgs := ⟨.v 6, .sp .zero, .s 1, 3, 0, 8⟩
/-- The tile at 0x20000 with the identity in FP32. -/
def tiled : State := State.put (solo 0x20000) 0x50000 32 (Hdr.identity 1 0).toNat

/-! ### Words and the instructions they stand for

Each word is written out from the layouts of R49 to R54 and the entry of its instruction. -/

/-- A word decodes to an instruction, which is well formed, and the encoder gives the word back. -/
def reads (e : DWord × Instr) : Bool := decode e.1 == .ok e.2 && e.2.wf && encode e.2 == e.1

theorem test_words_integer_a : ([
    (0x0000000000000000, .nop),
    (0x0080201006001000, .iadd ⟨.v 1, .v 2, .v 3, .zero, .mode, true, 0, 0, 0, 0⟩),
    (0x0150341580000000, .isub ⟨.s 1, .s 2, .sp .zero, .zero, .mode, false, 0, 0, 0, 0⟩),
    (0x01CFF60D7E000000, .imul ⟨.v 639, .sp .lane, .s 63, .zero, .mode, false, 0, 0, 0, 0⟩),
    (0x0200201006000000, .imulh ⟨.v 1, .v 2, .v 3, .zero, .mode, false, 0, 0, 0, 0⟩),
    (0x02D1361D08000000, .imulhu ⟨.s 9, .sp .gang, .s 4, .zero, .mode, false, 0, 0, 0, 0⟩),
    (0x030080280C039000, .imad ⟨.v 4, .v 5, .v 6, .v 7, .mode, true, 0, 0, 0, 0⟩),
    (0x0380001500000000, .imin ⟨.v 0, .v 2, .s 0, .zero, .mode, false, 0, 0, 0, 0⟩),
    (0x0400201502000000, .imax ⟨.v 1, .v 2, .s 1, .zero, .mode, false, 0, 0, 0, 0⟩),
    (0x0480401504000000, .umin ⟨.v 2, .v 2, .s 2, .zero, .mode, false, 0, 0, 0, 0⟩),
    (0x0500601506000000, .umax ⟨.v 3, .v 2, .s 3, .zero, .mode, false, 0, 0, 0, 0⟩),
    (0x0581004800001000, .iabs ⟨.v 8, .v 9, .zero, .zero, .mode, true, 0, 0, 0, 0⟩),
    (0x065154A53C000000, .and ⟨.s 10, .s 20, .s 30, .zero, .mode, false, 0, 0, 0, 0⟩),
    (0x06D174AD3E000000, .or ⟨.s 11, .s 21, .s 31, .zero, .mode, false, 0, 0, 0, 0⟩),
    (0x075194B540000000, .xor ⟨.s 12, .s 22, .s 32, .zero, .mode, false, 0, 0, 0, 0⟩),
    (0x07D1B4BD42000000, .andn ⟨.s 13, .s 23, .s 33, .zero, .mode, false, 0, 0, 0, 0⟩),
    (0x0851D4C544000000, .shl ⟨.s 14, .s 24, .s 34, .zero, .mode, false, 0, 0, 0, 0⟩),
    (0x08D1F4CD46000000, .shr ⟨.s 15, .s 25, .s 35, .zero, .mode, false, 0, 0, 0, 0⟩),
    (0x095214D548000000, .sra ⟨.s 16, .s 26, .s 36, .zero, .mode, false, 0, 0, 0, 0⟩),
    (0x09D234DD4A000000, .rol ⟨.s 17, .s 27, .s 37, .zero, .mode, false, 0, 0, 0, 0⟩),
    (0x0A0C864000000000, .popc ⟨.v 100, .v 200, .zero, .zero, .mode, false, 0, 0, 0, 0⟩),
    (0x0A8CA64800000000, .clz ⟨.v 101, .v 201, .zero, .zero, .mode, false, 0, 0, 0, 0⟩),
    (0x0B0CC65000000000, .ctz ⟨.v 102, .v 202, .zero, .zero, .mode, false, 0, 0, 0, 0⟩),
    (0x0B8CE65800000000, .brev ⟨.v 103, .v 203, .zero, .zero, .mode, false, 0, 0, 0, 0⟩),
    (0x0C00800812000001, .bfx ⟨.v 4, .v 1, .v 9, .zero, .mode, false, 0, 0, 0, 1⟩)] : List (DWord × Instr)).all reads = true := by decide +kernel

theorem test_words_integer_b : ([
    (0x0C80800812010000, .bfi ⟨.v 4, .v 1, .v 9, .v 2, .mode, false, 0, 0, 0, 0⟩),
    (0x0D00201006020000, .sel ⟨.v 1, .v 2, .v 3, .v 4, .mode, false, 0, 0, 0, 0⟩),
    (0x0D80201006000007, .icmp ⟨.v 1, .v 2, .v 3, .zero, .mode, false, 0, 0, 0, 7⟩),
    (0x0E0140A008001000, .iadd64 ⟨.v 10, .v 20, .v 4, .zero, .mode, true, 0, 0, 0, 0⟩),
    (0x0E8140A00C001000, .isub64 ⟨.v 10, .v 20, .v 6, .zero, .mode, true, 0, 0, 0, 0⟩),
    (0x0F0140A010001000, .imul64 ⟨.v 10, .v 20, .v 8, .zero, .mode, true, 0, 0, 0, 0⟩),
    (0x0F8140A00A000002, .lea ⟨.v 10, .v 20, .v 5, .zero, .mode, false, 0, 0, 0, 2⟩),
    (0x108140A000000001, .mov ⟨.v 10, .v 20, .zero, .zero, .mode, false, 0, 0, 0, 1⟩),
    (0x1050E006F56DF77A, .movi ⟨.s 7, .zero, 0xdeadbeef, 2⟩),
    (0x1150340FFFFFFFF8, .iaddi ⟨.s 1, .s 1, 0xffffffff, 0⟩),
    (0x11802010000007F9, .andi ⟨.v 1, .v 2, 0xff, 1⟩),
    (0x12002017FFFFFFF0, .ori ⟨.v 1, .v 2, 0xfffffffe, 0⟩),
    (0x1280760800000028, .xori ⟨.v 3, .sp .lane, 0x5, 0⟩),
    (0x13006018000000FA, .shifti ⟨.v 3, .v 3, 0x1f, 2⟩),
    (0x13D0741FFFFFFFCD, .icmpi ⟨.s 3, .s 3, 0xfffffff9, 5⟩),
    (0x1400201006021001, .idp4 ⟨.v 1, .v 2, .v 3, .v 4, .mode, true, 0, 0, 0, 1⟩),
    (0x14D0341507420000, .idp4u ⟨.s 1, .s 2, .s 3, .s 4, .mode, false, 0, 0, 0, 0⟩)] : List (DWord × Instr)).all reads = true := by decide +kernel

theorem test_words_float_a : ([
    (0x2000201006002110, .fadd ⟨.v 1, .v 2, .v 3, .zero, .rn, false, 0, 4, 2, 0⟩),
    (0x2080201006004110, .fsub ⟨.v 1, .v 2, .v 3, .zero, .rz, false, 0, 4, 2, 0⟩),
    (0x2100201006006110, .fmul ⟨.v 1, .v 2, .v 3, .zero, .ra, false, 0, 4, 2, 0⟩),
    (0x218140080401C108, .ffma ⟨.v 10, .v 1, .v 2, .v 3, .rz, false, 0, 4, 1, 0⟩),
    (0x2200201506000080, .fmin ⟨.v 1, .v 2, .s 3, .zero, .mode, false, 0, 2, 0, 0⟩),
    (0x22D0341506000030, .fmax ⟨.s 1, .s 2, .s 3, .zero, .mode, false, 0, 0, 6, 0⟩),
    (0x2300201006000006, .fcmp ⟨.v 1, .v 2, .v 3, .zero, .mode, false, 0, 0, 0, 6⟩),
    (0x2380201000000020, .fclass ⟨.v 1, .v 2, .zero, .zero, .mode, false, 0, 0, 4, 0⟩),
    (0x2400000800002000, .frcp ⟨.v 0, .v 1, .zero, .zero, .rn, false, 0, 0, 0, 0⟩),
    (0x2480201000002000, .frsq ⟨.v 1, .v 2, .zero, .zero, .rn, false, 0, 0, 0, 0⟩),
    (0x2500401800002000, .fsqrt ⟨.v 2, .v 3, .zero, .zero, .rn, false, 0, 0, 0, 0⟩),
    (0x2580602000002000, .fexp2 ⟨.v 3, .v 4, .zero, .zero, .rn, false, 0, 0, 0, 0⟩),
    (0x2600802800002000, .flog2 ⟨.v 4, .v 5, .zero, .zero, .rn, false, 0, 0, 0, 0⟩),
    (0x2680A03000002000, .fsinp ⟨.v 5, .v 6, .zero, .zero, .rn, false, 0, 0, 0, 0⟩),
    (0x2700C03800002000, .fcosp ⟨.v 6, .v 7, .zero, .zero, .rn, false, 0, 0, 0, 0⟩),
    (0x27802011FC000000, .faddi ⟨.v 1, .v 2, 0x3f800000, 0⟩),
    (0x2850341600000000, .fmuli ⟨.s 1, .s 2, 0xc0000000, 0⟩),
    (0x2880201006006000, .hadd2 ⟨.v 1, .v 2, .v 3, .zero, .ra, false, 0, 0, 0, 0⟩),
    (0x2900201006006000, .hmul2 ⟨.v 1, .v 2, .v 3, .zero, .ra, false, 0, 0, 0, 0⟩),
    (0x2980201006020040, .hfma2 ⟨.v 1, .v 2, .v 3, .v 4, .mode, false, 0, 1, 0, 0⟩),
    (0x2A00201006000000, .hmax2 ⟨.v 1, .v 2, .v 3, .zero, .mode, false, 0, 0, 0, 0⟩),
    (0x2A80201006000000, .hmin2 ⟨.v 1, .v 2, .v 3, .zero, .mode, false, 0, 0, 0, 0⟩),
    (0x2B0040200C004000, .dadd ⟨.v 2, .v 4, .v 6, .zero, .rz, false, 0, 0, 0, 0⟩),
    (0x2B8040200C004000, .dsub ⟨.v 2, .v 4, .v 6, .zero, .rz, false, 0, 0, 0, 0⟩),
    (0x2C0040200C004000, .dmul ⟨.v 2, .v 4, .v 6, .zero, .rz, false, 0, 0, 0, 0⟩)] : List (DWord × Instr)).all reads = true := by decide +kernel

theorem test_words_float_b : ([
    (0x2C8040200C040000, .dfma ⟨.v 2, .v 4, .v 6, .v 8, .mode, false, 0, 0, 0, 0⟩),
    (0x2D5054250C000000, .dmin ⟨.s 2, .s 4, .s 6, .zero, .mode, false, 0, 0, 0, 0⟩),
    (0x2D8040200C000000, .dmax ⟨.v 2, .v 4, .v 6, .zero, .mode, false, 0, 0, 0, 0⟩),
    (0x2E0060200C000002, .dcmp ⟨.v 3, .v 4, .v 6, .zero, .mode, false, 0, 0, 0, 2⟩)] : List (DWord × Instr)).all reads = true := by decide +kernel

theorem test_words_convert : ([
    (0x4000E0286203A002, .cvt ⟨.v 7, .v 5, .v 7, 3, 1, .rn, false, 2⟩),
    (0x4001003178000000, .cvt ⟨.v 8, .v 6, .zero, 11, 12, .mode, false, 0⟩),
    (0x4080E0280003C601, .cvts ⟨.v 7, .v 5, .v 7, false, .rz, 3, 1⟩),
    (0x4080E02802000E03, .cvts ⟨.v 7, .v 5, .zero, true, .mode, 7, 3⟩),
    (0x4100201000000801, .dbq ⟨.v 1, .v 2, .zero, .zero, .mode, false, 4, 0, 0, 1⟩),
    (0x4180201006000A00, .dbx ⟨.v 1, .v 2, .v 3, .zero, .mode, false, 5, 0, 0, 0⟩)] : List (DWord × Instr)).all reads = true := by decide +kernel

theorem test_words_cross : ([
    (0x4200201006000000, .shfl ⟨.v 1, .v 2, .v 3, .zero, .mode, false, 0, 0, 0, 0⟩),
    (0x4280201006000001, .shflx ⟨.v 1, .v 2, .v 3, .zero, .mode, false, 0, 0, 0, 1⟩),
    (0x4300201006000002, .shflu ⟨.v 1, .v 2, .v 3, .zero, .mode, false, 0, 0, 0, 2⟩),
    (0x4380201006000003, .shfld ⟨.v 1, .v 2, .v 3, .zero, .mode, false, 0, 0, 0, 3⟩),
    (0x4400201506000000, .bcast ⟨.v 1, .v 2, .s 3, .zero, .mode, false, 0, 0, 0, 0⟩),
    (0x4480201000000002, .vote ⟨.v 1, .v 2, .zero, .zero, .mode, false, 0, 0, 0, 2⟩),
    (0x4500201000002005, .reduce ⟨.v 1, .v 2, .zero, .zero, .rn, false, 0, 0, 0, 5⟩),
    (0x4580201000001000, .scan ⟨.v 1, .v 2, .zero, .zero, .mode, true, 0, 0, 0, 0⟩),
    (0x4600201000000000, .vconf ⟨.v 1, .v 2, .zero, .zero, .mode, false, 0, 0, 0, 0⟩),
    (0x4680201006000001, .visect ⟨.v 1, .v 2, .v 3, .zero, .mode, false, 0, 0, 0, 1⟩),
    (0x4700201006000000, .kvslot ⟨.v 1, .v 2, .v 3, .zero, .mode, false, 0, 0, 0, 0⟩)] : List (DWord × Instr)).all reads = true := by decide +kernel

theorem test_words_control_a : ([
    (0x50000000FFFFFFFC, .br ⟨.zero, .zero, 0, 0xfffffffc⟩),
    (0x50801409FFFFFFF7, .brc ⟨.zero, .s 1, 1, 0xfffffff7⟩),
    (0x5100000D00000003, .brs ⟨.zero, .v 1, 5, 0x3⟩),
    (0x5180141000000000, .jmpi ⟨.zero, .s 2, 0, 0x0⟩),
    (0x5250341100000000, .call ⟨.s 1, .s 2, 1, 0x0⟩),
    (0x5280140800000000, .ret ⟨.zero, .s 1, 0, 0x0⟩),
    (0x5300007100000003, .ifOp ⟨.zero, .v 14, 1, 0x3⟩),
    (0x5380000000000002, .elseOp ⟨.zero, .zero, 0, 0x2⟩),
    (0x5400000000000000, .endif ⟨.zero, .zero, 0, 0x0⟩),
    (0x5480000000000000, .loop ⟨.zero, .zero, 0, 0x0⟩),
    (0x5500160C00000007, .brk ⟨.zero, .sp .lane, 4, 0x7⟩),
    (0x55800000FFFFFFFD, .endloop ⟨.zero, .zero, 0, 0xfffffffd⟩),
    (0x56000000000000C8, .regang ⟨200⟩),
    (0x5680000000000000, .exit),
    (0x57000000022190A6, .wait ⟨1, 2, 3, 4, 5, 6⟩),
    (0x57D0360506000000, .waitge ⟨.s 1, .sp .zero, .s 3⟩),
    (0x5800000000000057, .bara ⟨.zero, 5, 7⟩),
    (0x588000000000003F, .barw ⟨.zero, 3, 15⟩),
    (0x5900000000000030, .bar ⟨.zero, 3, 0⟩),
    (0x59D0200000000042, .qpush ⟨.s 1, 4, 2⟩),
    (0x5A50400000000053, .qpop ⟨.s 2, 5, 3⟩),
    (0x5A80000000000000, .passpri),
    (0x5B00140800000000, .sleep ⟨.s 1⟩),
    (0x5B80000808000000, .ydep ⟨.v 1, .v 4⟩),
    (0x5C00140800000000, .launch ⟨.s 1⟩)] : List (DWord × Instr)).all reads = true := by decide +kernel

theorem test_words_control_b : ([
    (0x5C80000800000000, .postr ⟨.v 1⟩),
    (0x5D0000000000BEEF, .trap ⟨0xBEEF⟩),
    (0x5D80000000000000, .drain),
    (0x7800000000000000, .eret),
    (0x78D0600000000050, .crd ⟨.s 3, 0x50⟩),
    (0x7900141800000010, .cwr ⟨.s 3, 0x10⟩)] : List (DWord × Instr)).all reads = true := by decide +kernel

theorem test_words_memory : ([
    (0x6050D60504A00028, .ld ⟨.s 6, .sp .zero, .s 2, 2, 0, 0x14⟩),
    (0x60008040013DFFF0, .ld ⟨.v 4, .v 8, .pair, 3, 6, 0xfff8⟩),
    (0x6080C06506A00040, .st ⟨.v 6, .v 12, .s 3, 2, 0, 0x20⟩),
    (0x6101001002220080, .atom ⟨.v 8, .v 2, .xt 1, 2, 1, 0x40⟩),
    (0x61D0960504A00080, .cas ⟨.s 4, .sp .zero, .s 2, 2, 0, 0x40⟩),
    (0x620020101E3A0008, .red ⟨.v 1, .v 2, .xt 15, 3, 5, 0x4⟩),
    (0x6281160512A60000, .smrg ⟨.v 8, .sp .zero, .s 9, 2, 3, 0x0⟩),
    (0x6300001002240100, .pref ⟨.zero, .v 2, .xt 1, 2, 2, 0x80⟩),
    (0x6380142D10000050, .clean ⟨.s 5, .s 8, 5⟩),
    (0x6400142D10000050, .inval ⟨.s 5, .s 8, 5⟩),
    (0x6481341000000000, .xlate ⟨9, .s 2⟩),
    (0x6550341507423900, .cpy ⟨.s 1, .s 2, .s 3, .s 4, 3, 2, 1⟩),
    (0x65D0341000000300, .cpym ⟨.s 1, .s 2, 3⟩),
    (0x79D0341000000000, .pgmap ⟨.s 1, .s 2⟩),
    (0x7A00140D04000000, .pginv ⟨.s 1, .s 2⟩),
    (0x7AD0341506000000, .pgattr ⟨.s 1, .s 2, .s 3⟩),
    (0x7C50341000000000, .lineclr ⟨.s 1, .s 2⟩)] : List (DWord × Instr)).all reads = true := by decide +kernel

theorem test_words_map : ([
    (0x665094450A000000, .mscl ⟨.s 4, .s 8, .s 5, .zero, 0⟩),
    (0x66D0341506000000, .mofs ⟨.s 1, .s 2, .s 3, .zero, 0⟩),
    (0x675054450B430000, .mclp ⟨.s 2, .s 8, .s 5, .s 6, 0⟩),
    (0x67D0341580000000, .mfil ⟨.s 1, .s 2, .sp .zero, .zero, 0⟩),
    (0x6850341506000000, .mprm ⟨.s 1, .s 2, .s 3, .zero, 0⟩),
    (0x68D0341510000001, .mset ⟨.s 1, .s 2, .s 8, .zero, 1⟩),
    (0x6950341000000000, .mmat ⟨.s 1, .s 2, .zero, .zero, 0⟩),
    (0x6A50341000000000, .mdrop ⟨.s 1, .s 2, .zero, .zero, 0⟩),
    (0x69D2941000000000, .mget ⟨.s 20, .s 2⟩)] : List (DWord × Instr)).all reads = true := by decide +kernel

theorem test_words_keyvalue : ([
    (0x6AD154250A000000, .kvapp ⟨.s 10, .s 4, .s 5, .zero, 0, false, 0⟩),
    (0x6B0094550C01A081, .kvldk ⟨.v 4, .s 10, .s 6, .v 3, 32, true, 1⟩),
    (0x6B8094550C000000, .kvldv ⟨.v 4, .s 10, .s 6, .zero, 0, false, 0⟩),
    (0x6C50341000000000, .kvfork ⟨.s 1, .s 2, .zero, .zero, 0, false, 0⟩),
    (0x6CD0200000000000, .kvdrop ⟨.s 1, .zero, .zero, .zero, 0, false, 0⟩),
    (0x6D50341000000000, .kvevict ⟨.s 1, .s 2, .zero, .zero, 0, false, 0⟩),
    (0x6DD0341506000000, .kvsetpos ⟨.s 1, .s 2, .s 3, .zero, 0, false, 0⟩),
    (0x7B50200000000000, .kvpop ⟨.s 1, .zero, .zero, .zero, 0, false, 0⟩),
    (0x7BD0341506000000, .kvref ⟨.s 1, .s 2, .s 3, .zero, 0, false, 0⟩)] : List (DWord × Instr)).all reads = true := by decide +kernel

theorem test_words_bank : ([
    (0x6E50742580000000, .bkl ⟨.s 3, .s 4, .sp .zero⟩),
    (0x6ED0742580000000, .bktZero ⟨.s 3, .s 4, .sp .zero⟩),
    (0x6F50742580000000, .bkir ⟨.s 3, .s 4, .sp .zero⟩),
    (0x6F80000000000000, .bkm)] : List (DWord × Instr)).all reads = true := by decide +kernel

theorem test_words_matrix : ([
    (0x7050942800204000, .mma ⟨.s 4, .s 5, 1, false, 0, 1, 0, 0, 0, false⟩),
    (0x70D094280174C000, .mmas ⟨.s 4, .s 5, 11, true, 2, 3, 0, 0, 0, false⟩),
    (0x7100000000100004, .accz ⟨.zero, .zero, 0, true, 0, 0, 0, 0, 0, true⟩),
    (0x7188000000104800, .accrd ⟨.v 64, .zero, 0, true, 0, 1, 0, 2, 0, false⟩),
    (0x7200010000000C00, .accwr ⟨.zero, .v 32, 0, false, 0, 0, 0, 3, 0, false⟩),
    (0x72D080000002B000, .accst ⟨.s 4, .zero, 0, false, 1, 2, 3, 0, 0, false⟩),
    (0x7300000000000200, .promo ⟨.zero, .zero, 0, false, 0, 0, 0, 0, 64, false⟩)] : List (DWord × Instr)).all reads = true := by decide +kernel

theorem test_words_pair : ([
    (0x8100280018412580, .iaddHalf ⟨.v 0, .s 0, .mode⟩ ⟨.and, ⟨.v 130, .v 300, .mode⟩⟩),
    (0x820068101A4125A0, .isubHalf ⟨.v 1, .s 1, .mode⟩ ⟨.or, ⟨.v 130, .v 301, .mode⟩⟩),
    (0x8300A8201C4125C0, .imulHalf ⟨.v 2, .s 2, .mode⟩ ⟨.xor, ⟨.v 130, .v 302, .mode⟩⟩),
    (0x8700E830204125E0, .iminHalf ⟨.v 3, .s 3, .mode⟩ ⟨.shl, ⟨.v 130, .v 303, .mode⟩⟩),
    (0x8801284022412600, .imaxHalf ⟨.v 4, .s 4, .mode⟩ ⟨.shr, ⟨.v 130, .v 304, .mode⟩⟩),
    (0x8C01685024412620, .andHalf ⟨.v 5, .s 5, .mode⟩ ⟨.sra, ⟨.v 130, .v 305, .mode⟩⟩),
    (0x8D01A86042412640, .orHalf ⟨.v 6, .s 6, .mode⟩ ⟨.mov, ⟨.v 130, .v 306, .mode⟩⟩),
    (0x8E01E87080412678, .xorHalf ⟨.v 7, .s 7, .mode⟩ ⟨.fadd, ⟨.v 130, .v 307, .ra⟩⟩),
    (0x9002288082412688, .shlHalf ⟨.v 8, .s 8, .mode⟩ ⟨.fsub, ⟨.v 130, .v 308, .rn⟩⟩),
    (0x91026890844126B0, .shrHalf ⟨.v 9, .s 9, .mode⟩ ⟨.fmul, ⟨.v 130, .v 309, .rz⟩⟩),
    (0x9202A8A0884126C0, .sraHalf ⟨.v 10, .s 10, .mode⟩ ⟨.fmin, ⟨.v 130, .v 310, .mode⟩⟩),
    (0xA102E8B08A4126E0, .movHalf ⟨.v 11, .s 11, .mode⟩ ⟨.fmax, ⟨.v 130, .v 311, .mode⟩⟩),
    (0xC00328C4A2412710, .faddHalf ⟨.v 12, .s 12, .rn⟩ ⟨.hadd2, ⟨.v 130, .v 312, .rz⟩⟩),
    (0xC10368D8A4412738, .fsubHalf ⟨.v 13, .s 13, .rz⟩ ⟨.hmul2, ⟨.v 130, .v 313, .ra⟩⟩),
    (0xC203A8ECA8412740, .fmulHalf ⟨.v 14, .s 14, .ra⟩ ⟨.hmax2, ⟨.v 130, .v 314, .mode⟩⟩),
    (0xC403E8F0FC412770, .fminHalf ⟨.v 15, .s 15, .mode⟩ ⟨.cvtBf16F32, ⟨.v 130, .v 315, .rz⟩⟩),
    (0xC5042900FE412780, .fmaxHalf ⟨.v 16, .s 16, .mode⟩ ⟨.cvtF32Bf16, ⟨.v 130, .v 316, .mode⟩⟩),
    (0xD104691C024127A0, .hadd2Half ⟨.v 17, .s 17, .ra⟩ ⟨.iadd, ⟨.v 130, .v 317, .mode⟩⟩),
    (0xD204A924044127C0, .hmul2Half ⟨.v 18, .s 18, .rn⟩ ⟨.isub, ⟨.v 130, .v 318, .mode⟩⟩),
    (0xD404E930064127E0, .hmax2Half ⟨.v 19, .s 19, .mode⟩ ⟨.imul, ⟨.v 130, .v 319, .mode⟩⟩),
    (0xFE05294C0E412800, .cvtBf16F32Half ⟨.v 20, .s 20, .ra⟩ ⟨.imin, ⟨.v 130, .v 320, .mode⟩⟩),
    (0xFF05695010412820, .cvtF32Bf16Half ⟨.v 21, .s 21, .mode⟩ ⟨.imax, ⟨.v 130, .v 321, .mode⟩⟩)] : List (DWord × Instr)).all reads = true := by decide +kernel


/-! ### Words that the checks of R68 refuse -/

theorem test_illop_a : ([
    0x1500000000000000, -- OP 0x2A unassigned
    0x7F80000000000000, -- OP 0xFF unassigned
    0x2E80000000000000, -- OP 0x5D unassigned
    0x0080000000002000, -- IADD with RND
    0x0080000000000200, -- IADD with SLOT
    0x0080000000000100, -- IADD with NEG
    0x0080000000000008, -- IADD with ABS
    0x0080000000000001, -- IADD with SUB 1
    0x0600000000001000, -- AND with SAT
    0x00D0341006000000, -- IADD with scalar D and vector B
    0x2000000000000040, -- FADD with NEG of C
    0x2200000000002000, -- FMIN with RND
    0x0C00000000000002, -- ICMP is full, BFX has no SUB 2
    0x44D0341000000000, -- VOTE with scalar D
    0x4500000000002000, -- REDUCE with RND but no FADD
    0x4400000002000000, -- BCAST with vector B
    0x1000000000000003, -- MOVI with SUB 3
    0x1000000000000002, -- MOVI.HI with vector D
    0x1300000000000100, -- SHIFTI by 32 in lanes
    0x1350340800000200, -- SHIFTI by 64 on the scalar pipe
    0x1100000000000001, -- IADDI with SUB 1
    0x40000000E6000000 -- CVT of KF8 to I8
    ] : List DWord).all (fun w => decode w == .error .illop) = true := by decide +kernel

theorem test_illop_b : ([
    0x4000000032001000, -- CVT.F32.I32 with SAT
    0x4000000432000000, -- CVT with B bit 9
    0x4000000132000000, -- CVT.I32.I32
    0x4000000062000004, -- CVT element 4 of KF8
    0x4080000004000000, -- CVTS with B bit 1
    0x6000000001800000, -- LD with AM 3
    0x6000000000500000, -- LD with W 5
    0x6000000000200001, -- LD with bit 0
    0x6000000020200000, -- LD with xt index above 15
    0x600000000AA00000, -- LD from s base with B a vector
    0x6000003801200000, -- LD per lane from an odd pair
    0x6050360000400000, -- LD.Q to a scalar
    0x6080000000020000, -- ST with SX
    0x6100000000000000, -- ATOM of a byte
    0x6180000000240000, -- CAS with a hint
    0x6280160000200000, -- SMRG with xt base
    0x5050200000000000, -- BR with D
    0x5080140E00000000, -- BRC with cond 6
    0x5080000800000000, -- BRC with a vector
    0x5200200000000000, -- CALL with vector D
    0x5480000000000001, -- LOOP with OFS32
    0x5600000000000100 -- REGANG with bit 8
    ] : List DWord).all (fun w => decode w == .error .illop) = true := by decide +kernel

theorem test_illop_c : ([
    0x5680000000000001, -- EXIT with a field
    0x5700000040000000, -- WAIT with bit 30
    0x5780340D02000000, -- WAITGE with vector D
    0x5800000000000040, -- BARA with scope 4
    0x5900000000000058, -- BAR.CL 8
    0x59D0200000000020, -- QPUSH with scope 2
    0x5B00000800000000, -- SLEEP with a vector
    0x5B80000D02000000, -- YDEP with scalar B
    0x5C00000800000000, -- LAUNCH with a vector
    0x5D00000000010000, -- TRAP with bit 16
    0x78D0200000000006, -- CRD of no register
    0x7900140800000001, -- CWR of FLAGS
    0x6380140D04000030, -- CLEAN with scope 3
    0x6482140800000000, -- XLATE with bit 49
    0x6550341506005000, -- CPY with form 5
    0x6550341506000400, -- CPY.LIN with EW
    0x6500341506000000, -- CPY with a vector
    0x65D0341000000001, -- CPYM with bit 0
    0x6650341506000001, -- MSCL with SUB 1
    0x68D0341512000000, -- MSET from s9
    0x69D0741000000000, -- MGET to s3
    0x6900341000000000 -- MMAT with a vector
    ] : List DWord).all (fun w => decode w == .error .illop) = true := by decide +kernel

theorem test_illop_d : ([
    0x6B00940D04000002, -- KVLDK with SUB 2
    0x6B50940D04000000, -- KVLDK with scalar D
    0x6AD0940D04000100, -- KVAPP with EOFS
    0x6B00940D04020080, -- KVLDK whose flag is D
    0x6ED0742580000001, -- BKT with X
    0x6F80000000000001, -- BKM with a field
    0x70D0942800200000, -- MMAS with KQ 1
    0x7050942800000400, -- MMA with G
    0x7300000000000208, -- PROMO with PINT 65
    0x7300000000000000, -- PROMO with PINT 0
    0x7100000000020000, -- ACCZ with a slot
    0x7188000000000004, -- ACCRD with FREE
    0x7980340800000000, -- PGMAP with a vector
    0x7800000000000001 -- ERET with a field
    ] : List DWord).all (fun w => decode w == .error .illop) = true := by decide +kernel

/-- Reserved and unassigned codes where the entry names a register or asks for a scalar (R56, R68, R119, R133, R274, R303, R315). -/
theorem test_illop_e : ([
    0x415A201000000801, -- DBQ with D 721
    0x69D2980000000000, -- MGET with A 768
    0x71DA200000104800, -- ACCRD with D 721
    0x6B5A34550C01A081, -- KVLDK with D 721
    0x5180160800000000 -- JMPI to %lane
    ] : List DWord).all (fun w => decode w == .error .illop) = true := by decide +kernel
/-- An operand field that MOVI does not use is ignored (R55, R104). -/
theorem test_movi_ignores_a : decode 0x1050E02EF56DF77A = .ok (.movi ⟨.s 7, .zero, 0xDEADBEEF, 2⟩) := by decide +kernel

/-- The illegal pairs of R63, rule by rule. -/
theorem test_illpair : ([
    0xC500803002021060, -- both D in bank 0
    0xC500803002410020, -- bank 0 named three times
    0x81A1285003425860, -- both D are s4
    0x81A1009080411060, -- scalar D with a vector S
    0x8300803402411060, -- RND on IMUL
    0x8100803002411061, -- bit 0 set
    0x8000803002411060, -- HOP 0 unassigned
    0x81008030FA411060, -- HOP of slot B unassigned
    0x8100803102411060 -- SUB set
    ] : List DWord).all (fun w => decode w == .error .illpair) = true := by decide +kernel

/-- The legal pairs of the same table. -/
theorem test_legal_pairs : ([0xC500803002411060, 0xC500802003425820] : List DWord).all
    (fun w => match decode w with | .ok _ => true | _ => false) = true := by decide +kernel
/-- B of a memory word of form 2 is ignored (R53, R55). -/
theorem test_pair_base_ignores_b : decode 0x600080400B3DFFF0 = .ok (.ld ⟨.v 4, .v 8, .pair, 3, 6, 0xfff8⟩) := by decide +kernel

/-! ### One instruction, one step

The expected values are the spec's worked ones where a docstring says so, and are computed by hand from the rule otherwise. -/

/-- The gang after one instruction. -/
def after (i : Instr) (s : State) : Option Gang :=
  match exec i s with
  | .next t => t.gangs[0]?
  | _ => none

/-- Element `l` of a vector register, a scalar register, and the flags, after one instruction. -/
def vAt (i : Instr) (s : State) (n l : Nat) : Option Nat := (after i s).map fun G => (G.getV n l).toNat
def sAt (i : Instr) (s : State) (n : Nat) : Option Nat := (after i s).map fun G => (G.getS n).toNat
def flagsAt (i : Instr) (s : State) : Option Nat := (after i s).map (·.flags.toNat)

theorem test_nop : (after .nop seat).map (fun G => (G.slices.map (·.pc.toNat), G.flags)) = some (List.replicate 8 8, 0) := by decide +kernel
theorem test_iadd_wraps : sAt (.iadd (x3 (.s 3) (.s 1) (.s 2))) (ss (2 ^ 64 - 1) 2) 3 = some 1 := by decide +kernel
theorem test_iadd_saturates : vAt (.iadd (x3 (.v 3) (.v 2) (.v 4) .zero .mode true)) (vv 0x7FFFFFFF 1) 3 0 = some 0x7FFFFFFF := by decide +kernel
theorem test_isub : sAt (.isub (x3 (.s 3) (.s 1) (.s 2))) (ss 0 1) 3 = some (2 ^ 64 - 1) := by decide +kernel
theorem test_imul : vAt (.imul (x3 (.v 3) (.v 2) (.v 4))) (vv 0xFFFFFFFD 5) 3 0 = some 0xFFFFFFF1 := by decide +kernel
theorem test_imulh : vAt (.imulh (x3 (.v 3) (.v 2) (.v 4))) (vv 0xFFFFFFFF 0xFFFFFFFF) 3 0 = some 0 := by decide +kernel
theorem test_imulhu : vAt (.imulhu (x3 (.v 3) (.v 2) (.v 4))) (vv 0xFFFFFFFF 0xFFFFFFFF) 3 0 = some 0xFFFFFFFE := by decide +kernel
theorem test_imad : sAt (.imad (x3 (.s 3) (.s 1) (.s 2) (.s 1))) (ss 3 5) 3 = some 18 := by decide +kernel
theorem test_imin : vAt (.imin (x3 (.v 3) (.v 2) (.v 4))) (vv 0xFFFFFFFF 1) 3 0 = some 0xFFFFFFFF := by decide +kernel
theorem test_imax : vAt (.imax (x3 (.v 3) (.v 2) (.v 4))) (vv 0xFFFFFFFF 1) 3 0 = some 1 := by decide +kernel
theorem test_umin : vAt (.umin (x3 (.v 3) (.v 2) (.v 4))) (vv 0xFFFFFFFF 1) 3 0 = some 1 := by decide +kernel
theorem test_umax : vAt (.umax (x3 (.v 3) (.v 2) (.v 4))) (vv 0xFFFFFFFF 1) 3 0 = some 0xFFFFFFFF := by decide +kernel
theorem test_iabs : vAt (.iabs (x3 (.v 3) (.v 2) .zero .zero .mode true)) (vv 0x80000000 0) 3 0 = some 0x7FFFFFFF := by decide +kernel
theorem test_and : sAt (.and (x3 (.s 3) (.s 1) (.s 2))) (ss 0xF0 0x3C) 3 = some 0x30 := by decide +kernel
theorem test_or : sAt (.or (x3 (.s 3) (.s 1) (.s 2))) (ss 0xF0 0x3C) 3 = some 0xFC := by decide +kernel
theorem test_xor : sAt (.xor (x3 (.s 3) (.s 1) (.s 2))) (ss 0xF0 0x3C) 3 = some 0xCC := by decide +kernel
theorem test_andn : sAt (.andn (x3 (.s 3) (.s 1) (.s 2))) (ss 0xF0 0x3C) 3 = some 0xC0 := by decide +kernel
theorem test_shl_count : vAt (.shl (x3 (.v 3) (.v 2) (.v 4))) (vv 5 33) 3 0 = some 10 := by decide +kernel
theorem test_shr : sAt (.shr (x3 (.s 3) (.s 1) (.s 2))) (ss (2 ^ 63) 63) 3 = some 1 := by decide +kernel
theorem test_sra : vAt (.sra (x3 (.v 3) (.v 2) (.v 4))) (vv 0xFFFFFFF8 1) 3 0 = some 0xFFFFFFFC := by decide +kernel
theorem test_rol : vAt (.rol (x3 (.v 3) (.v 2) (.v 4))) (vv 0x80000001 1) 3 0 = some 3 := by decide +kernel
theorem test_popc : vAt (.popc (x3 (.v 3) (.v 2) .zero)) (vv 0xF0F1 0) 3 0 = some 9 := by decide +kernel
theorem test_clz : sAt (.clz (x3 (.s 3) (.s 1) .zero)) (ss 0 0) 3 = some 64 := by decide +kernel
theorem test_ctz : vAt (.ctz (x3 (.v 3) (.v 2) .zero)) (vv 8 0) 3 0 = some 3 := by decide +kernel
theorem test_brev : vAt (.brev (x3 (.v 3) (.v 2) .zero)) (vv 6 0) 3 0 = some 0x60000000 := by decide +kernel
/-- The example of R103. -/
theorem test_bfx : vAt (.bfx (x3 (.v 3) (.v 2) (.v 4) .zero .mode false 1)) (vv 0xA500 0x0808) 3 0 = some 0xFFFFFFA5 := by decide +kernel
theorem test_bfi : sAt (.bfi (x3 (.s 3) (.s 1) (.s 2) (.s 1))) (ss 0xABCD 0x0810) 3 = some 0xCDABCD := by decide +kernel
theorem test_sel : sAt (.sel (x3 (.s 3) (.s 1) (.s 2) (.sp .zero))) (ss 7 9) 3 = some 9 := by decide +kernel
theorem test_icmp_signed : vAt (.icmp (x3 (.v 3) (.v 2) (.v 4) .zero .mode false 2)) (vv 0xFFFFFFFF 1) 3 0 = some 1 := by decide +kernel
theorem test_icmp_unsigned : vAt (.icmp (x3 (.v 3) (.v 2) (.v 4) .zero .mode false 6)) (vv 0xFFFFFFFF 1) 3 0 = some 0 := by decide +kernel
theorem test_iadd64_carries : vAt (.iadd64 (x3 (.v 6) (.v 2) (.v 4))) (vv 0xFFFFFFFF 1) 7 0 = some 1 := by decide +kernel
theorem test_isub64_borrows : vAt (.isub64 (x3 (.v 6) (.v 2) (.v 4))) (vv 0 1) 7 0 = some 0xFFFFFFFF := by decide +kernel
theorem test_imul64 : vAt (.imul64 (x3 (.v 6) (.v 2) (.v 4))) (vv 0x10000 0x10000) 7 0 = some 1 := by decide +kernel
theorem test_lea : vAt (.lea (x3 (.v 6) (.v 2) (.v 4) .zero .mode false 2)) (vv 0x1000 0x80000000) 7 0 = some 2 := by decide +kernel
theorem test_mov_pair : vAt (.mov (x3 (.v 6) (.v 2) .zero .zero .mode false 1)) (State.vec seat 3 0 9) 7 0 = some 9 := by decide +kernel
theorem test_movi_hi : sAt (.movi ⟨.s 1, .zero, 0xDEADBEEF, 2⟩) (ss 0x1122334455667788 0) 1 = some 0xDEADBEEF55667788 := by decide +kernel
theorem test_iaddi : sAt (.iaddi ⟨.s 1, .s 1, 0xFFFFFFFF, 0⟩) (ss 5 0) 1 = some 4 := by decide +kernel
theorem test_andi_u : sAt (.andi ⟨.s 3, .s 1, 0xFFFFFFFF, 1⟩) (ss (2 ^ 64 - 1) 0) 3 = some 0xFFFFFFFF := by decide +kernel
theorem test_ori_sext : sAt (.ori ⟨.s 3, .s 1, 0x80000000, 0⟩) (ss 1 0) 3 = some 0xFFFFFFFF80000001 := by decide +kernel
theorem test_xori : sAt (.xori ⟨.s 3, .s 1, 0xFF, 0⟩) (ss 0xF0 0) 3 = some 0x0F := by decide +kernel
theorem test_shifti_rol : vAt (.shifti ⟨.v 3, .v 2, 4, 3⟩) (vv 0xF0000001 0) 3 0 = some 0x1F := by decide +kernel
theorem test_icmpi : sAt (.icmpi ⟨.s 3, .s 1, 0xFFFFFFFF, 0⟩) (ss (2 ^ 64 - 1) 0) 3 = some 1 := by decide +kernel
/-- The worked case of R97, wrapping and saturating. -/
theorem test_idp4_wraps : vAt (.idp4 (x3 (.v 3) (.v 2) (.v 4) (.s 1))) (State.scal (vv 0x0000807F 0x00007F7F) 1 0x7FFFFF9C) 3 0
    = some 0x7FFFFF1D := by decide +kernel
theorem test_idp4_saturates : vAt (.idp4 (x3 (.v 3) (.v 2) (.v 4) (.s 1) .mode true)) (State.scal (vv 0x0000807F 0x00007F7F) 1 0x7FFFFF9C) 3 0
    = some 0x7FFFC07F := by decide +kernel
theorem test_idp4u : vAt (.idp4u (x3 (.v 3) (.v 2) (.v 4) (.sp .zero))) (vv 0xFF000002 0xFF000003) 3 0 = some (255 * 255 + 6) := by decide +kernel
/-- A value that is inactive keeps its register (R60). -/
theorem test_inactive_lane_keeps : vAt (.movi ⟨.v 3, .zero, 7, 0⟩) (State.gang0 seat fun G => { G with nest := [(1, 1)] }) 3 1 = some 0
    := by decide +kernel
theorem test_special_lane : vAt (.iadd (x3 (.v 3) (.sp .lane) (.sp .lane))) seat 3 31 = some 62 := by decide +kernel

/-! Floating point: 1.5 is 0x3FC00000, 2 is 0x40000000, 3 is 0x40400000, 4 is 0x40800000, 0.5 is 0x3F000000. -/
theorem test_fadd : vAt (.fadd (x3 (.v 3) (.v 2) (.v 4))) (vv 0x3FC00000 0x3FC00000) 3 0 = some 0x40400000 := by decide +kernel
theorem test_fsub_exact_zero : vAt (.fsub (x3 (.v 3) (.v 2) (.v 4))) (vv 0x3FC00000 0x3FC00000) 3 0 = some 0 := by decide +kernel
theorem test_fmul_overflow : flagsAt (.fmul (x3 (.v 3) (.v 2) (.v 4))) (vv 0x7F7FFFFF 0x40000000) = some 0b10100 := by decide +kernel
theorem test_ffma : vAt (.ffma (x3 (.v 3) (.v 2) (.v 4) (.s 1))) (State.scal (vv 0x40000000 0x3FC00000) 1 0xBF800000) 3 0 = some 0x40000000 := by decide +kernel
theorem test_fmin : vAt (.fmin (x3 (.v 3) (.v 2) (.v 4))) (vv 0xBF800000 0x3F800000) 3 0 = some 0xBF800000 := by decide +kernel
theorem test_fmax : vAt (.fmax (x3 (.v 3) (.v 2) (.v 4))) (vv 0xBF800000 0x3F800000) 3 0 = some 0x3F800000 := by decide +kernel
/-- R110: a quiet NaN raises NV under `.LT`. -/
theorem test_fcmp_nan : flagsAt (.fcmp (x3 (.v 3) (.v 2) (.v 4) .zero .mode false 2)) (vv 0x7FC00000 0) = some 1 := by decide +kernel
theorem test_fclass : vAt (.fclass (x3 (.v 3) (.v 2) .zero)) (vv 0x80000001 0) 3 0 = some 4 := by decide +kernel
theorem test_frcp : vAt (.frcp (x3 (.v 3) (.v 2) .zero)) (vv 0x40000000 0) 3 0 = some 0x3F000000 := by decide +kernel
theorem test_frcp_zero : flagsAt (.frcp (x3 (.v 3) (.v 2) .zero)) (vv 0x40000000 0) = some 0b00010 := by decide +kernel
theorem test_frsq : sAt (.frsq (x3 (.s 3) (.s 1) .zero)) (ss 0x40800000 0) 3 = some 0x3F000000 := by decide +kernel
theorem test_fsqrt_negative : sAt (.fsqrt (x3 (.s 3) (.s 1) .zero)) (ss 0xC0800000 0) 3 = some 0x7FC00000 := by decide +kernel
/-- R112: FEXP2 of -150.0 gives +0 with UF and NX. -/
theorem test_fexp2_underflow : flagsAt (.fexp2 (x3 (.s 3) (.s 1) .zero)) (ss 0xC3160000 0) = some 0b11000 := by decide +kernel
theorem test_flog2 : sAt (.flog2 (x3 (.s 3) (.s 1) .zero)) (ss 0x41000000 0) 3 = some 0x40400000 := by decide +kernel
theorem test_fsinp_quarter : sAt (.fsinp (x3 (.s 3) (.s 1) .zero)) (ss 0x3E800000 0) 3 = some 0x3F800000 := by decide +kernel
theorem test_fcosp_half : sAt (.fcosp (x3 (.s 3) (.s 1) .zero)) (ss 0x3F000000 0) 3 = some 0xBF800000 := by decide +kernel
theorem test_faddi : sAt (.faddi ⟨.s 3, .s 1, 0x3F800000, 0⟩) (ss 0x40000000 0) 3 = some 0x40400000 := by decide +kernel
theorem test_fmuli : sAt (.fmuli ⟨.s 3, .s 1, 0x40000000, 0⟩) (ss 0x3F800000 0) 3 = some 0x40000000 := by decide +kernel
theorem test_hadd2 : vAt (.hadd2 (x3 (.v 3) (.v 2) (.v 4))) (vv 0x3F804000 0x3F803F80) 3 0 = some 0x40004040 := by decide +kernel
theorem test_hmul2 : vAt (.hmul2 (x3 (.v 3) (.v 2) (.v 4))) (vv 0x40004000 0x40003F80) 3 0 = some 0x40804000 := by decide +kernel
theorem test_hfma2 : vAt (.hfma2 (x3 (.v 3) (.v 2) (.v 4) (.s 1))) (State.scal (vv 0x40004000 0x40003F80) 1 0x3F803F80) 3 0 = some 0x40A04040 := by decide +kernel
theorem test_hmax2 : vAt (.hmax2 (x3 (.v 3) (.v 2) (.v 4))) (vv 0xBF804000 0x3F803F80) 3 0 = some 0x3F804000 := by decide +kernel
theorem test_hmin2 : vAt (.hmin2 (x3 (.v 3) (.v 2) (.v 4))) (vv 0xBF804000 0x3F803F80) 3 0 = some 0xBF803F80 := by decide +kernel
theorem test_dadd : sAt (.dadd (x3 (.s 3) (.s 1) (.s 2))) (ss 0x3FF8000000000000 0x3FF8000000000000) 3 = some 0x4008000000000000 := by decide +kernel
theorem test_dsub : sAt (.dsub (x3 (.s 3) (.s 1) (.s 2))) (ss 0x4008000000000000 0x3FF8000000000000) 3 = some 0x3FF8000000000000 := by decide +kernel
theorem test_dmul : sAt (.dmul (x3 (.s 3) (.s 1) (.s 2))) (ss 0x4008000000000000 0x4000000000000000) 3 = some 0x4018000000000000 := by decide +kernel
theorem test_dfma : sAt (.dfma (x3 (.s 3) (.s 1) (.s 2) (.s 2))) (ss 0x4008000000000000 0x4000000000000000) 3 = some 0x4020000000000000 := by decide +kernel
theorem test_dmin : sAt (.dmin (x3 (.s 3) (.s 1) (.s 2))) (ss 0x8000000000000000 0) 3 = some 0x8000000000000000 := by decide +kernel
theorem test_dmax : sAt (.dmax (x3 (.s 3) (.s 1) (.s 2))) (ss 0x3FF0000000000000 0x4000000000000000) 3 = some 0x4000000000000000 := by decide +kernel
theorem test_dcmp : sAt (.dcmp (x3 (.s 3) (.s 1) (.s 2) .zero .mode false 2)) (ss 0x3FF0000000000000 0x4000000000000000) 3 = some 1 := by decide +kernel
/-- R89: 500.0 converts to 0x7F with OF and NX; 0.001 toward zero gives 0 with UF and NX. -/
theorem test_cvt_kf8 : vAt (.cvt ⟨.v 3, .v 2, .v 4, 3, 1, .mode, false, 1⟩) (vv 0x43FA0000 0xAABBCCDD) 3 0 = some 0xAABB7FDD := by decide +kernel
theorem test_cvt_kf8_flags : flagsAt (.cvt ⟨.v 3, .s 1, .v 4, 3, 1, .rz, false, 1⟩) (State.scal seat 1 0x3A83126F) = some 0b11000 := by decide +kernel
theorem test_cvts_dq : vAt (.cvts ⟨.v 3, .v 2, .zero, true, .mode, 0, 0⟩)
    ((vv 0x38 0).updGroup 0 fun g => { g with slots := (0x40000000 * 2 ^ 32 + 3) :: g.slots.drop 1 }) 3 0 = some 0x40000000 := by decide +kernel
theorem test_dbq_lane : [vAt (.dbq (x3 (.v 3) (.v 2) .zero)) db4 3 0, vAt (.dbq (x3 (.v 3) (.v 2) .zero)) db4 3 2] = [some 0x7F810002, some 0x7F81000E] := by decide +kernel
theorem test_dbq_packed : [vAt (.dbq (x3 (.v 3) (.v 2) .zero .zero .mode false 1)) db4 3 0, vAt (.dbq (x3 (.v 3) (.v 2) .zero .zero .mode false 1)) db4 3 31]
    = [some 0x0E62, some 0x7F81] := by decide +kernel
theorem test_dbx : vAt (.dbx (x3 (.v 3) (.s 1) (.s 2))) ((ss 2 0x7F810000).updGroup 0 fun g => { g with slots := (6 + 2 ^ 8 * 2) :: g.slots.drop 1 }) 3 0
    = some 0x40800000 := by decide +kernel

/-! Across lanes: v2 holds 3 in lane 0 and 5 in lane 1. -/
def two : State := State.vec (State.vec seat 2 0 3) 2 1 5
theorem test_shfl : vAt (.shfl (x3 (.v 3) (.sp .lane) (.s 1))) (ss 33 0) 3 9 = some 1 := by decide +kernel
theorem test_shflx_segment : vAt (.shflx (x3 (.v 3) (.sp .lane) (.s 1) .zero .mode false 2)) (ss 9 0) 3 8 = some 9 := by decide +kernel
theorem test_shflu_below : vAt (.shflu (x3 (.v 3) (.sp .lane) (.s 1))) (ss 2 0) 3 1 = some 1 := by decide +kernel
theorem test_shfld : vAt (.shfld (x3 (.v 3) (.sp .lane) (.s 1))) (ss 2 0) 3 29 = some 31 := by decide +kernel
theorem test_bcast : vAt (.bcast (x3 (.v 3) (.v 2) (.s 1))) (State.scal two 1 33) 3 17 = some 5 := by decide +kernel
theorem test_vote_ballot : vAt (.vote (x3 (.v 3) (.v 2) .zero .zero .mode false 2)) two 3 4 = some 3 := by decide +kernel
theorem test_reduce_add : vAt (.reduce (x3 (.v 3) (.v 2) .zero)) two 3 31 = some 8 := by decide +kernel
theorem test_scan_add : vAt (.scan (x3 (.v 3) (.v 2) .zero)) two 3 1 = some 8 := by decide +kernel
/-- The worked case of R126: lanes 0 to 3 hold 2^24, 1, 1 and -2^24; the tree and the ascending order differ. -/
def four : State :=
  State.gang0 (State.vec (State.vec (State.vec (State.vec seat 2 0 0x4B800000) 2 1 0x3F800000) 2 2 0x3F800000) 2 3 0xCB800000) fun G =>
    { G with nest := (List.range 28).map fun l => (l + 4, 1) }
theorem test_reduce_tree : vAt (.reduce (x3 (.v 3) (.v 2) .zero .zero .rn false 5)) four 3 3 = some 0x3F800000 := by decide +kernel
theorem test_scan_ascends : [vAt (.scan (x3 (.v 3) (.v 2) .zero .zero .rn false 5)) four 3 2, vAt (.scan (x3 (.v 3) (.v 2) .zero .zero .rn false 5)) four 3 3]
    = [some 0x4B800000, some 0] := by decide +kernel
theorem test_vconf : [vAt (.vconf (x3 (.v 3) (.v 2) .zero)) two 3 3, vAt (.vconf (x3 (.v 3) (.v 2) .zero)) two 3 0] = [some 0b100, some 0x80000000] := by decide +kernel
theorem test_visect : vAt (.visect (x3 (.v 3) (.s 1) (.v 2))) (State.scal two 1 5) 3 7 = some 1 := by decide +kernel
theorem test_kvslot : vAt (.kvslot (x3 (.v 3) (.v 2) (.v 4))) (vv 3 0b0110) 3 0 = some 0x80000002 := by decide +kernel
/-- R65: the upper half of the BF16 is zero, whatever stands in v0. -/
theorem test_pair_cvt_upper_zero : vAt (.cvtBf16F32Half ⟨.v 2, .v 3, .mode⟩ ⟨.iadd, ⟨.v 130, .v 131, .mode⟩⟩)
    (State.vec (State.vec seat 3 0 0x3F800000) 0 0 0xFFFF0000) 2 0 = some 0x3F80 := by decide +kernel
theorem test_pair_reads_first : (after (.iaddHalf ⟨.v 2, .v 130, .mode⟩ ⟨.iadd, ⟨.v 130, .v 2, .mode⟩⟩) (State.vec (State.vec seat 2 0 1) 130 0 2)).map
    (fun G => (G.getV 2 0, G.getV 130 0)) = some (3, 3) := by decide +kernel

/-! ### Control, memory and the system -/

/-- A state after one instruction. -/
def next (i : Instr) (s : State) : Option State :=
  match exec i s with
  | .next t => some t
  | _ => none
/-- Bytes of memory, a property of the gang, and the PCs of its slices after one instruction. -/
def memAt (i : Instr) (s : State) (a n : Nat) : Option Nat := (next i s).map fun t => memNat t.mem a n
def pcs (i : Instr) (s : State) : Option (List Nat) := (after i s).map fun G => G.slices.map (·.pc.toNat)
def causeOf (i : Instr) (s : State) : Option (Nat × Nat × Nat) := (after i s).map fun G => (G.trapcause.toNat, G.trapaddr.toNat, G.trapmask.toNat)
theorem test_br_back : pcs (.br ⟨.zero, .zero, 0, 0xFFFFFFFF⟩) seat = some (List.replicate 8 (2 ^ 64 - 8)) := by decide +kernel
theorem test_brc_not_taken : pcs (.brc ⟨.zero, .s 1, 1, 5⟩) (ss 0 0) = some (List.replicate 8 8) := by decide +kernel
theorem test_brs_splits : pcs (.brs ⟨.zero, .v 2, 1, 5⟩) (vv 1 0) = some (40 :: List.replicate 7 8) := by decide +kernel
theorem test_jmpi : pcs (.jmpi ⟨.zero, .s 1, 0, 0⟩) (ss 0x100 0) = some (List.replicate 8 0x100) := by decide +kernel
theorem test_call_links : sAt (.call ⟨.s 1, .s 1, 1, 0⟩) (ss 0x100 0) 1 = some 8 := by decide +kernel
theorem test_ret : pcs (.ret ⟨.zero, .s 1, 0, 0⟩) (ss 0x80 0) = some (List.replicate 8 0x80) := by decide +kernel
theorem test_if_counts : (after (.ifOp ⟨.zero, .v 2, 1, 3⟩) (vv 1 0)).map (fun G => (stGet G.nest 0, stGet G.nest 1)) = some (0, 1) := by decide +kernel
theorem test_if_all_false : pcs (.ifOp ⟨.zero, .v 2, 1, 3⟩) seat = some (List.replicate 8 24) := by decide +kernel
theorem test_else : (after (.elseOp ⟨.zero, .zero, 0, 2⟩) (State.gang0 seat fun G => { G with nest := [(3, 1), (4, 2)] })).map
    (fun G => (stGet G.nest 0, stGet G.nest 3, stGet G.nest 4)) = some (1, 0, 2) := by decide +kernel
theorem test_endif : (after (.endif ⟨.zero, .zero, 0, 0⟩) (State.gang0 seat fun G => { G with nest := [(3, 1), (4, 2)] })).map
    (fun G => (stGet G.nest 0, stGet G.nest 3, stGet G.nest 4)) = some (0, 0, 1) := by decide +kernel
theorem test_loop : (after (.loop ⟨.zero, .zero, 0, 0⟩) (State.gang0 seat fun G => { G with nest := [(3, 1)] })).map
    (fun G => (stGet G.nest 0, stGet G.nest 3)) = some (0, 2) := by decide +kernel
theorem test_brk : (after (.brk ⟨.zero, .v 2, 1, 3⟩) (vv 1 0)).map (fun G => (stGet G.nest 0, stGet G.nest 1)) = some (1, 0) := by decide +kernel
theorem test_endloop_back : pcs (.endloop ⟨.zero, .zero, 0, 0xFFFFFFFE⟩) seat = some (List.replicate 8 (2 ^ 64 - 16)) := by decide +kernel
theorem test_regang_stops : (after (.regang ⟨7⟩) (split seat)).map (fun G => G.slices.map (·.stopped)) = some (true :: List.replicate 7 false) := by decide +kernel
theorem test_exit_ends : (after .exit seat).map (fun G => (G.stand, G.slices.any (·.live))) = some (.ended, false) := by decide +kernel
theorem test_wait_holds : pcs (.wait ⟨31, 31, 0, 31, 31, 31⟩) (State.gang0 seat fun G => { G with cnt := [0, 0, 1, 0, 0, 0] }) = some (List.replicate 8 0) := by decide +kernel
theorem test_wait_passes : pcs (.wait ⟨31, 31, 1, 31, 31, 31⟩) (State.gang0 seat fun G => { G with cnt := [0, 0, 1, 0, 0, 0] }) = some (List.replicate 8 8) := by decide +kernel
theorem test_drain_holds : pcs .drain (State.gang0 seat fun G => { G with cnt := [0, 0, 0, 0, 0, 1] }) = some (List.replicate 8 0) := by decide +kernel
theorem test_bar_alone : (next (.bar ⟨.zero, 3, 2⟩) seat).map (fun t => t.groups.map fun g => g.bars.map (·.phase)) = some [[0, 0, 1] ++ List.replicate 13 0] := by decide +kernel
theorem test_bara_divided : causeOf (.bara ⟨.zero, 3, 2⟩) (split seat) = some (1, 0, 0xF) := by decide +kernel
theorem test_barw : pcs (.barw ⟨.zero, 5, 2⟩) seat = some (List.replicate 8 8) := by decide +kernel
theorem test_qpush_undeclared : causeOf (.qpush ⟨.s 1, 3, 2⟩) seat = some (0x0A, 0, 0xFFFFFFFF) := by decide +kernel
theorem test_qpop_undeclared : causeOf (.qpop ⟨.s 1, 3, 2⟩) seat = some (0x0A, 0, 0xFFFFFFFF) := by decide +kernel
theorem test_passpri_alone : pcs .passpri seat = some (List.replicate 8 8) := by decide +kernel
theorem test_sleep : (after (.sleep ⟨.s 1⟩) (ss 5 0)).map (fun G => G.sleep) = some (List.replicate 8 6) := by decide +kernel
theorem test_ydep_no_yard : causeOf (.ydep ⟨.s 1, .v 4⟩) seat = some (0x0B, 0, 0xFFFFFFFF) := by decide +kernel
theorem test_launch : (next (.launch ⟨.s 1⟩) (ss 0x10100 0)).map (fun t => (t.ctx 0).queue.map fun q => (q.addr, q.src)) = some [(0x10100, .device)] := by decide +kernel
theorem test_launch_misaligned : causeOf (.launch ⟨.s 1⟩) (ss 0x10080 0) = some (5, 0, 0xFFFFFFFF) := by decide +kernel
theorem test_postr : memAt (.postr ⟨.sp .lane⟩) { seat with nodes := seat.nodes.map fun n => { n with lr := { n.lr with result := 0x10040 } } } 0x30040 4 = some 0 := by decide +kernel
theorem test_trap : causeOf (.trap ⟨0xBEEF⟩) seat = some (0xBEEF0011, 0, 0xFFFFFFFF) := by decide +kernel
theorem test_eret : pcs .eret (State.gang0 (super seat) fun G => { G with aside := G.slices, slices := G.slices.map fun sl => { sl with epc := 0x40 } })
    = some (List.replicate 8 0x40) := by decide +kernel
theorem test_eret_privileged : causeOf .eret seat = some (4, 0, 0xFFFFFFFF) := by decide +kernel
theorem test_crd_promoint : sAt (.crd ⟨.s 3, 0x14⟩) (super seat) 3 = some 16 := by decide +kernel
theorem test_cwr_trapvec : (next (.cwr ⟨.s 1, 2⟩) (super (ss 0x100 0))).map (fun t => (t.ctx 0).trapvec.toNat) = some 0x100 := by decide +kernel

theorem test_ld_sign : sAt (.ld ⟨.s 6, .sp .zero, .s 1, 0, 1, 4⟩) (crawl (State.put (ss 0x10000 0) 0x30004 1 0x80)) 6 = some 0xFFFFFFFFFFFFFF80 := by decide +kernel
/-- Lanes whose address is not a multiple of 4 raise ALIGN; the others load (R225). -/
theorem test_ld_lanes_align : causeOf (.ld ⟨.v 6, .sp .lane, .s 1, 2, 0, 0⟩) (crawl (ss 0x10000 0)) = some (5, 0, 0xEEEEEEEE)
    ∧ vAt (.ld ⟨.v 6, .sp .lane, .s 1, 2, 0, 0⟩) (crawl (State.put (ss 0x10000 0) 0x30000 8 0x1122334455667788)) 6 4 = some 0x11223344 := by
  constructor <;> decide +kernel
theorem test_st_bytes : memAt (.st ⟨.s 2, .sp .zero, .s 1, 1, 0, 0xFFFE⟩) (crawl (ss 0x10002 0xAABBCCDD)) 0x2FFFE 8 = some 0xCCDD0000 := by decide +kernel
theorem test_st_code_page : causeOf (.st ⟨.s 2, .sp .zero, .s 1, 2, 0, 0⟩) (crawl (ss 0 1)) = some (0x0207, 0, 0xFFFFFFFF) := by decide +kernel
theorem test_atom_add : memAt (.atom ⟨.s 2, .sp .zero, .s 1, 2, 1, 0⟩) (State.put (ss 0x10000 1) 0x30000 4 41) 0x30000 4 = some 42 := by decide +kernel
theorem test_cas_misses : memAt (.cas ⟨.v 6, .sp .zero, .s 1, 2, 0, 0⟩) (State.put (ss 0x10000 0) 0x30000 4 41) 0x30000 4 = some 41 := by decide +kernel
theorem test_red_counts : (after (.red ⟨.s 2, .sp .zero, .s 1, 2, 0, 0⟩) (ss 0x10000 1)).map (·.cnt) = some [0, 0, 0, 0, 0, 1] := by decide +kernel
theorem test_pref : pcs (.pref ⟨.zero, .sp .zero, .s 1, 0, 0, 0⟩) (ss 0x10000 0) = some (List.replicate 8 8) := by decide +kernel
theorem test_clean : pcs (.clean ⟨.s 1, .s 2, 5⟩) (ss 0x10000 128) = some (List.replicate 8 8) := by decide +kernel
theorem test_inval : pcs (.inval ⟨.s 1, .s 2, 4⟩) (ss 0x10000 0) = some (List.replicate 8 8) := by decide +kernel
theorem test_xlate_prot : (after (.xlate ⟨3, .s 1⟩) (crawl (ss (2 ^ 57) 0))).map (fun G => (G.super, G.trapmask)) = some (true, 0xFFFFFFFF) := by decide +kernel
theorem test_cpy_lin : (next (.cpy ⟨.s 1, .s 2, .s 3, .zero, 0, 0, 0⟩) (State.scal (ss 0x10000 0x40000) 3 8)).map (fun t => t.ops.map fun o => (o.cls, o.elems.length)) = some [(0, 2)] := by decide +kernel
theorem test_cpym_length : causeOf (.cpym ⟨.s 1, .s 2, 0⟩) (ss 0x10000 0) = some (0x0B, 0, 0xFFFFFFFF) := by decide +kernel
theorem test_pgmap : sAt (.pgmap ⟨.s 3, .s 1⟩) (super (ss 0x30000 0)) 3 = some 0 := by decide +kernel
theorem test_pginv : (next (.pginv ⟨.s 1, .s 2⟩) (super (ss 0 0))).map (·.tlb) = some [] := by decide +kernel
theorem test_pgattr : memAt (.pgattr ⟨.s 3, .s 1, .s 2⟩) (super (ss 0x10000 0x8)) 0x18010 8 = some 0x30009 := by decide +kernel
theorem test_lineclr : memAt (.lineclr ⟨.s 3, .s 1⟩) (super (State.put (ss 0x10084 0) 0x300FC 8 (2 ^ 64 - 1))) 0x300FC 8 = some 0xFFFFFFFF00000000 := by decide +kernel

theorem test_mscl : (next (.mscl ⟨.s 1, .s 2, .s 3, .zero, 0⟩) (State.scal (ss 0x20000 512) 3 0x40000000)).map (fun t => t.ops.map fun o => (o.cls, o.elems)) = some [(2, [.tile 0x20000, .tile 0x20100])] := by decide +kernel
theorem test_mclp_order : causeOf (.mclp ⟨.s 1, .s 2, .s 3, .sp .zero, 0⟩) (State.scal (ss 0x20000 256) 3 0x3F800000) = some (1, 0, 0xFFFFFFFF) := by decide +kernel
theorem test_mofs_unmapped : causeOf (.mofs ⟨.s 1, .s 2, .sp .zero, .zero, 0⟩) (ss 0x10000 256) = some (7 + 0x0200, 0x10000, 0xFFFFFFFF) := by decide +kernel
/-- The header that R274 reads back. -/
theorem test_mget : (after (.mget ⟨.s 20, .s 1⟩) (State.put (State.put (State.put (ss 0x20110 0) 0x50020 8 0x40000000) 0x50028 8 0x40400000BF800000)
    0x50030 8 0x0002000100000000)).map (fun G => [20, 21, 22, 23].map fun n => (G.getS n).toNat)
    = some [0x40000000, 0x40400000BF800000, 0x0002000100000000, 0] := by decide +kernel

theorem test_mma_no_slot : causeOf (.mma ⟨.s 1, .s 2, 0, false, 0, 1, 0, 0, 0, false⟩) seat = some (1, 0, 0xFFFFFFFF) := by decide +kernel
theorem test_accz_queues : (next (.accz ⟨.zero, .zero, 0, true, 0, 0, 0, 0, 0, true⟩) seat).map (fun t => (t.part 0).mq.map fun o => (o.kind, o.gang)) = some [(2, 0)] := by decide +kernel
theorem test_bkm : (next .bkm seat).map (fun t => tabGet t.epochs 0 0) = some 1 := by decide +kernel
theorem test_kvpop_no_pool : (next (.kvpop ⟨.s 1, .zero, .zero, .zero, 0, false, 0⟩) (super seat)).map (fun t => t.gangEnded 0) = some true := by decide +kernel

/-! ### Ill-formed instructions

One term for each check of `Instr.wf` (R55, R59, R61 and the entries' own limits): every one is refused. -/
theorem test_wf_refuses_arithmetic : ([
    .iadd ⟨.v 1, .v 2, .v 3, .v 4, .mode, false, 0, 0, 0, 0⟩, .iadd (x3 (.v 1) (.v 2) (.v 3) .zero .rn), .and (x3 (.v 1) (.v 2) (.v 3) .zero .mode true),
    .iadd ⟨.v 1, .v 2, .v 3, .zero, .mode, false, 1, 0, 0, 0⟩, .iadd ⟨.v 1, .v 2, .v 3, .zero, .mode, false, 0, 4, 0, 0⟩,
    .fadd ⟨.v 1, .v 2, .v 3, .zero, .mode, false, 0, 0, 1, 0⟩, .iadd (x3 (.v 1) (.v 2) (.v 3) .zero .mode false 1), .iadd (x3 (.s 1) (.v 2) (.s 3)),
    .iadd (x3 (.s 1) (.s 2) (.v 3)), .imad (x3 (.s 1) (.s 2) (.s 3) (.v 4)), .vote (x3 (.s 1) (.v 2) .zero), .bcast (x3 (.v 1) (.v 2) (.v 3)),
    .dbq (x3 (.v 1) (.s 2) .zero), .dbq (x3 (.sp .lane) (.v 2) .zero), .popc (x3 (.v 1) (.v 2) (.v 3)),
    .movi ⟨.v 1, .v 2, 0, 0⟩, .movi ⟨.v 1, .zero, 0, 2⟩, .movi ⟨.s 1, .zero, 0, 3⟩, .andi ⟨.v 1, .v 2, 0, 2⟩, .shifti ⟨.v 1, .v 2, 32, 0⟩, .shifti ⟨.s 1, .s 2, 1, 4⟩,
    .iaddi ⟨.v 1, .v 2, 0, 1⟩, .iaddi ⟨.s 1, .v 2, 0, 0⟩] : List Instr).all (fun i => !i.wf) = true := by decide +kernel
theorem test_wf_refuses_conversions_and_pairs : ([
    .cvt ⟨.v 1, .v 2, .zero, 5, 1, .mode, false, 0⟩, .cvt ⟨.v 1, .v 2, .zero, 1, 0xD, .mode, false, 0⟩, .cvt ⟨.v 1, .v 2, .v 3, 3, 2, .mode, false, 0⟩,
    .cvt ⟨.v 1, .v 2, .zero, 9, 9, .mode, false, 0⟩, .cvt ⟨.v 1, .v 2, .v 3, 2, 1, .mode, false, 2⟩, .cvt ⟨.v 1, .v 2, .zero, 1, 9, .mode, true, 0⟩,
    .cvt ⟨.v 1, .v 2, .v 3, 1, 9, .mode, false, 0⟩, .cvt ⟨.s 1, .v 2, .zero, 1, 9, .mode, false, 0⟩, .cvt ⟨.s 1, .s 2, .v 3, 2, 1, .mode, false, 0⟩,
    .cvts ⟨.v 1, .v 2, .v 3, true, .mode, 0, 0⟩, .cvts ⟨.s 1, .v 2, .s 3, false, .mode, 0, 0⟩, .cvts ⟨.s 1, .s 2, .v 3, false, .mode, 0, 0⟩,
    .iaddHalf ⟨.v 1, .v 2, .rn⟩ ⟨.iadd, ⟨.v 130, .v 131, .mode⟩⟩, .iaddHalf ⟨.s 1, .v 2, .mode⟩ ⟨.iadd, ⟨.v 130, .v 131, .mode⟩⟩,
    .iaddHalf ⟨.v 1, .v 2, .mode⟩ ⟨.iadd, ⟨.v 3, .v 131, .mode⟩⟩, .iaddHalf ⟨.s 1, .s 2, .mode⟩ ⟨.iadd, ⟨.s 1, .s 3, .mode⟩⟩,
    .iaddHalf ⟨.v 1, .v 2, .mode⟩ ⟨.iadd, ⟨.v 130, .v 3, .mode⟩⟩] : List Instr).all (fun i => !i.wf) = true := by decide +kernel
theorem test_wf_refuses_memory : ([
    .ld ⟨.v 1, .v 2, .xt 0, 5, 0, 0⟩, .ld ⟨.v 1, .v 3, .pair, 2, 0, 0⟩, .ld ⟨.v 1, .s 2, .pair, 2, 0, 0⟩, .ld ⟨.s 1, .s 2, .xt 0, 4, 0, 0⟩, .ld ⟨.v 1, .v 2, .xt 0, 2, 1, 0⟩,
    .st ⟨.s 1, .s 2, .xt 0, 4, 0, 0⟩, .st ⟨.v 1, .v 2, .xt 0, 0, 1, 0⟩, .atom ⟨.v 1, .v 2, .xt 0, 1, 0, 0⟩, .red ⟨.v 1, .v 2, .xt 0, 4, 0, 0⟩, .cas ⟨.v 1, .v 2, .xt 0, 0, 0, 0⟩,
    .cas ⟨.v 1, .v 2, .xt 0, 2, 2, 0⟩, .smrg ⟨.v 1, .sp .zero, .s 1, 3, 0, 0⟩, .smrg ⟨.v 1, .v 2, .s 1, 2, 0, 0⟩, .smrg ⟨.s 1, .sp .zero, .s 1, 2, 0, 0⟩,
    .smrg ⟨.sp .zero, .sp .zero, .s 1, 2, 0, 0⟩, .smrg ⟨.v 1, .sp .zero, .xt 1, 2, 0, 0⟩, .pref ⟨.zero, .v 2, .xt 0, 2, 1, 0⟩, .pref ⟨.v 1, .v 2, .xt 0, 2, 0, 0⟩,
    .ld ⟨.s 1, .v 2, .xt 0, 2, 0, 0⟩, .clean ⟨.v 1, .s 2, 4⟩, .clean ⟨.s 1, .v 2, 4⟩, .inval ⟨.s 1, .s 2, 3⟩, .xlate ⟨0, .v 1⟩,
    .cpy ⟨.v 1, .s 2, .s 3, .zero, 0, 0, 0⟩, .cpy ⟨.s 1, .s 2, .s 3, .zero, 5, 0, 0⟩, .cpy ⟨.s 1, .s 2, .s 3, .s 4, 0, 0, 0⟩, .cpy ⟨.s 1, .s 2, .s 3, .v 4, 1, 0, 0⟩,
    .cpy ⟨.s 1, .s 2, .s 3, .s 4, 3, 3, 0⟩, .cpy ⟨.s 1, .s 2, .s 3, .s 4, 1, 1, 0⟩, .cpym ⟨.v 1, .s 2, 0⟩, .cpym ⟨.s 1, .v 2, 0⟩] : List Instr).all (fun i => !i.wf) = true := by decide +kernel
theorem test_wf_refuses_control : ([
    .br ⟨.s 1, .zero, 0, 1⟩, .br ⟨.zero, .s 1, 0, 1⟩, .br ⟨.zero, .zero, 1, 1⟩, .brc ⟨.zero, .v 1, 0, 1⟩, .brc ⟨.zero, .s 1, 6, 1⟩, .brs ⟨.zero, .v 1, 7, 1⟩,
    .jmpi ⟨.zero, .v 1, 0, 0⟩, .jmpi ⟨.zero, .s 1, 0, 1⟩, .ret ⟨.zero, .s 1, 1, 0⟩, .call ⟨.v 1, .zero, 0, 1⟩, .call ⟨.s 1, .s 2, 0, 1⟩, .call ⟨.s 1, .s 2, 1, 1⟩, .call ⟨.s 1, .v 2, 1, 0⟩,
    .call ⟨.s 1, .s 2, 2, 0⟩, .ifOp ⟨.zero, .v 1, 6, 1⟩, .brk ⟨.s 1, .v 1, 0, 1⟩, .elseOp ⟨.zero, .v 1, 0, 1⟩, .elseOp ⟨.zero, .zero, 1, 1⟩, .endloop ⟨.zero, .v 1, 0, 1⟩,
    .endif ⟨.zero, .zero, 0, 1⟩, .loop ⟨.zero, .zero, 0, 1⟩, .waitge ⟨.v 1, .s 2, .s 3⟩, .waitge ⟨.s 1, .sp .lane, .s 3⟩, .waitge ⟨.s 1, .s 2, .sp .zero⟩,
    .sleep ⟨.v 1⟩, .ydep ⟨.v 1, .s 4⟩, .ydep ⟨.v 1, .sp .lane⟩, .launch ⟨.v 1⟩, .launch ⟨.sp .zero⟩, .bara ⟨.zero, 4, 0⟩, .bar ⟨.zero, 5, 8⟩, .barw ⟨.s 1, 3, 0⟩,
    .qpush ⟨.s 1, 2, 0⟩, .qpush ⟨.s 1, 6, 0⟩, .qpush ⟨.v 1, 3, 0⟩, .qpop ⟨.s 1, 7, 0⟩, .qpop ⟨.v 1, 3, 0⟩, .crd ⟨.v 1, 0⟩, .crd ⟨.s 1, 6⟩, .crd ⟨.s 1, 0x60⟩,
    .cwr ⟨.v 1, 0⟩, .cwr ⟨.s 1, 1⟩] : List Instr).all (fun i => !i.wf) = true := by decide +kernel
theorem test_wf_refuses_commands : ([
    .mscl ⟨.v 1, .s 2, .s 3, .zero, 0⟩, .mscl ⟨.s 1, .v 2, .s 3, .zero, 0⟩, .mscl ⟨.s 1, .s 2, .v 3, .zero, 0⟩, .mscl ⟨.s 1, .s 2, .s 3, .s 4, 0⟩, .mscl ⟨.s 1, .s 2, .s 3, .zero, 1⟩,
    .mset ⟨.s 1, .s 2, .s 3, .zero, 0⟩, .mset ⟨.s 1, .s 2, .s 4, .zero, 2⟩, .mmat ⟨.s 1, .s 2, .s 3, .zero, 0⟩, .mclp ⟨.s 1, .s 2, .s 3, .v 4, 0⟩, .mget ⟨.s 3, .s 2⟩, .mget ⟨.s 4, .v 2⟩,
    .kvldk ⟨.s 4, .s 1, .s 2, .zero, 0, false, 0⟩, .kvldk ⟨.v 4, .v 1, .s 2, .zero, 0, false, 0⟩, .kvldk ⟨.v 4, .s 1, .v 2, .zero, 0, false, 0⟩, .kvldk ⟨.v 4, .s 1, .s 2, .v 3, 0, false, 0⟩,
    .kvldv ⟨.v 4, .s 1, .s 2, .zero, 0, false, 2⟩, .kvldk ⟨.v 4, .s 1, .s 2, .v 4, 0, true, 0⟩, .kvldk ⟨.v 4, .s 1, .s 2, .v 5, 0, true, 1⟩, .kvldk ⟨.v 4, .s 1, .s 2, .s 5, 0, true, 1⟩,
    .kvapp ⟨.v 1, .s 2, .s 3, .zero, 0, false, 0⟩, .kvapp ⟨.s 1, .s 2, .s 3, .s 4, 0, false, 0⟩, .kvapp ⟨.s 1, .s 2, .s 3, .zero, 1, false, 0⟩, .kvapp ⟨.s 1, .s 2, .s 3, .zero, 0, true, 0⟩,
    .kvdrop ⟨.s 1, .s 2, .zero, .zero, 0, false, 0⟩, .kvfork ⟨.s 1, .s 2, .s 3, .zero, 0, false, 0⟩, .bkl ⟨.v 1, .s 2, .s 3⟩, .bktZero ⟨.s 1, .v 2, .s 3⟩, .bktIdot ⟨.s 1, .s 2, .v 3⟩, .bkir ⟨.v 1, .s 2, .s 3⟩,
    .mma ⟨.v 1, .s 2, 0, false, 0, 0, 0, 0, 0, false⟩, .mmas ⟨.s 1, .s 2, 4, false, 0, 0, 0, 0, 0, false⟩, .accz ⟨.s 1, .zero, 0, false, 0, 0, 0, 0, 0, false⟩,
    .accz ⟨.zero, .zero, 0, false, 1, 0, 0, 0, 0, false⟩, .accrd ⟨.s 1, .zero, 0, false, 0, 0, 0, 0, 0, false⟩, .accwr ⟨.zero, .v 32, 0, false, 1, 0, 0, 0, 0, false⟩, .accwr ⟨.zero, .s 3, 0, false, 0, 0, 0, 0, 0, false⟩,
    .accst ⟨.v 1, .zero, 0, false, 0, 0, 0, 0, 0, false⟩, .accst ⟨.s 1, .zero, 1, false, 0, 0, 0, 0, 0, false⟩, .mma ⟨.s 1, .s 2, 0, false, 0, 0, 1, 0, 0, false⟩, .mma ⟨.s 1, .s 2, 0, false, 0, 0, 0, 1, 0, false⟩,
    .promo ⟨.zero, .zero, 0, false, 0, 0, 0, 0, 0, false⟩, .promo ⟨.zero, .zero, 0, false, 0, 0, 0, 0, 65, false⟩, .accz ⟨.zero, .zero, 0, false, 0, 0, 0, 0, 1, false⟩, .mma ⟨.s 1, .s 2, 0, false, 0, 0, 0, 0, 0, true⟩,
    .pgmap ⟨.v 1, .s 2⟩, .pginv ⟨.s 1, .v 2⟩, .pgattr ⟨.s 1, .s 2, .v 3⟩, .lineclr ⟨.s 1, .v 2⟩] : List Instr).all (fun i => !i.wf) = true := by decide +kernel
/-- A device step is no word. -/
theorem test_wf_refuses_events : ([.clockCount, .trapEntry 0, .tailCommit 0, .submit 0 0, .unitReady .link, .placeGroup [], .fundamentalReset] : List Instr).all (fun i => !i.wf) = true := by decide +kernel

/-! ### Witnesses: states and operands that meet the hypotheses of the statements

Where a hypothesis names the two parts of a result, the witness takes the parts of that very result. A witness of several parts
has one for each clause of its statement. -/

theorem witness_DecodeInvertsEncode : ∃ i : Instr, i.wf = true ∧ i ≠ .nop := ⟨.iaddi ⟨.s 1, .s 1, 5, 0⟩, by decide, by decide⟩

/-- A word fetched on a plain page, an event, a word of a bank core: what each clause of StepRunsDecoded asks. -/
def fetching : State := { seat with agenda := [.slot 0] }
theorem witness_StepRunsDecoded_slot : fetching.agenda = .slot 0 :: [] ∧ fetching.slotUsed 0 = false
    ∧ ({ fetching with agenda := [], cur := .none, blocked := false } : State).pick 0 = some 0
    ∧ Meets { fetching with agenda := [], blocked := false } fun G gr iss =>
        (({ fetching with agenda := [], blocked := false } : State).fetch G gr iss).1 = .word 0 ∧ G.midway = none ∧ G.deferred = []
          ∧ decode 0 = .ok .nop ∧ G.replays iss.frag = false :=
  ⟨by decide +kernel, by decide +kernel, by decide +kernel, meets _ _ (by decide +kernel)⟩
theorem witness_StepRunsDecoded_page : Meets seat fun G gr iss => seat.check1 G.grp iss.pc.toNat = true ∧ iss.pc.toNat % 8 = 0
    ∧ (let r := seat.resolve G.part gr.ctx G.grp iss.pc.toNat false true false
       (match r.1 with | .ok x => decide (r.2.held x.pa 8 = false ∧ x.leaf.mapped = false ∧ leafDiscard r.2.mem x.leaf = false ∧ isFar x.pa = false
          ∧ ((List.range 8).all fun k => !r.2.isPoisoned ((x.pa + k) / 4)) = true ∧ r.2.codeOld = []) | .error _ => false) = true) :=
  meets _ _ (by decide +kernel)
theorem witness_StepRunsDecoded_event : ({ seat with agenda := [.event .clockCount, .event .nop] } : State).agenda = .event .clockCount :: [.event .nop]
    ∧ (Instr.clockCount).fields = [] ∧ (Instr.nop).fields ≠ [] := by decide +kernel

theorem witness_StepRunsDecoded_bank : banking.agenda = .bankSlot 0 :: [] ∧ banking.running 0 = some 0 ∧ banking.items[0]? = some bankItem
    ∧ bankItem.kern = some kern ∧ kern.late = [] ∧ kern.ahead = [] ∧ banking.cmd bankItem.cmd = some bankCmd ∧ bankCmd.held = true ∧ banking.bankOffline 0 = false ∧ kern.pc.toNat % 8 = 0
    ∧ 0x10000 ≤ kern.pc.toNat ∧ ([0, 0, 0] : List DWord)[(kern.pc.toNat - 0x10000) / 8]? = some 0 ∧ decode 0 = .ok .nop := by decide +kernel

theorem tidy_fetching : Memory.wf fetching.mem = true := by decide +kernel
theorem witness_EveryStepKeepsMemoryTidy : Memory.wf fetching.mem = true ∧ (∃ t, step fetching = .next t) := by
  exact ⟨tidy_fetching, goes _ (by decide +kernel)⟩

theorem witness_IntegerInstructions : ∃ o, intTable (.iadd (x3 (.v 3) (.v 2) (.sp .lane))) = some o ∧ (Instr.iadd (x3 (.v 3) (.v 2) (.sp .lane))).wf = true
    ∧ Meets seat fun G _ i => o.ok i = true ∧ Operable o.uses i G ∧ Roomy seat 0 G o.uses := ⟨_, rfl, by decide, meets _ _ (by decide +kernel)⟩
theorem witness_Fp32Instructions : ∃ o, fpTable (.fadd (x3 (.s 3) (.s 2) (.sp .zero))) = some o ∧ (Instr.fadd (x3 (.s 3) (.s 2) (.sp .zero))).wf = true
    ∧ Meets seat fun G _ i => o.ok i = true ∧ Operable o.uses i G ∧ Roomy seat 0 G o.uses := ⟨_, rfl, by decide, meets _ _ (by decide +kernel)⟩
theorem witness_PackedAndFp64Instructions : ∃ o, packedTable (.dcmp (x3 (.v 3) (.v 2) (.v 4))) = some o ∧ (Instr.dcmp (x3 (.v 3) (.v 2) (.v 4))).wf = true
    ∧ Meets seat fun G _ i => o.ok i = true ∧ Operable o.uses i G ∧ Roomy seat 0 G o.uses := ⟨_, rfl, by decide, meets _ _ (by decide +kernel)⟩
theorem witness_Conversions : ∃ o, convertTable (.dbq (x3 (.v 3) (.v 2) .zero)) = some o ∧ (Instr.dbq (x3 (.v 3) (.v 2) .zero)).wf = true
    ∧ Meets db4 fun G _ i => o.ok i = true ∧ Operable o.uses i G ∧ Roomy db4 0 G o.uses := ⟨_, rfl, by decide, meets _ _ (by decide +kernel)⟩
theorem witness_CrossLaneInstructions : ∃ o, crossTable (.shfl (x3 (.v 3) (.v 2) (.s 4))) = some o ∧ (Instr.shfl (x3 (.v 3) (.v 2) (.s 4))).wf = true
    ∧ Meets seat fun G _ i => o.ok i = true ∧ Operable o.uses i G ∧ Roomy seat 0 G o.uses := ⟨_, rfl, by decide, meets _ _ (by decide +kernel)⟩

/-- The pair that P1 uses (R65). -/
def halfA : Half := ⟨.fmax, ⟨.v 2, .v 3, .mode⟩⟩
def halfB : Half := ⟨.iadd, ⟨.v 130, .v 131, .mode⟩⟩
theorem witness_PairWords : ∃ o p, halfTable halfA = some o ∧ halfTable halfB = some p ∧ (pairInstr halfA halfB).wf = true
    ∧ Meets seat fun G _ i => Operable (halfUses halfA ++ halfUses halfB) i G ∧ Roomy seat 0 G (halfUses halfA ++ halfUses halfB) :=
  ⟨_, _, rfl, rfl, by decide, meets _ _ (by decide +kernel)⟩
theorem witness_ShiftsBySpec : ∃ x, shiftArgs (.rol (x3 (.v 3) (.v 2) (.v 4))) = some x ∧ (Instr.rol (x3 (.v 3) (.v 2) (.v 4))).wf = true
    ∧ Meets seat fun G _ i => Operable [Use.w x.d, Use.r x.a, Use.r x.b] i G ∧ Roomy seat 0 G [Use.w x.d, Use.r x.a, Use.r x.b] :=
  ⟨_, rfl, by decide, meets _ _ (by decide +kernel)⟩
theorem witness_Comparisons : ∃ c, comparison (.fcmp (x3 (.s 3) (.s 1) (.s 2))) = some c ∧ (Instr.fcmp (x3 (.s 3) (.s 1) (.s 2))).wf = true
    ∧ Meets seat fun G _ i => Operable c.uses i G ∧ Roomy seat 0 G c.uses := ⟨_, rfl, by decide, meets _ _ (by decide +kernel)⟩

theorem witness_BranchesJump : Meets seat fun G _ i => Roomy seat 0 G [] ∧ Operable [Use.r (.s 1)] i G
    ∧ Operable [Use.w (.s 2), Use.r (.s 1)] i G ∧ Roomy seat 0 G [Use.w (.s 2)] := meets _ _ (by decide +kernel)
theorem witness_BrsSplitsFragments : Meets seat fun G _ i => Operable [Use.r (.v 2)] i G ∧ Roomy seat 0 G [] := meets _ _ (by decide +kernel)
/-- A counter at 255 in lane 3 and one at 0 in every other lane. -/
def deep : State := State.gang0 seat fun G => { G with nest := [(3, 255)] }
def deepCrawl : State := crawl deep
theorem witness_NestingCounters : (∀ c n, (nestTable (.elseOp ⟨.zero, .zero, 0, 1⟩) c n).isSome = true)
    ∧ Meets seat fun G _ i => Operable (nestUses (.elseOp ⟨.zero, .zero, 0, 1⟩)) i G ∧ Roomy seat 0 G []
        ∧ ∀ l n, InFrag i.frag l → nestTable (.elseOp ⟨.zero, .zero, 0, 1⟩) false (G.counter l) = some n → n ≤ 255 := by
  refine ⟨fun _ _ => rfl, (meets seat (fun G _ i => Operable (nestUses (.elseOp ⟨.zero, .zero, 0, 1⟩)) i G ∧ Roomy seat 0 G [] ∧ G.nest = [])
    (by decide +kernel)).imp fun G gr i h => ⟨h.1, h.2.1, fun l n _ e => ?_⟩⟩
  have hz : G.counter l = 0 := by unfold Gang.counter; rw [h.2.2]; rfl
  rw [hz] at e
  have : 1 = n := Option.some.inj e
  omega
/-- Lanes 0 to 31 of a mask, checked one by one. -/
def laneCheck (m : BitVec 32) (f : BitVec 8) (G : Gang) : Bool :=
  (List.range 32).all fun l => m.getLsbD l == (f.getLsbD (l / 4) && decide (G.counter l = 255))
theorem laneCheck_sound {m : BitVec 32} {f : BitVec 8} {G : Gang} (h : laneCheck m f G = true) :
    ∀ l, m.getLsbD l = true ↔ InFrag f l ∧ G.counter l = 255 := by
  intro l
  unfold InFrag
  by_cases hl : l < 32
  · have := List.all_eq_true.mp h l (List.mem_range.mpr hl)
    simp only [beq_iff_eq] at this
    rw [this]; simp [hl]
  · constructor
    · intro e; rw [BitVec.getLsbD_of_ge _ _ (by omega)] at e; cases e
    · intro e; exact absurd e.1.1 hl
theorem witness_NestingOverflowTraps : (8 : BitVec 32) ≠ 0
    ∧ (Meets deepCrawl fun G gr i => Operable (nestUses (.loop ⟨.zero, .zero, 0, 0⟩)) i G
        ∧ Roomy deepCrawl 0 G [] ∧ (∀ l, (8 : BitVec 32).getLsbD l = true ↔ InFrag i.frag l ∧ G.counter l = 255)
        ∧ G.crawl = true ∧ G.tail = none ∧ G.super = false ∧ VectorRuns deepCrawl G gr)
    ∧ Meets deep fun G _ i => Operable (nestUses (.loop ⟨.zero, .zero, 0, 0⟩)) i G ∧ Roomy deep 0 G []
        ∧ (∀ l, (8 : BitVec 32).getLsbD l = true ↔ InFrag i.frag l ∧ G.counter l = 255) ∧ G.crawl = false ∧ G.tail = none :=
  ⟨by decide, (meets deepCrawl (fun G gr i => Operable (nestUses (.loop ⟨.zero, .zero, 0, 0⟩)) i G ∧ Roomy deepCrawl 0 G [] ∧ laneCheck 8 i.frag G = true
        ∧ G.crawl = true ∧ G.tail = none ∧ G.super = false ∧ VectorRuns deepCrawl G gr) (by decide +kernel)).imp
      fun _ _ _ h => ⟨h.1, h.2.1, laneCheck_sound h.2.2.1, h.2.2.2⟩,
    (meets deep (fun G _ i => Operable (nestUses (.loop ⟨.zero, .zero, 0, 0⟩)) i G ∧ Roomy deep 0 G [] ∧ laneCheck 8 i.frag G = true
        ∧ G.crawl = false ∧ G.tail = none) (by decide +kernel)).imp fun _ _ _ h => ⟨h.1, h.2.1, laneCheck_sound h.2.2.1, h.2.2.2⟩⟩
theorem witness_RegangStopsAndJoins : Meets (split seat) fun G _ _ => Roomy (split seat) 0 G [] := meets _ _ (by decide +kernel)
/-- With other slices that live, and with the gang's last ones. -/
theorem witness_ExitEndsSlices : (Meets (split seat) fun G _ i => Calm G ∧ i.frag = 1) ∧ Meets seat fun G _ i => Calm G ∧ i.frag = 0xFF :=
  ⟨meets _ _ (by decide +kernel), meets _ _ (by decide +kernel)⟩
/-- A pair whose slot A names a bad register, and a privileged word of which no operand is in order. -/
def halfBad : Half := ⟨.fmax, ⟨.v 2, .bad 700, .mode⟩⟩
theorem witness_FailedChecksTrap_user : (Meets seat fun G gr _ => Calm G ∧ G.super = false ∧ VectorRuns seat G gr ∧ G.deferred = [])
    ∧ decode 0x1500000000000000 = .error .illop ∧ decode 0x8000000000000001 = .error .illpair ∧ privilegedUses .eret = some []
    ∧ (∃ o, regTable (.iadd (x3 (.v 3) (.bad 5) (.v 2))) = some o ∧ (Instr.iadd (x3 (.v 3) (.bad 5) (.v 2))).wf = true
        ∧ Meets seat fun _ _ i => o.ok i = true ∧ ∃ u ∈ o.uses, u.bad i = true)
    ∧ (Meets seat fun _ _ i => ∃ u ∈ halfUses halfBad ++ halfUses halfB, u.bad i = true)
    ∧ Meets seat fun _ _ i => positions i (.ld ⟨.bad 700, .sp .zero, .s 1, 3, 0, 8⟩) = some (dataUse (.bad 700) 3 true :: addrUses ⟨.bad 700, .sp .zero, .s 1, 3, 0, 8⟩)
        ∧ ∃ u ∈ dataUse (.bad 700) 3 true :: addrUses ⟨.bad 700, .sp .zero, .s 1, 3, 0, 8⟩, u.bad i = true :=
  ⟨meets _ _ (by decide +kernel), by decide +kernel, by decide +kernel, rfl, ⟨_, rfl, by decide, meets _ _ (by decide +kernel)⟩,
    meets _ _ (by decide +kernel), ⟨_, _, _, rfl, rfl, by decide +kernel⟩⟩
theorem witness_TrapEntry : seat.gangs[0]? = some (theGang seat) ∧ (theGang seat).super = false
    ∧ ∃ gr, seat.groups[(theGang seat).grp]? = some gr ∧ VectorRuns seat (theGang seat) gr := by
  refine ⟨by decide +kernel, by decide +kernel, (seat.groups[0]?).get (by decide +kernel), by decide +kernel, by decide +kernel⟩
/-- A gang in its handler, with an error log of 64 records at 0x60000. -/
def handler : State := (super seat).updCtx 0 fun c => { c with errlog := 0x60001 }
/-- Its group has this one gang, whose group it is. -/
theorem alone : ∃ gr, handler.groups[(theGang handler).grp]? = some gr ∧ gr.members = [0] := ⟨(handler.groups[0]?).get (by decide +kernel), by decide +kernel, by decide +kernel⟩
theorem alone_all {gr : Group} (h : gr.members = [0]) : ∀ m M, m ∈ gr.members → handler.gangs[m]? = some M → M.grp = (theGang handler).grp := by
  intro m M hm hM
  rw [h] at hm
  have : m = 0 := by simpa using hm
  subst this
  have h1 : handler.gangs[0]? = some (theGang handler) := by decide +kernel
  rw [h1] at hM
  rw [← Option.some.inj hM]
theorem witness_FailedChecksTrap_super : privilegedUses (.cwr ⟨.bad 700, 0x04⟩) = some [Use.r (.bad 700)]
    ∧ Meets handler fun G gr i => Calm G ∧ G.super = true ∧ G.stand = .resident ∧ 0 ∈ gr.members
        ∧ (∀ m M, m ∈ gr.members → handler.gangs[m]? = some M → M.grp = G.grp) ∧ ∃ u ∈ [Use.r (.bad 700)], u.bad i = true := by
  refine ⟨rfl, (meets handler (fun G gr i => Calm G ∧ G.super = true ∧ G.stand = .resident ∧ gr.members = [0] ∧ G.grp = (theGang handler).grp
    ∧ ∃ u ∈ [Use.r (.bad 700)], u.bad i = true) (by decide +kernel)).imp fun G gr i h => ?_⟩
  obtain ⟨a, b, c, d, e, f⟩ := h
  exact ⟨a, b, c, by rw [d]; decide, by rw [e]; exact alone_all d, f⟩
theorem witness_DoubleTrapEndsGroup : handler.gangs[0]? = some (theGang handler) ∧ (theGang handler).super = true ∧ (theGang handler).stand = .resident
    ∧ ∃ gr, handler.groups[(theGang handler).grp]? = some gr ∧ 0 ∈ gr.members ∧ (∀ m M, m ∈ gr.members → handler.gangs[m]? = some M → M.grp = (theGang handler).grp)
      ∧ (handler.ctx gr.ctx).errlog.getLsbD 0 = true ∧ handler.logq = [] ∧ handler.held 0x60000 8 = false ∧ handler.held 0x60040 32 = false := by
  refine ⟨by decide +kernel, by decide +kernel, by decide +kernel, (handler.groups[0]?).get (by decide +kernel), by decide +kernel, by decide +kernel,
    alone_all (by decide +kernel), by decide +kernel⟩
/-- In the handler of a fault of its fragment at address 0, whose report names the lanes of `m`: with the EPCs at `epc`, for an
instruction that acts once or in lanes. -/
def returning (m : DWord) (epc : DWord) (once : Bool) : State :=
  State.gang0 (super seat) fun G =>
    { G with slices := G.slices.map (fun sl => { sl with epc := epc }), aside := G.slices, faultSlices := 0xFF, trapmask := m, faultOnce := once }
theorem atTrap_of {G : Gang} {k : Nat} (f : G.faultSlices.getLsbD k = true) (h : ((G.slices[k]?).any fun C => C.live && C.epc == G.trapaddr) = true) : AtTrap G k := by
  refine ⟨f, ?_⟩
  cases e : G.slices[k]? with
  | none => rw [e] at h; cases h
  | some C => rw [e] at h; exact ⟨C, rfl, by simpa using h⟩
/-- A replay in lanes, one of an instruction that acts once, no lane named, an EPC that the handler has moved. -/
theorem witness_EretReturns :
    (Meets (returning 1 0 false) fun G _ _ => Calm G ∧ G.super = true ∧ G.slices.length = 8 ∧ G.aside.length = 8 ∧ Replays G ∧ AtTrap G 0)
    ∧ (Meets (returning (2 ^ 40) 0 true) fun G _ _ => Calm G ∧ G.super = true ∧ G.slices.length = 8 ∧ G.aside.length = 8 ∧ Replays G ∧ AtTrap G 7)
    ∧ (Meets (returning 0 0 false) fun G _ _ => Calm G ∧ G.super = true ∧ G.slices.length = 8 ∧ G.aside.length = 8 ∧ ¬Replays G ∧ AtTrap G 0)
    ∧ Meets (returning 1 8 false) fun G _ _ => Calm G ∧ G.super = true ∧ G.slices.length = 8 ∧ G.aside.length = 8 ∧ ¬AtTrap G 0 := by
  refine ⟨(meets _ (fun G _ _ => Calm G ∧ G.super = true ∧ G.slices.length = 8 ∧ G.aside.length = 8 ∧ G.faultOnce = false ∧ G.faultSlices = 0xFF ∧ G.trapmask = 1
      ∧ G.asideNest = [] ∧ ((G.slices[0]?).any fun C => C.live && C.epc == G.trapaddr) = true) (by decide +kernel)).imp fun G _ _ h => ?_,
    (meets _ (fun G _ _ => Calm G ∧ G.super = true ∧ G.slices.length = 8 ∧ G.aside.length = 8 ∧ G.faultOnce = true ∧ G.faultSlices = 0xFF ∧ G.trapmask = 2 ^ 40
      ∧ ((G.slices[7]?).any fun C => C.live && C.epc == G.trapaddr) = true) (by decide +kernel)).imp fun G _ _ h => ?_,
    (meets _ (fun G _ _ => Calm G ∧ G.super = true ∧ G.slices.length = 8 ∧ G.aside.length = 8 ∧ G.faultOnce = false ∧ G.faultSlices = 0xFF ∧ G.trapmask = 0
      ∧ ((G.slices[0]?).any fun C => C.live && C.epc == G.trapaddr) = true) (by decide +kernel)).imp fun G _ _ h => ?_,
    (meets _ (fun G _ _ => Calm G ∧ G.super = true ∧ G.slices.length = 8 ∧ G.aside.length = 8
      ∧ ((G.slices[0]?).any fun C => C.epc == G.trapaddr) = false) (by decide +kernel)).imp fun G _ _ h => ?_⟩
  · obtain ⟨a, b, c, d, e, f, g, n, k⟩ := h
    have t : AtTrap G 0 := atTrap_of (by rw [f]; decide) k
    refine ⟨a, b, c, d, ?_, t⟩
    unfold Replays ReplaysLane InTrapmask
    rw [if_neg (by simp [e])]
    exact ⟨0, t, ⟨by decide, by rw [g]; decide⟩, by rw [n]; rfl, fun h => absurd (e ▸ h.1) (by decide)⟩
  · obtain ⟨a, b, c, d, e, f, g, k⟩ := h
    refine ⟨a, b, c, d, ?_, atTrap_of (by rw [f]; decide) k⟩
    unfold Replays InTrapmask
    rw [if_pos e]
    exact ⟨8, by rw [f]; decide, by decide, by rw [g]; decide⟩
  · obtain ⟨a, b, c, d, e, f, g, k⟩ := h
    refine ⟨a, b, c, d, ?_, atTrap_of (by rw [f]; decide) k⟩
    unfold Replays ReplaysLane InTrapmask
    rw [if_neg (by simp [e]), g]
    rintro ⟨l, -, ⟨-, h⟩, -⟩
    simp at h
  · obtain ⟨a, b, c, d, k⟩ := h
    refine ⟨a, b, c, d, ?_⟩
    rintro ⟨-, C, e, -, h⟩
    rw [e] at k
    simp [h] at k
theorem witness_TrapInstruction : Meets seat fun G gr _ => Calm G ∧ G.super = false ∧ VectorRuns seat G gr := meets _ _ (by decide +kernel)

/-- A gang with one map operation in flight; a gang whose group has a scratchpad whose counter at its start holds 5. -/
def busyGang : State := State.gang0 seat fun G => { G with cnt := [0, 0, 1, 0, 0, 0] }
def counted (n : Nat) : State := (State.put (ss 0x01FF000000000000 n) (Config.scratchBase 0) 8 5).updGroup 0 fun g => { g with scratch := 1024 }
/-- The read of WAITGE answers the counter's bytes. -/
def readsCounter (n : Nat) (G : Gang) : Bool :=
  match (counted n).readCoherent G.tail ⟨0x01FF000000000000, Config.scratchBase 0, crewLeaf 0, false⟩ 8 with
  | .ok bs ws => leNat bs == 5 && (counted n).room 0 G ⟨written [Use.w (.s 3), Use.r (.s 1), Use.r (.s 2)], [], if G.crawl then [] else ws⟩ == .ok
  | _ => false
theorem witness_WaitPasses :
    (Meets busyGang fun G _ _ => Roomy busyGang 0 G [] ∧ (∀ e ∈ [(0, (31 : BitVec 5)), (1, 31), (2, 1), (3, 31), (4, 31), (5, 31)], e.2 = 31 ∨ G.count e.1 ≤ e.2.toNat))
    ∧ (Meets busyGang fun G _ _ => ¬∀ e ∈ [(0, (31 : BitVec 5)), (1, 31), (2, 0), (3, 31), (4, 31), (5, 31)], e.2 = 31 ∨ G.count e.1 ≤ e.2.toNat)
    ∧ (Meets (counted 5) fun G gr i => Operable [Use.w (.s 3), Use.r (.s 1), Use.r (.s 2)] i G ∧ crewBase + gr.rank * 2 ^ 21 ≤ (i.rds (.s 1)).toNat
        ∧ (i.rds (.s 1)).toNat - (crewBase + gr.rank * 2 ^ 21) + 1 ≤ gr.scratch ∧ (i.rds (.s 1)).toNat % 8 = 0 ∧ readsCounter 5 G = true ∧ (i.rds (.s 2)).toNat % 2 ^ 63 ≤ 5)
    ∧ (Meets (counted 6) fun G _ i => readsCounter 6 G = true ∧ ¬(i.rds (.s 2)).toNat % 2 ^ 63 ≤ 5)
    ∧ (Meets seat fun G _ _ => Calm G ∧ ∀ n ∈ G.cnt, n = 0) ∧ Meets busyGang fun G _ _ => Calm G ∧ ∃ n ∈ G.cnt, n ≠ 0 :=
  ⟨meets _ _ (by decide +kernel), meets _ _ (by decide +kernel), meets _ _ (by decide +kernel), meets _ _ (by decide +kernel), meets _ _ (by decide +kernel), meets _ _ (by decide +kernel)⟩

/-- The group's barrier 2 with no arrival, and with one of the gang itself, which waits in it. -/
def arrivedAlready (w : Bool) : State :=
  (State.gang0 seat fun G => { G with inBar := if w then some (barKey ⟨.zero, 3, 2⟩) else none }).updGroup 0 fun g => { g with bars := updAt g.bars 2 fun _ => ⟨0, [0]⟩ }
def waitedOut : State := State.gang0 seat fun G => { G with inBar := some (barKey ⟨.zero, 3, 2⟩) }
theorem witness_BarrierArrivals : (Instr.bar ⟨.zero, 3, 2⟩).wf = true
    ∧ (Meets seat fun G gr _ => ¬Divided G ∧ barrierOf seat gr ⟨.zero, 3, 2⟩ = some (⟨0, []⟩, [0]) ∧ Calm G ∧ Roomy seat 0 G [] ∧ G.inBar ≠ some (barKey ⟨.zero, 3, 2⟩))
    ∧ (Meets (arrivedAlready true) fun G gr _ => ¬Divided G ∧ barrierOf (arrivedAlready true) gr ⟨.zero, 3, 2⟩ = some (⟨0, [0]⟩, [0]) ∧ Calm G
        ∧ G.inBar = some (barKey ⟨.zero, 3, 2⟩))
    ∧ (Meets (arrivedAlready false) fun G gr _ => ¬Divided G ∧ barrierOf (arrivedAlready false) gr ⟨.zero, 3, 2⟩ = some (⟨0, [0]⟩, [0]) ∧ Calm G ∧ G.inBar = none)
    ∧ Meets waitedOut fun G gr _ => ¬Divided G ∧ barrierOf waitedOut gr ⟨.zero, 3, 2⟩ = some (⟨0, []⟩, [0]) ∧ Calm G ∧ G.inBar = some (barKey ⟨.zero, 3, 2⟩) :=
  ⟨by decide, meets _ _ (by decide +kernel), meets _ _ (by decide +kernel), meets _ _ (by decide +kernel), meets _ _ (by decide +kernel)⟩
theorem witness_DividedGangsTrapAtBarriers :
    (Meets (split seat) fun G gr _ => Divided G ∧ Calm G ∧ G.super = false ∧ VectorRuns (split seat) G gr ∧ G.inBar ≠ some (barKey ⟨.zero, 3, 2⟩))
    ∧ (Meets (crawl (split seat)) fun G gr _ => Divided G ∧ Calm G ∧ G.super = false ∧ VectorRuns (crawl (split seat)) G gr ∧ G.crawl = true)
    ∧ Meets (split seat) fun G _ _ => Divided G ∧ G.crawl = false ∧ Roomy (split seat) 0 G [] ∧ G.tail = none :=
  ⟨meets _ _ (by decide +kernel), meets _ _ (by decide +kernel), meets _ _ (by decide +kernel)⟩

/-- A launch that declares queue 2, core scope, depth 1, pushed and popped by stage 0, with some entries. -/
def qd : QDecl := ⟨2, 1, 3, 0, 0⟩
def queued (es : List DWord) : State :=
  { seat with nodes := seat.nodes.map fun n => { n with lr := { n.lr with queues := [qd] } }, queues := [⟨0, qd, 0, 0, 0, 0, es, []⟩] }
theorem witness_QueuesPushAndPop :
    (Meets (queued []) fun G gr i => (queued []).qdecl gr 2 = some qd ∧ qd.scope = 3 ∧ (queued []).qinst gr qd = some 0 ∧ Calm G ∧ Operable [Use.r (.s 1)] i G
        ∧ gr.stage = qd.pstage ∧ gr.stage = qd.cstage ∧ (⟨0, qd, 0, 0, 0, 0, [], []⟩ : Queue).turn 0 true = true ∧ 0 < qd.depth)
    ∧ (Meets (queued [7]) fun G gr i => (queued [7]).qdecl gr 2 = some qd ∧ (queued [7]).qinst gr qd = some 0 ∧ Calm G ∧ Operable [Use.w (.s 1)] i G
        ∧ gr.stage = qd.cstage ∧ (⟨0, qd, 0, 0, 0, 0, [7], []⟩ : Queue).turn 0 false = true ∧ qd.depth ≤ [7].length)
    ∧ (queued []).queues[0]? = some ⟨0, qd, 0, 0, 0, 0, [], []⟩ ∧ (queued [7]).queues[0]? = some ⟨0, qd, 0, 0, 0, 0, [7], []⟩ :=
  ⟨meets _ _ (by decide +kernel), meets _ _ (by decide +kernel), by decide +kernel, by decide +kernel⟩
/-- No declaration, a scope that differs (its boundary: the queue is declared for another scope), a stage that neither pushes nor pops. -/
def otherStage : State := (queued []).updGroup 0 fun g => { g with stage := 1 }
theorem witness_QueueScopeTraps :
    (Meets seat fun G gr i => Calm G ∧ G.super = false ∧ VectorRuns seat G gr ∧ Operable [Use.r (.s 1)] i G ∧ Operable [Use.w (.s 1)] i G ∧ seat.qdecl gr 2 = none)
    ∧ (Meets (queued []) fun G gr _ => Calm G ∧ VectorRuns (queued []) G gr ∧ (queued []).qdecl gr 2 = some qd ∧ qd.scope ≠ 5)
    ∧ Meets otherStage fun G gr _ => Calm G ∧ VectorRuns otherStage G gr ∧ otherStage.qdecl gr 2 = some qd ∧ gr.stage ≠ qd.pstage ∧ gr.stage ≠ qd.cstage :=
  ⟨meets _ _ (by decide +kernel), meets _ _ (by decide +kernel), meets _ _ (by decide +kernel)⟩


theorem witness_TokenAndSleep :
    (Meets (pairOfGangs .resident) fun G _ _ => Roomy (pairOfGangs .resident) 0 G [] ∧ (pairOfGangs .resident).partner 0 = some 1
        ∧ ((pairOfGangs .resident).part G.part).token = some 0 ∧ (pairOfGangs .resident).resident 1 = true)
    ∧ (Meets (pairOfGangs .saved) fun G _ _ => Roomy (pairOfGangs .saved) 0 G [] ∧ (pairOfGangs .saved).partner 0 = some 1
        ∧ ((pairOfGangs .saved).part G.part).token = some 0 ∧ (pairOfGangs .saved).resident 1 = false)
    ∧ Meets seat fun G _ i => Operable [Use.r (.s 1)] i G ∧ Roomy seat 0 G [] :=
  ⟨meets _ _ (by decide +kernel), meets _ _ (by decide +kernel), meets _ _ (by decide +kernel)⟩

/-- A launch whose yard has room for `n` entries. -/
def yard (n : Nat) : State := { seat with nodes := seat.nodes.map fun m => { m with lr := { m.lr with yard := n } } }
theorem witness_YdepDeposits :
    (Meets (yard 32) fun G gr i => Operable [Use.r (.s 1), ⟨.v 4, false, 4, 1, 1, 1⟩] i G ∧ Calm G
        ∧ (match (yard 32).nodes[gr.node]? with | some n => decide (n.lr.yard ≠ 0 ∧ n.yard.length + (maskLanes i.active).length ≤ n.lr.yard) | none => false) = true)
    ∧ Meets (yard 31) fun G gr i => Operable [Use.r (.s 1), ⟨.v 4, false, 4, 1, 1, 1⟩] i G ∧ Calm G ∧ G.super = false ∧ VectorRuns (yard 31) G gr
        ∧ (match (yard 31).nodes[gr.node]? with | some n => decide (n.lr.yard < n.yard.length + (maskLanes i.active).length) | none => false) = true :=
  ⟨meets _ _ (by decide +kernel), meets _ _ (by decide +kernel)⟩

/-- A launch whose record is launched and not DONE, and a result word on the data page. -/
def relaunched : State := { (ss 0x10100 0) with nodes := seat.nodes.map fun n => { n with addr := 0x10100, stand := .launched } }
def posting : State := { seat with nodes := seat.nodes.map fun n => { n with lr := { n.lr with result := 0x10040 } } }
theorem witness_LaunchSubmitsAndPostrPosts :
    (Meets (ss 0x10100 0) fun G gr i => Operable [Use.r (.s 1)] i G ∧ Calm G ∧ (i.rds (.s 1)).toNat < crewBase ∧ (i.rds (.s 1)).toNat % 256 = 0
        ∧ (match ((ss 0x10100 0).drawNat.2.translate G.part gr.ctx (i.rds (.s 1)).toNat).1 with | .leaf _ => true | _ => false) = true
        ∧ (((ss 0x10100 0).ctx gr.ctx).queue.filter (·.src != .edge)).length < 1024
        ∧ ¬∃ n ∈ (ss 0x10100 0).nodes, n.ctx = gr.ctx ∧ n.addr = (i.rds (.s 1)).toNat ∧ n.stand = .launched)
    ∧ (Meets relaunched fun G gr i => Operable [Use.r (.s 1)] i G ∧ Calm G ∧ (i.rds (.s 1)).toNat < crewBase ∧ (i.rds (.s 1)).toNat % 256 = 0
        ∧ (match (relaunched.drawNat.2.translate G.part gr.ctx (i.rds (.s 1)).toNat).1 with | .leaf _ => true | _ => false) = true
        ∧ ((relaunched.ctx gr.ctx).queue.filter (·.src != .edge)).length < 1024
        ∧ ∃ n ∈ relaunched.nodes, n.ctx = gr.ctx ∧ n.addr = (i.rds (.s 1)).toNat ∧ n.stand = .launched)
    ∧ Meets posting fun G gr i => Operable [Use.r (.v 1)] i G ∧ Calm G
        ∧ (match posting.nodes[gr.node]? with
          | some n =>
            let r := posting.checkAccess ⟨G.part, gr.ctx, G.grp, true, true⟩ none n.lr.result 4
            (match r.1 with
              | .ok y => decide (y.leaf.mapped = false ∧ r.2.held y.pa 4 = false ∧ leafDiscard posting.mem y.leaf = false
                  ∧ (y.leaf.pte + 1 < y.pa ∨ y.pa + 4 ≤ y.leaf.pte + 1))
              | .error _ => false)
          | none => false) = true :=
  ⟨meets _ _ (by decide +kernel), meets _ _ (by decide +kernel), meets _ _ (by decide +kernel)⟩

/-- Every control register has a value; the ones of user mode are read there too. For each bound of CrLegal a legal value at it and one past it. -/
theorem witness_ControlRegisters :
    (Meets seat fun G gr i => (crValue seat 0 G gr 0).isSome = true ∧ (crValue seat 0 G gr 1).isSome = true ∧ (crValue seat 0 G gr 0x50).isSome = true
        ∧ (crValue seat 0 G gr 0x5F).isSome = true ∧ Operable [Use.w (.s 3)] i G ∧ Roomy seat 0 G [Use.w (.s 3)])
    ∧ (Meets (super seat) fun G gr i => ([2, 3, 4, 5, 8, 0xF, 0x10, 0x11, 0x12, 0x13, 0x14, 0x15, 0x20, 0x3F, 0x40, 0x4F].all fun k =>
        (crValue (super seat) 0 G gr k).isSome && (crEffect (super seat) G gr k 0).isSome) = true ∧ G.super = true ∧ Operable [Use.r (.s 1)] i G ∧ Calm G)
    ∧ CrLegal 0 4 ∧ ¬CrLegal 0 5 ∧ CrLegal 0 0x1F1C ∧ ¬CrLegal 0 0x2000 ∧ ¬CrLegal 0 0x20 ∧ CrLegal 3 (2 ^ 32 - 1) ∧ ¬CrLegal 3 (2 ^ 32)
    ∧ CrLegal 0x10 0x20 ∧ ¬CrLegal 0x10 0x10 ∧ ¬CrLegal 0x13 (2 ^ 57) ∧ CrLegal 0x12 0x41 ∧ ¬CrLegal 0x12 2 ∧ ¬CrLegal 0x12 (2 ^ 52) ∧ CrLegal 0x14 1 ∧ CrLegal 0x14 64
    ∧ ¬CrLegal 0x14 0 ∧ ¬CrLegal 0x14 65 ∧ CrLegal 0x15 0x100F ∧ ¬CrLegal 0x15 0x10 ∧ CrLegal 0x20 1 ∧ ¬CrLegal 0x21 1 ∧ ¬CrLegal 0x20 2
    ∧ CrLegal 0x40 3 ∧ ¬CrLegal 0x40 4 ∧ CrLegal 0x4F 0x10 ∧ CrLegal 0x4F 0x17 ∧ ¬CrLegal 0x4F 0x18 ∧ CrLegal 0x40 0x23 ∧ ¬CrLegal 0x40 0x24 ∧ ¬CrLegal 0x40 0x1000
    ∧ CrLegal 4 (2 ^ 64 - 1) := by
  refine ⟨meets _ _ (by decide +kernel), meets _ _ (by decide +kernel), ?_⟩
  simp only [CrLegal]
  decide +kernel

/-- The checks that an access of `x` makes at issue (R225), with the machine after them, and the reads of its lanes. -/
def asks (s : State) (x : MemArgs) (G : Gang) (gr : Group) (i : Issuer) (write coherent : Bool) : List LaneX × State :=
  s.checkLanes ⟨G.part, gr.ctx, G.grp, write, coherent⟩ (accessXt x G gr) (accessBytes x.w) (accesses x i G gr x.d.isS)
theorem granted (s : State) (x : MemArgs) (G : Gang) (gr : Group) (i : Issuer) (w c : Bool) (h : xtEmpty x G gr = false)
    (k : failsOf (asks s x G gr i w c).1 = []) : Granted s (asks s x G gr i w c).2 x G gr i w c (passed (asks s x G gr i w c).1) :=
  ⟨.inl h, (asks s x G gr i w c).1, rfl, k, rfl⟩

/-- What LoadsIssue asks of the accesses: all granted, none held, every lane reads; `win` tells whether some are in a window. -/
def loadable (s : State) (x : MemArgs) (win : Bool) (G : Gang) (gr : Group) (i : Issuer) : Bool :=
  let r := asks s x G gr i false false
  let ok := passed r.1
  let y := if win then (r.2.touchAll G.part gr.ctx false (hintOf x) (ok.map (·.2))).readLanes G.core (hintOf x) none (accessBytes x.w) ok
    else r.2.readLanes G.core (hintOf x) G.tail (accessBytes x.w) ok
  let res := loadRes x (readOk y.1)
  xtEmpty x G gr == false && (failsOf r.1).isEmpty && r.2.heldAny (ok.map (·.2)) (accessBytes x.w) == false && (readFails y.1).isEmpty
    && ok.any (·.2.window) == win
    && (win || (s.requestsFull G.core (if G.crawl then 0 else res.vw.length + res.sw.length) == false
      && y.2.room 0 G ⟨res.regs, [], if G.crawl then [] else readSet y.1⟩ == .ok))
def sload : MemArgs := ⟨.s 6, .sp .zero, .s 1, 0, 1, 1⟩
theorem witness_LoadsIssue : (Instr.ld vload).wf = true ∧ (Instr.ld sload).wf = true
    ∧ (Meets (solo 0x10000) fun G gr i => Operable (dataUse vload.d vload.w true :: addrUses vload) i G ∧ loadable (solo 0x10000) vload false G gr i = true ∧ G.crawl = false)
    ∧ (Meets (crawl (solo 0x10000)) fun G gr i => Operable (dataUse sload.d sload.w true :: addrUses sload) i G
        ∧ loadable (crawl (solo 0x10000)) sload false G gr i = true ∧ G.crawl = true ∧ G.tail = none)
    ∧ Meets (windowed (solo 0x40000)) fun G gr i => Operable (dataUse vload.d vload.w true :: addrUses vload) i G
        ∧ loadable (windowed (solo 0x40000)) vload true G gr i = true ∧ Calm G :=
  ⟨by decide, by decide, meets _ _ (by decide +kernel), meets _ _ (by decide +kernel), meets _ _ (by decide +kernel)⟩

/-- What StoresBufferOrPerform asks of the accesses. -/
def storable (s : State) (x : MemArgs) (alone : Bool) (G : Gang) (gr : Group) (i : Issuer) : Bool :=
  let r := asks s x G gr i true false
  let ok := passed r.1
  let bs := storeBytes x i x.d.isS ok
  xtEmpty x G gr == false && (failsOf r.1).isEmpty && (r.2.storeFails G.core G.tail x i x.d.isS ok).isEmpty && r.2.heldAny (ok.map (·.2)) (accessBytes x.w) == false
    && (ok.any (·.2.window) || partTile (ok.map (·.2)) bs) == alone && (r.2.farParts (ok.map (·.2)) bs).1.isEmpty
    && (alone || s.room 0 G ⟨[], if G.crawl then [] else bs.foldl (fun l e => insNat l (e.1 / 128)) [], []⟩ == .ok)
def vstore : MemArgs := ⟨.v 6, .v 8, .s 1, 2, 0, 0⟩
theorem witness_StoresBufferOrPerform : (Instr.st vstore).wf = true
    ∧ (Meets (solo 0x10000) fun G gr i => Operable (dataUse vstore.d vstore.w false :: addrUses vstore) i G ∧ storable (solo 0x10000) vstore false G gr i = true ∧ G.crawl = false)
    ∧ (Meets (crawl (solo 0x10000)) fun G gr i => storable (crawl (solo 0x10000)) vstore false G gr i = true ∧ G.crawl = true ∧ Roomy (crawl (solo 0x10000)) 0 G [])
    ∧ (Meets tiled fun G gr i => storable tiled vstore true G gr i = true ∧ Calm G)
    ∧ Meets (windowed (solo 0x40000)) fun G gr i => storable (windowed (solo 0x40000)) vstore true G gr i = true ∧ Calm G :=
  ⟨by decide, meets _ _ (by decide +kernel), meets _ _ (by decide +kernel), meets _ _ (by decide +kernel), meets _ _ (by decide +kernel)⟩

/-- What AtomicsExchange asks of the accesses. -/
def swappable (s : State) (x : MemArgs) (G : Gang) (gr : Group) (i : Issuer) : Bool :=
  let r := asks s x G gr i true true
  let ok := passed r.1
  xtEmpty x G gr == false && (failsOf r.1).isEmpty && r.2.heldAny (ok.map (·.2)) (accessBytes x.w) == false
    && ok.all fun e => (r.2.rmwFail e.2 (accessBytes x.w)).isNone && !e.2.window && !e.2.leaf.mapped && !leafDiscard s.mem e.2.leaf
def vatom : MemArgs := ⟨.v 6, .sp .zero, .s 1, 2, 1, 0⟩
def scas : MemArgs := ⟨.s 6, .sp .zero, .s 1, 3, 0, 8⟩
theorem witness_AtomicsExchange : (Instr.atom vatom).wf = true ∧ (Instr.cas scas).wf = true
    ∧ (Meets (solo 0x10000) fun G gr i => Operable (dataUse vatom.d vatom.w true :: addrUses vatom) i G ∧ Calm G ∧ swappable (solo 0x10000) vatom G gr i = true)
    ∧ Meets (solo 0x10000) fun G gr i => Operable (casUse scas :: addrUses scas) i G ∧ Calm G ∧ swappable (solo 0x10000) scas G gr i = true
        ∧ (passed (asks (solo 0x10000) scas G gr i true true).1).length = 1 :=
  ⟨by decide, by decide, meets _ _ (by decide +kernel), meets _ _ (by decide +kernel)⟩

def vred : MemArgs := ⟨.v 6, .sp .zero, .s 1, 2, 1, 0⟩
def vmrg : MemArgs := ⟨.v 6, .sp .zero, .s 1, 2, 3, 0⟩
/-- A fragment none of whose lanes is active. -/
def noLane (s : State) : State := State.gang0 s fun G => { G with nest := (List.range 32).map fun l => (l, 1) }
theorem witness_FarReductionsIssue :
    (Meets (solo 0x10000) fun G gr i => Operable (dataUse vred.d vred.w false :: addrUses vred) i G ∧ Calm G ∧ Free G 5 ∧ xtEmpty vred G gr = false
        ∧ ((accesses vred i G gr false).all fun e => match (solo 0x10000).farResolve ⟨G.part, gr.ctx, G.grp, true, true⟩ (accessXt vred G gr) e.2 4 4 with
            | .ok far => far.all fun y => ((solo 0x10000).rmwFail y 4).isNone
            | .error _ => false) = true)
    ∧ (Meets (noLane (ss 0x10000 0)) fun G _ i => Operable (smrgUse vmrg :: (addrUses vmrg).drop 1) i G ∧ Calm G ∧ i.active = 0)
    ∧ Meets (solo 0x10000) fun G gr i => Operable (smrgUse vmrg :: (addrUses vmrg).drop 1) i G ∧ Calm G ∧ Free G 5 ∧ i.active ≠ 0
        ∧ (match (solo 0x10000).farResolve ⟨G.part, gr.ctx, G.grp, true, true⟩ none (laneAddr vmrg i G gr true 0).toNat 1024 512 with
            | .ok far => far.all fun y => !y.leaf.mapped && (List.range 128).all fun k => !(solo 0x10000).isPoisoned (y.pa / 4 + k)
            | .error _ => false) = true :=
  ⟨meets _ _ (by decide +kernel), meets _ _ (by decide +kernel), meets _ _ (by decide +kernel)⟩

/-- What `Accepted` asks of a state and of the gang that issues. -/
def takes (s : State) (us : List Use) (cls : Nat) (plan : State → Gang → Group → Issuer → Option (List Elem × List (Nat × Leaf) × State))
    (G : Gang) (gr : Group) (i : Issuer) : Bool :=
  decide (Operable us i G) && decide (Calm G) && decide (Free G cls) && (plan s G gr i).isSome
def cpyCheck (x : CpyArgs) (s : State) (G : Gang) (gr : Group) (i : Issuer) : Option (List Elem × List (Nat × Leaf) × State) :=
  let d := (i.rds x.d).toNat
  match cpyPlan x.form.toNat x.ew.toNat d (i.rds x.a).toNat (i.rds x.b).toNat (i.rds x.c).toNat with
  | .error _ => none
  | .ok p => match s.checkPlan ⟨G.part, gr.ctx, G.grp, false, false⟩ p with
    | (.ok ps, u) => if x.form = 2 && !inCrew d then none else some (planElems 0 ps p, ps, u)
    | _ => none
def cpymCheck (x : CpymArgs) (s : State) (G : Gang) (gr : Group) (i : Issuer) : Option (List Elem × List (Nat × Leaf) × State) :=
  let va := (i.rds x.d).toNat
  let n := (i.rds x.a).toNat
  let c : Accessor := ⟨G.part, gr.ctx, G.grp, false, false⟩
  if va % 32 ≠ 0 ∨ n < 1 ∨ 4096 < n then none
  else match s.readList c G.core va n with
    | (.ok l, u) => match u.checkList c va 0 l with
      | (.ok (es, ps), v) => some (es, ps, v)
      | _ => none
    | _ => none
def cpyOf (form : BitVec 3) : CpyArgs := ⟨.s 1, .s 2, .s 3, if form = 0 then .zero else .s 4, form, 0, 0⟩
/-- LIN of 8 bytes from 0x40000 to 0x10000; RECT of two rows; TR into the crew window at its least row pitch; CV16 and
back of one element. -/
def linCopy : State := s4 0x10000 0x40000 8 0
def rectCopy : State := s4 0x10000 0x40000 (4 + 2 ^ 32 * 2) (8 + 2 ^ 32 * 16)
def trCopy : State := s4 crewBase 0x40000 1 128
def cvCopy : State := s4 0x10000 0x40000 (1 + 2 ^ 32) 1
/-- A list of one descriptor: SRC, DST, LEN. -/
def listCopy : State := State.put (State.put (State.put (s4 0x10000 1 0 0) 0x30000 8 0x40000) 0x30008 8 0x10100) 0x30010 4 4
theorem witness_CopiesIssue :
    ([0, 1, 2, 3, 4].all fun f => (Instr.cpy (cpyOf f)).wf) = true
    ∧ Meets linCopy (fun G gr i => takes linCopy [Use.r (.s 1), Use.r (.s 2), Use.r (.s 3)] 0 (cpyCheck (cpyOf 0)) G gr i = true)
    ∧ Meets rectCopy (fun G gr i => takes rectCopy [Use.r (.s 1), Use.r (.s 2), Use.r (.s 3), Use.r (.s 4)] 0 (cpyCheck (cpyOf 1)) G gr i = true)
    ∧ Meets trCopy (fun G gr i => takes trCopy [Use.r (.s 1), Use.r (.s 2), Use.r (.s 3), Use.r (.s 4)] 0 (cpyCheck (cpyOf 2)) G gr i = true)
    ∧ Meets cvCopy (fun G gr i => takes cvCopy [Use.r (.s 1), Use.r (.s 2), Use.r (.s 3), Use.r (.s 4)] 0 (cpyCheck (cpyOf 3)) G gr i = true)
    ∧ Meets cvCopy (fun G gr i => takes cvCopy [Use.r (.s 1), Use.r (.s 2), Use.r (.s 3), Use.r (.s 4)] 0 (cpyCheck (cpyOf 4)) G gr i = true)
    ∧ Meets listCopy (fun G gr i => takes listCopy [Use.r (.s 1), Use.r (.s 2)] 0 (cpymCheck ⟨.s 1, .s 2, 0⟩) G gr i = true) :=
  ⟨by decide, meets _ _ (by decide +kernel), meets _ _ (by decide +kernel), meets _ _ (by decide +kernel), meets _ _ (by decide +kernel),
    meets _ _ (by decide +kernel), meets _ _ (by decide +kernel)⟩

/-- Two tiles of the mapped page, a factor in s3 and a bound in s4. -/
def edits (b c : Nat) : State := s4 0x20000 512 b c
def mapArgs : MapArgs := ⟨.s 1, .s 2, .s 3, .zero, 0⟩
def mapClp : MapArgs := ⟨.s 1, .s 2, .s 3, .s 4, 0⟩
def mapSet : MapArgs := ⟨.s 1, .s 2, .s 8, .zero, 0⟩
/-- What MapCommandsIssue asks for the command `i`. -/
def mapped (i : Instr) (s : State) : Prop := ∃ e, mapCommand i = some e ∧ Meets s fun G gr iss =>
  takes s e.2.1 2 (mapPlan e.1 e.2.2.1 e.2.2.2.1) G gr iss = true
/-- The identity in FP32 in s8 to s11. -/
def presets : State :=
  let h := (Hdr.identity 1 0).toNat
  State.scal (State.scal (State.scal (State.scal (edits 0 0) 8 h) 9 (h / 2 ^ 64)) 10 (h / 2 ^ 128)) 11 (h / 2 ^ 192)
theorem witness_MapCommandsIssue :
    mapped (.mscl mapArgs) (edits 0x40000000 0) ∧ mapped (.mofs mapArgs) (edits 0x40000000 0) ∧ mapped (.mfil mapArgs) (edits 0x40000000 0)
    ∧ mapped (.mclp mapClp) (edits 0x40000000 0x40000000) ∧ mapped (.mprm mapArgs) (edits 0xFFF 0) ∧ mapped (.mmat mapArgs) (edits 0 0)
    ∧ mapped (.mdrop mapArgs) (edits 0 0) ∧ mapped (.mset mapSet) presets :=
  ⟨⟨_, rfl, meets _ _ (by decide +kernel)⟩, ⟨_, rfl, meets _ _ (by decide +kernel)⟩, ⟨_, rfl, meets _ _ (by decide +kernel)⟩,
    ⟨_, rfl, meets _ _ (by decide +kernel)⟩, ⟨_, rfl, meets _ _ (by decide +kernel)⟩, ⟨_, rfl, meets _ _ (by decide +kernel)⟩,
    ⟨_, rfl, meets _ _ (by decide +kernel)⟩, ⟨_, rfl, meets _ _ (by decide +kernel)⟩⟩

/-- A context with the key-value pages of the tests: descriptors at 0x10800 (page 0 of one reference with one live slot of 16
BF16 elements, page 1 free), the pool at 0x10400 holding page 1, frequencies at 0x10500. -/
def kvSeat (a b c : Nat) : State :=
  let d0 : Desc := ⟨1, 1, 0, 0x11000, 0x11200, 0x2001, 0⟩
  let d1 : Desc := ⟨0, 0, 0, 0x11400, 0x11600, 0x2000, 0⟩
  let s := State.put (State.put (s4 a b c 0) 0x30800 32 d0.toNat) 0x30820 32 d1.toNat
  let s := State.put (State.put (State.put (State.put s 0x30400 4 1) 0x30404 4 2) 0x30408 8 0x10440) 0x30440 4 1
  s.updCtx 0 fun c => { c with kvbase := 0x10800, kvpool := 0x10400, rotbase := 0x10500 }
/-- A table of `len` tokens and `np` pages of at most 2, which names page 0. -/
def kvTab (s : State) (va len np : Nat) : State :=
  State.put (State.put (State.put s (va + 0x20000) 4 len) (va + 0x20004) 4 np) (va + 0x20008) 4 2
/-- What KeyValueCommandsIssue asks for the command `i`. -/
def kvTakes (i : Instr) (s : State) : Prop := ∃ e, kvCommands i = some e ∧ Meets s fun G gr iss =>
  takes s e.1 3 (fun s G gr iss => match e.2 s ⟨⟨G.part, gr.ctx, G.grp, false, false⟩, G.core, iss⟩ (s.ctx gr.ctx) with
    | .ok (es, ps) u => some (es, ps, u)
    | _ => none) G gr iss = true
def kvArgs : KvArgs := ⟨.s 1, .s 2, .s 3, .zero, 0, false, 0⟩
/-- Whether KVAPP passes its checks. -/
def kvAppTakes (s : State) (G : Gang) (gr : Group) (iss : Issuer) : Bool :=
  decide (Operable [Use.r kvArgs.d, Use.r kvArgs.a, Use.r kvArgs.b] iss G) && decide (Calm G) && decide (Free G 3)
    && (match s.kvAppPlan kvArgs ⟨⟨G.part, gr.ctx, G.grp, false, false⟩, G.core, iss⟩ (s.ctx gr.ctx) with | .ok _ _ => true | _ => false)
/-- A fork of a table of one page, a drop, an eviction, a new position; KVAPP into the last page and into a new one. -/
theorem witness_KeyValueCommandsIssue :
    kvTakes (.kvfork kvArgs) (kvTab (kvTab (kvSeat 0x10100 0x10000 0) 0x10000 1 1) 0x10100 0 0)
    ∧ kvTakes (.kvdrop kvArgs) (kvTab (kvSeat 0x10000 0 0) 0x10000 1 1)
    ∧ kvTakes (.kvevict kvArgs) (kvTab (kvSeat 0x10000 0 0) 0x10000 1 1)
    ∧ kvTakes (.kvsetpos kvArgs) (kvTab (kvSeat 0x10000 0 5) 0x10000 1 1)
    ∧ Meets (kvTab (kvSeat 0x10000 0x40000 0x40100) 0x10000 1 1) (fun G gr i => kvAppTakes (kvTab (kvSeat 0x10000 0x40000 0x40100) 0x10000 1 1) G gr i = true)
    ∧ Meets (kvTab (kvSeat 0x10000 0x40000 0x40100) 0x10000 0 0) fun G gr i => kvAppTakes (kvTab (kvSeat 0x10000 0x40000 0x40100) 0x10000 0 0) G gr i = true :=
  ⟨⟨_, rfl, meets _ _ (by decide +kernel)⟩, ⟨_, rfl, meets _ _ (by decide +kernel)⟩, ⟨_, rfl, meets _ _ (by decide +kernel)⟩,
    ⟨_, rfl, meets _ _ (by decide +kernel)⟩, meets _ _ (by decide +kernel), meets _ _ (by decide +kernel)⟩

/-- What KVAPP reads where it opens a page, and whether it opens one. -/
def opened (s : State) (q : KvAsk) (kb pool d : Nat) : Option (Xlat × Xlat × Xlat × Xlat × Nat × Nat × Nat × Desc × Nat) :=
  match s.kvTable q d with
  | .ok (_, n, _) u0 => match u0.kvPages q kb d (n.v - 1) (if n.v = 0 then 0 else 1) with
    | .ok last u1 => if needsPage last.head? = true then match u1.kvPool q pool with
      | .ok (pn, pc, pa) u2 => match u2.kvPage q kb (pa.v + 4 * (pn.v - 1)) with
        | .ok p u3 => match p.desc with
          | some (_, e) => match u3.kvArray q pa.v pc.v with
            | .ok () u4 => match u4.kvDests q 4 [pool, d + 0x40 + 4 * n.v, d + 4, d] with
              | .ok [px, ex, nx, _] u5 => match u5.kvDest q (kb + 32 * p.id) 32 with
                | .ok y _ => some (px, ex, nx, y, pn.v, p.id, n.v, e, match last.head?.bind (·.desc) with | some (_, z) => (z.pos + 16) % 2 ^ 32 | none => 0)
                | _ => none
              | _ => none
            | _ => none
          | none => none
        | _ => none
      | _ => none
      else none
    | _ => none
  | _ => none
theorem opened_sound {s : State} {q : KvAsk} {kb pool d : Nat} {px ex nx y : Xlat} {c id np : Nat} {e : Desc} {pos : Nat}
    (h : opened s q kb pool d = some (px, ex, nx, y, c, id, np, e, pos)) : OpensPage s q kb pool d px ex nx y c id np e pos := by
  unfold opened at h
  split at h <;> [rename_i l n c' u0 h0; cases h]
  split at h <;> [rename_i last u1 h1; cases h]
  split at h <;> [rename_i hn; cases h]
  split at h <;> [rename_i pn pc pa u2 h2; cases h]
  split at h <;> [rename_i p u3 h3; cases h]
  split at h <;> [rename_i yx e' hd; cases h]
  split at h <;> [rename_i u4 h4; cases h]
  split at h <;> [rename_i px' ex' nx' lx u5 h5; cases h]
  split at h <;> [rename_i y' u6 h6; cases h]
  cases h
  exact ⟨l, n, c', pn, pc, pa, last, p, yx, lx, u0, u1, u2, u3, u4, u5, u6, h0, h1, hn, h2, h3, hd, h4, h5, h6, rfl, rfl, rfl, rfl⟩
/-- KVAPP into a table without pages opens one, whose words do not overlap and lie on pages that are not discarded; into a table whose
last page has room it opens none. -/
def fresh : State := kvTab (kvSeat 0x10000 0x40000 0x40100) 0x10000 0 0
def kvQ (G : Gang) (gr : Group) (i : Issuer) : KvAsk := ⟨⟨G.part, gr.ctx, G.grp, false, false⟩, G.core, i⟩
theorem witness_KeyValueCommandsIssue_opens : Meets fresh fun G gr i => kvAppTakes fresh G gr i = true
    ∧ ∃ px ex nx y count id np e pos, OpensPage fresh (kvQ G gr i) (fresh.ctx gr.ctx).kvbase.toNat (fresh.ctx gr.ctx).kvpool.toNat (i.rds kvArgs.d).toNat
        px ex nx y count id np e pos ∧ Disjoint [(px.pa, 4), (y.pa, 32), (ex.pa, 4), (nx.pa, 4)]
      ∧ OnLivePages fresh [px, ex, nx, y] [(px.pa, 4), (y.pa, 32), (ex.pa, 4), (nx.pa, 4)] := by
  refine (meets fresh (fun G gr i => kvAppTakes fresh G gr i = true
    ∧ (match opened fresh (kvQ G gr i) (fresh.ctx gr.ctx).kvbase.toNat (fresh.ctx gr.ctx).kvpool.toNat (i.rds kvArgs.d).toNat with
      | some (px, ex, nx, y, _) =>
        let rs := [(px.pa, 4), (y.pa, 32), (ex.pa, 4), (nx.pa, 4)]
        decide ((rs.Pairwise fun p q => p.1 + p.2 ≤ q.1 ∨ q.1 + q.2 ≤ p.1)
          ∧ ∀ x ∈ [px, ex, nx, y], leafDiscard fresh.mem x.leaf = false ∧ ∀ r ∈ rs, x.leaf.pte + 8 ≤ r.1 ∨ r.1 + r.2 ≤ x.leaf.pte)
      | none => false) = true) (by decide +kernel)).imp fun G gr i h => ⟨h.1, ?_⟩
  have h := h.2
  split at h
  · rename_i px ex nx y r e
    obtain ⟨c, id, np, e', pos⟩ := r
    exact ⟨px, ex, nx, y, c, id, np, e', pos, opened_sound e, (of_decide_eq_true h).1, (of_decide_eq_true h).2⟩
  · cases h
/-- The table and the last page of a table, and whether KVAPP opens no page there. -/
def keeps (s : State) (q : KvAsk) (kb d : Nat) : Bool :=
  match s.kvTable q d with
  | .ok (_, n, _) u0 => match u0.kvPages q kb d (n.v - 1) (if n.v = 0 then 0 else 1) with
    | .ok last _ => !needsPage last.head?
    | _ => false
  | _ => false
def lastRoom : State := kvTab (kvSeat 0x10000 0x40000 0x40100) 0x10000 1 1
theorem witness_KeyValueCommandsIssue_keeps : Meets lastRoom fun G gr i => kvAppTakes lastRoom G gr i = true
    ∧ keeps lastRoom (kvQ G gr i) (lastRoom.ctx gr.ctx).kvbase.toNat (i.rds kvArgs.d).toNat = true := meets _ _ (by decide +kernel)

/-- One active lane of a key-value load of token `tok` from a table of two. -/
def kvLane1 (tok : Nat) : State :=
  State.gang0 (kvTab (kvSeat 0x10000 tok 0) 0x10000 2 1) fun G => { G with nest := (List.range 31).map fun l => (l + 1, 1) }
def kvLd : KvArgs := ⟨.v 6, .s 1, .s 2, .v 8, 0, true, 1⟩
/-- What KeyValueLoads asks; `live` tells whether the survivor bit is set. -/
def kvLoads (s : State) (key live : Bool) (G : Gang) (gr : Group) (iss : Issuer) : Bool :=
  let c : Accessor := ⟨G.part, gr.ctx, G.grp, false, false⟩
  decide (Operable (kvLoadUses kvLd) iss G) && (s.ctx gr.ctx).kvbase != 0 && (s.ctx gr.ctx).rotbase != 0
    && match s.kvHead c G.tail (.start G.seen false) (s.ctx gr.ctx).kvbase.toNat (iss.rds kvLd.a).toNat ((iss.rds kvLd.b).toNat % 2 ^ 32) with
      | .ok d j got u =>
        match u.kvLanes c G.tail ⟨[], [], [], got⟩ ((maskLanes iss.active).map fun l => (l, kvAddrs kvLd key d j (s.ctx gr.ctx).rotbase.toNat l)) with
        | some (k, v) =>
          let res : Res := ⟨k.vals.flatMap fun e => kvWrite kvLd e.1 (if e.2.isEmpty then (0, 0) else kvPair key d j e.2) (!bitOf d.surv j), [], 0⟩
          k.early == [] && k.late == [] && bitOf d.surv j == live
            && s.requestsFull G.core (if G.crawl then 0 else res.vw.length) == false && v.room 0 G ⟨res.regs, [], if G.crawl then [] else k.got.reads⟩ == .ok
        | none => false
      | _ => false
theorem witness_KeyValueLoads : (Instr.kvldk kvLd).wf = true ∧ (Instr.kvldv kvLd).wf = true
    ∧ (Meets (kvLane1 0) fun G gr i => kvLoads (kvLane1 0) true true G gr i = true ∧ G.crawl = false)
    ∧ (Meets (kvLane1 1) fun G gr i => kvLoads (kvLane1 1) true false G gr i = true ∧ G.crawl = false)
    ∧ (Meets (crawl (kvLane1 0)) fun G gr i => kvLoads (crawl (kvLane1 0)) true true G gr i = true ∧ G.crawl = true ∧ G.tail = none)
    ∧ (Meets (crawl (kvLane1 1)) fun G gr i => kvLoads (crawl (kvLane1 1)) false false G gr i = true ∧ G.crawl = true ∧ G.tail = none)
    ∧ Meets (kvLane1 0) fun G gr i => kvLoads (kvLane1 0) false true G gr i = true ∧ G.crawl = false :=
  ⟨by decide, by decide, meets _ _ (by decide +kernel), meets _ _ (by decide +kernel), meets _ _ (by decide +kernel), meets _ _ (by decide +kernel),
    meets _ _ (by decide +kernel)⟩

/-- A pool word in order, as a check. -/
def poolWord (s : State) (c : Accessor) (va al n : Nat) (write : Bool) : Option (Xlat × State) :=
  match s.checkAccess { c with write := write, coherent := true } none va al with
  | (.ok x, u) =>
    if x.leaf.mapped = false ∧ u.held x.pa n = false ∧ (leafDiscard u.mem x.leaf = false → ∀ k, k < n / 4 → u.isPoisoned ((x.pa + 4 * k) / 4) = false)
    then some (x, u) else none
  | _ => none
theorem poolWord_sound {s u : State} {c : Accessor} {va al n : Nat} {w : Bool} {x : Xlat} (h : poolWord s c va al n w = some (x, u)) :
    PoolWord s u c va al n w x := by
  unfold poolWord at h
  split at h <;> [rename_i y v e; cases h]
  split at h <;> [skip; cases h]
  rename_i k
  cases h
  exact ⟨e, k⟩
/-- What KVPOP takes, and the descriptor that KVREF finds, as checks. -/
def popped (s : State) (c : Accessor) (kb pool : Nat) : Option (Xlat × Xlat × Nat × Nat × Desc) :=
  match poolWord s c pool 16 16 true with
  | some (p, u) => match poolWord u c (pageNat u p 8 8 + 4 * (pageNat u p 0 4 - 1)) 4 4 false with
    | some (w, v) => match poolWord v c (kb + 32 * pageNat v w 0 4) 32 32 true with
      | some (y, z) =>
        if 0 < pageNat u p 0 4 ∧ pageNat u p 0 4 ≤ pageNat u p 4 4 ∧ pageNat v w 0 4 ≠ 0xFFFFFFFF ∧ (Desc.ofNat (pageNat z y 0 32)).malformed = false
        then some (p, y, pageNat u p 0 4, pageNat v w 0 4, Desc.ofNat (pageNat z y 0 32)) else none
      | none => none
    | none => none
  | none => none
theorem popped_sound {s : State} {c : Accessor} {kb pool : Nat} {p y : Xlat} {n id : Nat} {d : Desc}
    (h : popped s c kb pool = some (p, y, n, id, d)) : Pops s c kb pool p y n id d := by
  unfold popped at h
  split at h <;> [rename_i p' u h0; cases h]
  split at h <;> [rename_i w v h1; cases h]
  split at h <;> [rename_i y' z h2; cases h]
  split at h <;> [rename_i k; cases h]
  cases h
  exact ⟨u, v, z, w, poolWord_sound h0, rfl, k.1, k.2.1, poolWord_sound h1, rfl, k.2.2.1, poolWord_sound h2, rfl, k.2.2.2⟩
def counted1 (s : State) (c : Accessor) (kb id : Nat) : Option (Xlat × Desc × State) :=
  match poolWord s c (kb + 32 * id) 32 32 true with
  | some (y, z) => if id ≠ 0xFFFFFFFF ∧ (Desc.ofNat (pageNat z y 0 32)).malformed = false then some (y, Desc.ofNat (pageNat z y 0 32), z) else none
  | none => none
theorem counted1_sound {s z : State} {c : Accessor} {kb id : Nat} {y : Xlat} {d : Desc} (h : counted1 s c kb id = some (y, d, z)) : Refs s z c kb id y d := by
  unfold counted1 at h
  split at h <;> [rename_i y' z' h0; cases h]
  split at h <;> [rename_i k; cases h]
  cases h
  exact ⟨k.1, poolWord_sound h0, rfl, k.2⟩

/-- A supervisor of the test pages, and what PoolInstructions asks of it. -/
def kvSuper (a b : Nat) : State := super (kvSeat a b 0)
def poolReady (s : State) (G : Gang) (gr : Group) (iss : Issuer) : Prop :=
  G.super = true ∧ Calm G ∧ (s.ctx gr.ctx).kvbase ≠ 0 ∧ (s.ctx gr.ctx).kvpool ≠ 0 ∧ s.logq = [] ∧ s.ops = [] ∧ Operable [Use.w (.s 3)] iss G
    ∧ Operable [Use.w (.s 3), Use.r (.s 1), Use.r (.s 2)] iss G
abbrev kvC (G : Gang) (gr : Group) : Accessor := ⟨G.part, gr.ctx, G.grp, true, true⟩
theorem pool_meets (s : State) (f : Gang → Group → Issuer → Bool)
    (h : (match s.issue with
      | .gang 0 G gr i => decide ((G.super = true ∧ Calm G ∧ (s.ctx gr.ctx).kvbase ≠ 0 ∧ (s.ctx gr.ctx).kvpool ≠ 0 ∧ s.logq = [] ∧ s.ops = [] ∧ Operable [Use.w (.s 3)] i G
          ∧ Operable [Use.w (.s 3), Use.r (.s 1), Use.r (.s 2)] i G) ∧ (s.ctx gr.ctx).kvbase.toNat = 0x10800 ∧ (s.ctx gr.ctx).kvpool.toNat = 0x10400
          ∧ (i.rds (.s 1)).toNat % 2 ^ 32 = 0) && f G gr i
      | _ => false) = true) :
    Meets s fun G gr i => poolReady s G gr i ∧ (s.ctx gr.ctx).kvbase.toNat = 0x10800 ∧ (s.ctx gr.ctx).kvpool.toNat = 0x10400
      ∧ (i.rds (.s 1)).toNat % 2 ^ 32 = 0 ∧ f G gr i = true := by
  unfold Meets
  split at h
  · rename_i G gr i e
    rw [Bool.and_eq_true] at h
    exact ⟨G, gr, i, e, (of_decide_eq_true h.1).1, (of_decide_eq_true h.1).2.1, (of_decide_eq_true h.1).2.2.1, (of_decide_eq_true h.1).2.2.2, h.2⟩
  · cases h
/-- No push has begun where no operation is out; one has whose second word is still to be written. -/
theorem pool_idle {s : State} (h : s.ops = []) (pa : Nat) : s.poolBusy pa = false := by simp [State.poolBusy, h]
def pushing : State := { kvSuper 0 0 with ops := [⟨0, 0, 3, 0, 0, .kv, [.count ⟨0x10400, 0x30400, Leaf.none, false⟩ 3], [], false⟩] }
theorem witness_PoolInstructions_busy : Meets pushing fun G gr i => Operable [Use.w (.s 3)] i G ∧ (pushing.ctx gr.ctx).kvpool.toNat = 0x10400
    ∧ ∃ p u, PoolWord pushing u (kvC G gr) 0x10400 16 16 true p ∧ pushing.poolBusy p.pa = true := by
  refine (meets pushing (fun G gr i => (Operable [Use.w (.s 3)] i G ∧ (pushing.ctx gr.ctx).kvpool.toNat = 0x10400)
    ∧ (match poolWord pushing (kvC G gr) 0x10400 16 16 true with | some (p, _) => pushing.poolBusy p.pa | none => false) = true)
    (by decide +kernel)).imp fun G gr i h => ⟨h.1.1, h.1.2, ?_⟩
  obtain ⟨-, h⟩ := h
  split at h
  · rename_i p u e
    exact ⟨p, u, poolWord_sound e, h⟩
  · cases h
/-- A pop that succeeds, one from an empty pool, one from a pool at no multiple of 16. -/
theorem witness_PoolInstructions_pop : Meets (kvSuper 0 0) fun G gr i => poolReady (kvSuper 0 0) G gr i
    ∧ ∃ p y n id d, Pops (kvSuper 0 0) (kvC G gr) ((kvSuper 0 0).ctx gr.ctx).kvbase.toNat ((kvSuper 0 0).ctx gr.ctx).kvpool.toNat p y n id d
      ∧ OnLivePages (kvSuper 0 0) [p, y] [(p.pa, 4), (y.pa, 32)] ∧ Disjoint [(p.pa, 4), (y.pa, 32)] := by
  refine (pool_meets (kvSuper 0 0) (fun G gr _ => match popped (kvSuper 0 0) (kvC G gr) 0x10800 0x10400 with
      | some (p, y, _) => decide ((∀ x ∈ [p, y], leafDiscard (kvSuper 0 0).mem x.leaf = false ∧ ∀ r ∈ [(p.pa, 4), (y.pa, 32)],
          x.leaf.pte + 8 ≤ r.1 ∨ r.1 + r.2 ≤ x.leaf.pte) ∧ [(p.pa, 4), (y.pa, 32)].Pairwise fun p q => p.1 + p.2 ≤ q.1 ∨ q.1 + q.2 ≤ p.1)
      | none => false) (by decide +kernel)).imp fun G gr i h => ⟨h.1, ?_⟩
  obtain ⟨-, hb, hp, -, h⟩ := h
  rw [hb, hp]
  split at h
  · rename_i p y r e
    obtain ⟨n, id, d⟩ := r
    exact ⟨p, y, n, id, d, popped_sound e, (of_decide_eq_true h).1, (of_decide_eq_true h).2⟩
  · cases h
def emptyPool : State := State.put (kvSuper 0 0) 0x30400 4 0
theorem witness_PoolInstructions_empty : Meets emptyPool fun G gr i => poolReady emptyPool G gr i
    ∧ PopFails emptyPool (kvC G gr) (emptyPool.ctx gr.ctx).kvbase.toNat (emptyPool.ctx gr.ctx).kvpool.toNat := by
  refine (pool_meets emptyPool (fun G gr _ => match poolWord emptyPool (kvC G gr) 0x10400 16 16 true with
      | some (p, u) => pageNat u p 0 4 == 0
      | none => false) (by decide +kernel)).imp fun G gr i h => ⟨h.1, ?_⟩
  obtain ⟨-, hb, hp, -, h⟩ := h
  rw [hb, hp]
  split at h
  · rename_i p u e
    exact .inr ⟨p, u, poolWord_sound e, .inl (by simpa using h)⟩
  · cases h
/-- A count that rises; one that falls to 0 with room in the pool; one that falls to 0 with none; one below 0. -/
def kvRefs (s : State) (G : Gang) (gr : Group) : Option (Xlat × Desc × State) := counted1 s (kvC G gr) 0x10800 0
theorem witness_PoolInstructions_rises : Meets (kvSuper 0 1) fun G gr i => poolReady (kvSuper 0 1) G gr i
    ∧ ∃ y d z, Refs (kvSuper 0 1) z (kvC G gr) ((kvSuper 0 1).ctx gr.ctx).kvbase.toNat ((i.rds (.s 1)).toNat % 2 ^ 32) y d
      ∧ 0 < (d.ref : Int) + ((i.rds (.s 2)).setWidth 32).toInt ∧ (d.ref : Int) + ((i.rds (.s 2)).setWidth 32).toInt ≤ 65535
      ∧ leafDiscard (kvSuper 0 1).mem y.leaf = false := by
  refine (pool_meets (kvSuper 0 1) (fun G gr i => match kvRefs (kvSuper 0 1) G gr with
      | some (y, d, _) => decide (0 < (d.ref : Int) + ((i.rds (.s 2)).setWidth 32).toInt ∧ (d.ref : Int) + ((i.rds (.s 2)).setWidth 32).toInt ≤ 65535
          ∧ leafDiscard (kvSuper 0 1).mem y.leaf = false)
      | none => false) (by decide +kernel)).imp fun G gr i h => ⟨h.1, ?_⟩
  obtain ⟨-, hb, -, hi, h⟩ := h
  rw [hb, hi]
  split at h
  · rename_i y d z e; exact ⟨y, d, z, counted1_sound e, of_decide_eq_true h⟩
  · cases h
def falls : State := kvSuper 0 (2 ^ 32 - 1)
theorem witness_PoolInstructions_returns : Meets falls fun G gr i => poolReady falls G gr i
    ∧ ∃ y d z p w u v, Refs falls z (kvC G gr) (falls.ctx gr.ctx).kvbase.toNat ((i.rds (.s 1)).toNat % 2 ^ 32) y d
      ∧ (d.ref : Int) + ((i.rds (.s 2)).setWidth 32).toInt = 0 ∧ PoolWord z u (kvC G gr) (falls.ctx gr.ctx).kvpool.toNat 16 16 true p
      ∧ pageNat u p 0 4 < pageNat u p 4 4 ∧ PoolWord u v (kvC G gr) (pageNat u p 8 8 + 4 * pageNat u p 0 4) 4 4 true w
      ∧ OnLivePages falls [p, w, y] [(p.pa, 4), (w.pa, 4), (y.pa, 32)] ∧ Disjoint [(p.pa, 4), (w.pa, 4), (y.pa, 32)] := by
  refine (pool_meets falls (fun G gr i => match kvRefs falls G gr with
      | some (y, d, z) => match poolWord z (kvC G gr) 0x10400 16 16 true with
        | some (p, u) => match poolWord u (kvC G gr) (pageNat u p 8 8 + 4 * pageNat u p 0 4) 4 4 true with
          | some (w, _) => decide (((d.ref : Int) + ((i.rds (.s 2)).setWidth 32).toInt = 0 ∧ pageNat u p 0 4 < pageNat u p 4 4)
              ∧ (∀ x ∈ [p, w, y], leafDiscard falls.mem x.leaf = false ∧ ∀ r ∈ [(p.pa, 4), (w.pa, 4), (y.pa, 32)], x.leaf.pte + 8 ≤ r.1 ∨ r.1 + r.2 ≤ x.leaf.pte)
              ∧ [(p.pa, 4), (w.pa, 4), (y.pa, 32)].Pairwise fun p q => p.1 + p.2 ≤ q.1 ∨ q.1 + q.2 ≤ p.1)
          | none => false
        | none => false
      | none => false) (by decide +kernel)).imp fun G gr i h => ⟨h.1, ?_⟩
  obtain ⟨-, hb, hp, hi, h⟩ := h
  rw [hb, hp, hi]
  split at h <;> [rename_i y d z e; cases h]
  split at h <;> [rename_i p u f; cases h]
  split at h <;> [rename_i w v k; cases h]
  have h := of_decide_eq_true h
  exact ⟨y, d, z, p, w, u, v, counted1_sound e, h.1.1, poolWord_sound f, h.1.2, poolWord_sound k, h.2.1, h.2.2⟩
/-- The pool has room for no id, and the error log stands away from the descriptor. -/
def fullPool : State := (State.put falls 0x30404 4 1).updCtx 0 fun c => { c with errlog := 0x60001 }
theorem witness_PoolInstructions_lost : Meets fullPool fun G gr i => poolReady fullPool G gr i
    ∧ ∃ y d z p u, Refs fullPool z (kvC G gr) (fullPool.ctx gr.ctx).kvbase.toNat ((i.rds (.s 1)).toNat % 2 ^ 32) y d
      ∧ (d.ref : Int) + ((i.rds (.s 2)).setWidth 32).toInt = 0 ∧ PoolWord z u (kvC G gr) (fullPool.ctx gr.ctx).kvpool.toNat 16 16 true p
      ∧ pageNat u p 4 4 ≤ pageNat u p 0 4 ∧ leafDiscard fullPool.mem y.leaf = false ∧ ∀ a, y.pa ≤ a → a < y.pa + 32 → OutsideLog fullPool gr.ctx a := by
  refine (pool_meets fullPool (fun G gr i => match kvRefs fullPool G gr with
      | some (y, d, z) => match poolWord z (kvC G gr) 0x10400 16 16 true with
        | some (p, u) => decide ((d.ref : Int) + ((i.rds (.s 2)).setWidth 32).toInt = 0 ∧ pageNat u p 4 4 ≤ pageNat u p 0 4
              ∧ leafDiscard fullPool.mem y.leaf = false ∧ y.pa + 32 ≤ (fullPool.ctx gr.ctx).errlog.toNat / 2 ^ 12 % 2 ^ 40 * 2 ^ 12)
        | none => false
      | none => false) (by decide +kernel)).imp fun G gr i h => ⟨h.1, ?_⟩
  obtain ⟨-, hb, hp, hi, h⟩ := h
  rw [hb, hp, hi]
  split at h <;> [rename_i y d z e; cases h]
  split at h <;> [rename_i p u f; cases h]
  have h := of_decide_eq_true h
  refine ⟨y, d, z, p, u, counted1_sound e, h.1, poolWord_sound f, h.2.1, h.2.2.1, fun a _ ha => ?_⟩
  exact .inl (by have := h.2.2.2; omega)
def below : State := kvSuper 0 (2 ^ 32 - 2)
theorem witness_PoolInstructions_fails : Meets below fun G gr i => poolReady below G gr i
    ∧ RefFails below (kvC G gr) (below.ctx gr.ctx).kvbase.toNat (below.ctx gr.ctx).kvpool.toNat ((i.rds (.s 1)).toNat % 2 ^ 32) ((i.rds (.s 2)).setWidth 32).toInt := by
  refine (pool_meets below (fun G gr i => match kvRefs below G gr with
      | some (_, d, _) => decide ((d.ref : Int) + ((i.rds (.s 2)).setWidth 32).toInt < 0)
      | none => false) (by decide +kernel)).imp fun G gr i h => ⟨h.1, ?_⟩
  obtain ⟨-, hb, hp, hi, h⟩ := h
  rw [hb, hp, hi]
  split at h <;> [rename_i y d z e; cases h]
  obtain ⟨-, w, hd, -⟩ := counted1_sound e
  exact .inr (.inr ⟨y, z, w, .inr (.inl (by rw [← hd]; exact of_decide_eq_true h))⟩)

/-- XLATE at a mapped page, at a page without a leaf, and in the crew window. -/
def xlateAt (n : Nat) : State := s4 n 0 0 0
def xlates (s : State) (G : Gang) (iss : Issuer) : Bool :=
  decide (Operable [Use.r (.s 1)] iss G) && s.check1 G.grp (iss.rds (.s 1)).toNat && s.room 0 G ⟨[.xt 3], [], []⟩ == .ok
theorem witness_TranslationRegisters :
    (Meets (xlateAt 0x10000) fun G _ i => xlates (xlateAt 0x10000) G i = true ∧ G.crawl = false)
    ∧ (Meets (xlateAt 0x7000000) fun G _ i => xlates (xlateAt 0x7000000) G i = true ∧ G.crawl = false)
    ∧ Meets (crawl (xlateAt crewBase)) fun G gr i => xlates (crawl (xlateAt crewBase)) G i = true ∧ G.crawl = true ∧ G.tail = none
        ∧ ((crawl (xlateAt crewBase)).xlateOf ⟨G.part, gr.ctx, G.grp, false, false⟩ (i.rds (.s 1)).toNat).2.1 = none :=
  ⟨meets _ _ (by decide +kernel), meets _ _ (by decide +kernel), meets _ _ (by decide +kernel)⟩

/-- A supervisor with s1 and s2. -/
def sup (a b : Nat) : State := super (s4 a b 0 0)
/-- PGATTR of a leaf: `flips` as the mapped bit of s2 differs from the leaf's, `mapped` as it stands. -/
def attr (s : State) (flips mapped : Bool) (G : Gang) (gr : Group) (iss : Issuer) : Bool :=
  let va := (iss.rds (.s 1)).toNat
  decide (Operable [Use.w (.s 3), Use.r (.s 1), Use.r (.s 2)] iss G) && G.super && decide (Calm G) && decide (va < crewBase)
    && match walkVa s.mem (s.ctx gr.ctx).root va with
      | .leaf l =>
        let page := va / l.size * l.size
        ((iss.rds (.s 2)).toNat.testBit 7 != l.mapped) == flips && l.mapped == mapped && s.invBusy gr.ctx page (page + l.size) == false
          && s.held l.frame l.size == false && s.held l.hframe (l.size / 8) == false && s.held l.pte 8 == false
      | _ => false
/-- LINECLR of a line: of a tile page whose parts lie apart, and of a page without. -/
def clears (s : State) (mapped : Bool) (G : Gang) (gr : Group) (iss : Issuer) : Bool :=
  let va := (iss.rds (.s 2)).toNat
  decide (Operable [Use.w (.s 1), Use.r (.s 2)] iss G) && G.super && decide (Calm G) && decide (va < crewBase)
    && match s.translate G.part gr.ctx va with
      | (.leaf l, u) =>
        let pa := l.frame + va % l.size
        l.write && paTier pa != none && u.engineHeld l (pa / 128 * 128) 128 == false && isFar (pa / 128 * 128) == false && l.mapped == mapped
          && (!l.mapped || decide (Apart (tileOf l (pa / 128 * 128)))) && leafDiscard s.mem l == false
      | _ => false
/-- PGMAP at a page that awaits its first touch, with a frame pool of `n` frames whose last one is 0x80000; with a bank command that
holds the pool; and at a page that has a leaf. -/
def touching (n : Nat) : State :=
  (State.put (State.put (State.put (sup 0 0x30000) 0x30700 4 n) 0x30708 8 0x30740) 0x30740 8 0x80000).updCtx 0 fun c => { c with framepool := 0x30701 }
def touchHeld : State := { touching 1 with cmds := [{ bankCmd with range := [(0x30000, 0x31000)] }] }
def touched (s : State) (busy : Bool) (n : Nat) (G : Gang) (gr : Group) (iss : Issuer) : Bool :=
  let va := (iss.rds (.s 2)).toNat
  let e := memNat s.mem 0x18030 8
  let c := poolCountAt s gr.ctx e
  let slot := memNat s.mem (c + 8) 8 + 8 * (memNat s.mem c 4 - 1)
  let f := memNat s.mem slot 8
  decide (Operable [Use.w (.s 3), Use.r (.s 2)] iss G) && G.super && decide (Calm G) && memNat s.mem c 4 == n
    && decide (va < crewBase ∧ walkVa s.mem (s.ctx gr.ctx).root va = .invalid 0 0x18030 ∧ (s.ctx gr.ctx).framepool.getLsbD 0 = true ∧ e.testBit 9 = true
      ∧ e / 2 ^ 14 % 4 = 0 ∧ e.testBit 7 = false ∧ e / 2 ^ 10 % 4 ≤ 1)
    && decide (s.held c 16 = true ∨ (n ≠ 0 ∧ (s.held slot 8 = true ∨ s.held f 65536 = true ∨ s.held 0x18030 8 = true))) == busy
    && (n == 0 || decide ([(c, 4), (f, 65536), (0x18030, 8)].Pairwise fun p q => p.1 + p.2 ≤ q.1 ∨ q.1 + q.2 ≤ p.1))
theorem touched_sound {s : State} {busy : Bool} {n : Nat} {G : Gang} {gr : Group} {iss : Issuer} (h : touched s busy n G gr iss = true) :
    FirstTouch s gr.ctx (iss.rds (.s 2)).toNat 0x18030 := by
  unfold touched at h
  simp only [Bool.and_eq_true, decide_eq_true_eq] at h
  exact h.1.1.2
theorem witness_PageTableMaintenance_first :
    (Meets touchHeld fun G gr i => touched touchHeld true 1 G gr i = true ∧ FirstTouch touchHeld gr.ctx (i.rds (.s 2)).toNat 0x18030)
    ∧ (Meets (touching 1) fun G gr i => touched (touching 1) false 1 G gr i = true ∧ FirstTouch (touching 1) gr.ctx (i.rds (.s 2)).toNat 0x18030)
    ∧ Meets (touching 0) fun G gr i => touched (touching 0) false 0 G gr i = true ∧ FirstTouch (touching 0) gr.ctx (i.rds (.s 2)).toNat 0x18030 :=
  ⟨(meets touchHeld (fun G gr i => touched touchHeld true 1 G gr i = true) (by decide +kernel)).imp fun _ _ _ h => ⟨h, touched_sound h⟩,
    (meets (touching 1) (fun G gr i => touched (touching 1) false 1 G gr i = true) (by decide +kernel)).imp fun _ _ _ h => ⟨h, touched_sound h⟩,
    (meets (touching 0) (fun G gr i => touched (touching 0) false 0 G gr i = true) (by decide +kernel)).imp fun _ _ _ h => ⟨h, touched_sound h⟩⟩
theorem witness_PageTableMaintenance_refused : Meets (sup 0 0x10000) fun G gr i => G.super = true ∧ Calm G ∧ Operable [Use.w (.s 3), Use.r (.s 2)] i G
    ∧ (¬∃ pte, FirstTouch (sup 0 0x10000) gr.ctx (i.rds (.s 2)).toNat pte) ∧ (sup 0 0x10000).logq = []
    ∧ ∀ p, walkVa (sup 0 0x10000).mem ((sup 0 0x10000).ctx gr.ctx).root (i.rds (.s 2)).toNat ≠ .malformed p := by
  refine (meets (sup 0 0x10000) (fun G gr i => (G.super = true ∧ Calm G ∧ Operable [Use.w (.s 3), Use.r (.s 2)] i G) ∧ (sup 0 0x10000).logq = []
    ∧ (match walkVa (sup 0 0x10000).mem ((sup 0 0x10000).ctx gr.ctx).root (i.rds (.s 2)).toNat with | .leaf _ => true | _ => false) = true)
    (by decide +kernel)).imp fun G gr i h => ⟨h.1.1, h.1.2.1, h.1.2.2, ?_, h.2.1, ?_⟩
  · rintro ⟨pte, -, e, -⟩
    have h := h.2.2
    rw [e] at h
    cases h
  · intro p e
    have h := h.2.2
    rw [e] at h
    cases h
/-- A malformed entry at 0x30000, and a page there that may not be written; what LINECLR and PGATTR find there: a leaf that does not
permit a write, an entry with VALID = 0, a malformed one. -/
def malformed3 : State := State.put (sup 0x30000 0x30000) 0x18030 8 (2 ^ 63 + 0x30005)
def readOnly (s : State) : State := State.put s 0x18030 8 0x30001
def notClear (s : State) (va : Nat) (G : Gang) (gr : Group) (iss : Issuer) : Option Nat :=
  if Operable [Use.w (.s 3), Use.r (.s 2)] iss G ∧ Operable [Use.w (.s 3), Use.r (.s 1), Use.r (.s 2)] iss G ∧ (iss.rds (.s 2)).toNat = va ∧ (iss.rds (.s 1)).toNat = va then
    match walkVa s.mem (s.ctx gr.ctx).root va, (s.translate G.part gr.ctx va).1 with
    | .leaf _, .leaf l => if l.write then none else some 0
    | .invalid _ _, .invalid _ _ => some 1
    | .malformed _, .malformed _ => some 2
    | _, _ => none
  else none
theorem witness_PageTableMaintenance :
    (Meets (sup crewBase crewBase) fun G _ i => G.super = true ∧ Calm G ∧ Operable [Use.w (.s 3), Use.r (.s 2)] i G ∧ crewBase ≤ (i.rds (.s 2)).toNat)
    ∧ (Meets (sup 0x10000 0) fun G gr i => G.super = true ∧ Calm G ∧ Operable [Use.r (.s 1), Use.r (.s 2)] i G ∧ i.rds (.s 2) = 0
        ∧ (sup 0x10000 0).invBusy gr.ctx 0 (2 ^ 65) = false)
    ∧ (Meets (sup 0x10000 1) fun G gr i => Operable [Use.r (.s 1), Use.r (.s 2)] i G ∧ i.rds (.s 2) ≠ 0 ∧ (sup 0x10000 1).invBusy gr.ctx 0x10000 0x10001 = false)
    ∧ (Meets (sup 0x10000 4) fun G gr i => attr (sup 0x10000 4) false false G gr i = true)
    ∧ (Meets (sup 0x10000 0x84) fun G gr i => attr (sup 0x10000 0x84) true false G gr i = true)
    ∧ (Meets (sup 0x20000 4) fun G gr i => attr (sup 0x20000 4) true true G gr i = true)
    ∧ (Meets (sup crewBase 4) fun G _ i => G.super = true ∧ Calm G ∧ Operable [Use.w (.s 3), Use.r (.s 1), Use.r (.s 2)] i G ∧ crewBase ≤ (i.rds (.s 1)).toNat)
    ∧ (Meets (sup 0x30000 4) fun G gr i => Operable [Use.w (.s 3), Use.r (.s 1), Use.r (.s 2)] i G
        ∧ (match walkVa (sup 0x30000 4).mem ((sup 0x30000 4).ctx gr.ctx).root (i.rds (.s 1)).toNat with | .invalid _ _ => true | _ => false) = true)
    ∧ (Meets (sup 0 0x10000) fun G gr i => clears (sup 0 0x10000) false G gr i = true)
    ∧ (Meets (sup 0 0x20000) fun G gr i => clears (sup 0 0x20000) true G gr i = true)
    ∧ (Meets malformed3 fun G gr i => notClear malformed3 0x30000 G gr i = some 2 ∧ malformed3.logq = [])
    ∧ (Meets (sup 0x30000 0x30000) fun G gr i => notClear (sup 0x30000 0x30000) 0x30000 G gr i = some 1)
    ∧ Meets (readOnly (sup 0x30000 0x30000)) fun G gr i => notClear (readOnly (sup 0x30000 0x30000)) 0x30000 G gr i = some 0 :=
  ⟨meets _ _ (by decide +kernel), meets _ _ (by decide +kernel), meets _ _ (by decide +kernel), meets _ _ (by decide +kernel), meets _ _ (by decide +kernel), meets _ _ (by decide +kernel), meets _ _ (by decide +kernel), meets _ _ (by decide +kernel),
    meets _ _ (by decide +kernel), meets _ _ (by decide +kernel), meets _ _ (by decide +kernel), meets _ _ (by decide +kernel), meets _ _ (by decide +kernel)⟩

/-- CLEAN and INVAL of eight bytes of a window whose line an L1 holds written; a write that the host has not acknowledged. -/
def windowLine : State := { windowed (s4 0x40000 8 0 0) with l1win := [⟨0, 0x60000 / 128, [(3, 7)], 8, 0, 0⟩] }
def unacked : State := { s4 0x10000 8 0 0 with farPend := 1 }
def cleanable (_s : State) (G : Gang) (iss : Issuer) : Bool := decide (Operable [Use.r (.s 1), Use.r (.s 2)] iss G) && decide (Calm G)
/-- The line of the window that the range holds. -/
def lineOf (s : State) (G : Gang) (gr : Group) (iss : Issuer) : Bool :=
  let va := (iss.rds (.s 1)).toNat
  let n := (iss.rds (.s 2)).toNat % 2 ^ 32
  let hi := va + n - 1
  decide (n ≠ 0 ∧ va < crewBase ∧ va / 65536 = hi / 65536) && s.logq.isEmpty
    && match (s.translate G.part gr.ctx va).1 with
      | .leaf l =>
        let k := 0x60000 / 128
        let pa (va : Nat) : Nat := l.frame + va % l.size
        decide (leafDiscard s.mem l = false ∧ pa va ≤ 128 * k + 127 ∧ 128 * k ≤ pa hi
          ∧ (s.ctx gr.ctx).inWindow (va / 128 * 128 + (128 * k - pa va / 128 * 128)) = true)
      | _ => false
theorem lineOf_sound {s : State} {G : Gang} {gr : Group} {iss : Issuer} (h : lineOf s G gr iss = true) :
    ∃ l u, s.translate G.part gr.ctx (iss.rds (.s 1)).toNat = (.leaf l, u) ∧ leafDiscard s.mem l = false
      ∧ InLines s gr.ctx l (iss.rds (.s 1)).toNat ((iss.rds (.s 1)).toNat + (iss.rds (.s 2)).toNat % 2 ^ 32 - 1) (0x60000 / 128) := by
  unfold lineOf at h
  simp only [Bool.and_eq_true] at h
  replace h := h.2
  split at h
  · rename_i l e
    have h := of_decide_eq_true h
    exact ⟨l, _, Prod.ext e rfl, h.1, h.2⟩
  · cases h
/-- MGET of the identity tile. -/
def mgetable (s : State) (G : Gang) (gr : Group) (iss : Issuer) : Bool :=
  decide (Operable [⟨.s 4, true, 1, 1, 4, 4⟩, Use.r (.s 1)] iss G)
    && match s.checkAccess ⟨G.part, gr.ctx, G.grp, false, false⟩ none (iss.rds (.s 1)).toNat 1 with
      | (.ok y, u) =>
        u.mgetFail G.tail y == none && u.heldAny [y] 1 == false
          && s.room 0 G ⟨[.s 4, .s 5, .s 6, .s 7], [], if G.crawl then [] else (tileOf y.leaf y.pa).words⟩ == .ok
      | _ => false
/-- No entry of the table over the lanes is malformed. -/
def sound1 (s : State) (G : Gang) (gr : Group) (iss : Issuer) : Bool :=
  (accesses vload iss G gr false).all fun e => match walkVa s.mem (s.ctx gr.ctx).root e.2 with | .malformed _ => false | _ => true
theorem sound1_sound {s : State} {G : Gang} {gr : Group} {iss : Issuer} (h : sound1 s G gr iss = true) :
    ∀ e ∈ accesses vload iss G gr false, ∀ p, walkVa s.mem (s.ctx gr.ctx).root e.2 ≠ .malformed p := by
  intro e he p k
  have := List.all_eq_true.mp h e he
  rw [k] at this
  cases this
theorem witness_PrefetchMaintenanceAndMget :
    (Meets (windowed (solo 0x40000)) fun G gr i => Operable (addrUses vload) i G ∧ Roomy (windowed (solo 0x40000)) 0 G []
        ∧ ∀ e ∈ accesses vload i G gr false, ∀ p, walkVa (windowed (solo 0x40000)).mem ((windowed (solo 0x40000)).ctx gr.ctx).root e.2 ≠ .malformed p)
    ∧ (Meets windowLine fun G gr i => cleanable windowLine G i = true ∧ lineOf windowLine G gr i = true ∧ DirtyInWindow windowLine 0x60003
        ∧ ∃ l u, windowLine.translate G.part gr.ctx (i.rds (.s 1)).toNat = (.leaf l, u) ∧ leafDiscard windowLine.mem l = false
          ∧ InLines windowLine gr.ctx l (i.rds (.s 1)).toNat ((i.rds (.s 1)).toNat + (i.rds (.s 2)).toNat % 2 ^ 32 - 1) (0x60000 / 128))
    ∧ (Meets windowLine fun G _ i => cleanable windowLine G i = true ∧ windowLine.farPend = 0
        ∧ ∀ c, c ∈ windowLine.l1win ∨ c ∈ windowLine.l2win → isFar (128 * c.line) = true → c.dirty = 0)
    ∧ (Meets unacked fun G _ i => cleanable unacked G i = true ∧ unacked.farPend ≠ 0)
    ∧ (Meets tiled fun G gr i => mgetable tiled G gr i = true) ∧ Meets (crawl tiled) fun G gr i => mgetable (crawl tiled) G gr i = true := by
  refine ⟨(meets (windowed (solo 0x40000)) (fun G gr i => Operable (addrUses vload) i G ∧ Roomy (windowed (solo 0x40000)) 0 G []
      ∧ sound1 (windowed (solo 0x40000)) G gr i = true) (by decide +kernel)).imp fun _ _ _ h => ⟨h.1, h.2.1, sound1_sound h.2.2⟩,
    (meets windowLine (fun G gr i => cleanable windowLine G i = true ∧ lineOf windowLine G gr i = true) (by decide +kernel)).imp
      fun _ _ _ h => ⟨h.1, h.2, ⟨_, .inl List.mem_cons_self, by decide, by decide⟩, lineOf_sound h.2⟩,
    (meets windowLine (fun G _ i => cleanable windowLine G i = true ∧ windowLine.farPend = 0) (by decide +kernel)).imp fun _ _ _ h => ⟨h.1, h.2, ?_⟩,
    meets _ _ (by decide +kernel), meets _ _ (by decide +kernel), meets _ _ (by decide +kernel)⟩
  rintro c (h | h) k
  · rcases List.mem_singleton.mp h with rfl
    revert k
    decide
  · cases h

/-- Bank core 0 runs an instruction of its kernel, and what is asked of the kernel and of its view holds. -/
def AtBank (s : State) (P : Kernel → Issuer → Prop) : Prop := ∃ k iss, s.issue = .bank 0 k iss ∧ P k iss
theorem atBank (s : State) (P : Kernel → Issuer → Prop) [∀ k i, Decidable (P k i)]
    (h : (match s.issue with | .bank 0 k i => decide (P k i) | _ => false) = true) : AtBank s P := by
  unfold AtBank
  split at h
  · rename_i k i e; exact ⟨k, i, e, by simpa using h⟩
  · cases h
/-- Every lane at the counter 2 of a bank core, so that LOOP reaches its last value 3. -/
def bankNest : State := { banking with items := [{ bankItem with kern := some { kern with nest := (List.range 32).map fun l => (l, 2) } }] }
def bankLd : MemArgs := ⟨.v 3, .s 6, .s 2, 2, 0, 252⟩
/-- What BankKernelWords asks of the accesses of `bankLd`, the last word of the segment. -/
def bankReach (s : State) (k : Kernel) (iss : Issuer) : Bool :=
  let las := bankAccesses bankLd iss bankLd.d.isS
  bankMemOk bankLd && (dataUse bankLd.d bankLd.w true :: addrUses bankLd).all (fun u => u.badBank iss == false) && !las.isEmpty
    && las.all fun e => decide (k.seg ≤ e.2) && decide (e.2 + 4 ≤ k.seg + k.segLen) && e.2 % 4 == 0 && s.badTile 0 (bankBase 0 + e.2) == none
        && s.isPoisoned ((bankBase 0 + e.2) / 4) == false
/-- Every lane at the counter 3, past which IF and LOOP abort. -/
def bankFull : State := { banking with items := [{ bankItem with kern := some { kern with nest := (List.range 32).map fun l => (l, 3) } }] }
/-- A word outside R71, an operand outside v0 to v63 and s0 to s15, an access outside the forms of a bank core. -/
theorem witness_BankKernelWords_aborts :
    (AtBank banking fun _ _ => (Instr.iadd64 (x3 (.v 2) (.v 2) (.v 2))).fields ≠ [] ∧ bankWord (.iadd64 (x3 (.v 2) (.v 2) (.v 2))) = false)
    ∧ (AtBank banking fun _ iss => (∃ o, bankTable (.iadd (x3 (.v 3) (.v 1) (.s 16))) = some o ∧ ∃ u ∈ o.uses, u.badBank iss = true))
    ∧ (AtBank banking fun _ iss => (Use.r (.sp .zero)).badBank iss = true)
    ∧ (AtBank bankFull fun k iss => (∀ u ∈ nestUses (.ifOp ⟨.zero, .s 1, 0, 1⟩), u.badBank iss = false) ∧ (stGet k.nest 0).toNat = 3)
    ∧ (AtBank banking fun _ _ => bankMemOk ⟨.v 3, .sp .zero, .s 2, 3, 0, 0⟩ = false)
    ∧ AtBank banking fun _ iss => (∃ u ∈ dataUse (.v 64) 2 true :: addrUses ⟨.v 64, .s 6, .s 2, 2, 0, 0⟩, u.badBank iss = true)
        ∧ ∃ u ∈ dataUse (.v 8) 2 false :: addrUses ⟨.v 8, .s 6, .s 2, 2, 0, 0⟩, u.badBank iss = true :=
  ⟨atBank _ _ (by decide +kernel),
    (atBank banking (fun _ iss => (Use.r (.s 16)).badBank iss = true) (by decide +kernel)).elim
      fun k h => h.elim fun i h => ⟨k, i, h.1, _, rfl, Use.r (.s 16), by decide, h.2⟩,
    atBank _ _ (by decide +kernel), atBank _ _ (by decide +kernel), atBank _ _ (by decide +kernel), atBank _ _ (by decide +kernel)⟩
theorem witness_BankKernelWords :
    (AtBank banking fun _ iss => (∃ o, bankTable (.iadd (x3 (.v 3) (.v 1) (.s 2))) = some o) ∧ (Instr.iadd (x3 (.v 3) (.v 1) (.s 2))).wf = true
        ∧ ∀ u ∈ [Use.w (.v 3), Use.r (.v 1), Use.r (.s 2)], u.badBank iss = false)
    ∧ (AtBank banking fun _ iss => (Use.r (.s 2)).badBank iss = false)
    ∧ (AtBank bankNest fun k iss => (∀ u ∈ nestUses (.loop ⟨.zero, .zero, 0, 0⟩), u.badBank iss = false)
        ∧ ((List.range 32).all fun l => nestTable (.loop ⟨.zero, .zero, 0, 0⟩) false (stGet k.nest l).toNat == some 3) = true)
    ∧ (AtBank banking fun k iss => bankReach banking k iss = true) ∧ banking.running 0 = some 0 :=
  ⟨(atBank banking (fun _ iss => (bankTable (.iadd (x3 (.v 3) (.v 1) (.s 2)))).isSome = true ∧ (Instr.iadd (x3 (.v 3) (.v 1) (.s 2))).wf = true
        ∧ ∀ u ∈ [Use.w (.v 3), Use.r (.v 1), Use.r (.s 2)], u.badBank iss = false) (by decide +kernel)).elim
      fun k h => h.elim fun i h => ⟨k, i, h.1, Option.isSome_iff_exists.mp h.2.1, h.2.2⟩,
    atBank _ _ (by decide +kernel), atBank _ _ (by decide +kernel), atBank _ _ (by decide +kernel), by decide +kernel⟩

/-- A block of 64 bytes at 0x10000, given as fields (offset, bytes, value), its counter in the crew window, B in s3. -/
def blocked (b : Nat) (fs : List (Nat × Nat × Nat)) : State := fs.foldl (fun s f => State.put s (0x30000 + f.1) f.2.1 f.2.2) (s4 0x10000 crewBase b 0)
/-- What BankCommandsIssue asks of a tile command with the code `code`. -/
def tileCmd (s : State) (code : Nat) (refused : Bool) (G : Gang) (gr : Group) (iss : Issuer) : Bool :=
  decide (Operable [Use.r (.s 1), Use.r (.s 2), Use.r (.s 3)] iss G) && decide (Calm G) && decide (Free G 4)
    && match s.counterCheck G gr iss (iss.rds (.s 1)).toNat (iss.rds (.s 2)).toNat with
      | (.ok _, u) => match u.issueRead (bankAccessor G gr true) iss false (iss.rds (.s 1)).toNat 64 with
        | (.ok bs, v) =>
          let b := BankBlock.ofBytes bs (iss.rds (.s 3)).toNat
          b.cmd == code && fieldAt bs 3 1 == 0 && bankFmtOk b && !bankExtra b && bankSizesOk b && bankAligned b && bankRefused b == refused
            && if refused then (match v.resolve G.part gr.ctx G.grp b.dst false false false with | (.ok _, _) => true | _ => false)
               else match v.stackPages (bankAccessor G gr false) iss (bankSources b) (bankDests b) with | (.ok _, _) => true | _ => false
        | _ => false
      | _ => false
/-- A rectangle of one row of 8 bytes at 0x40000, as ZERO and as ADD; DOT of four elements, and one element too long. -/
def zeroBlock : State := blocked 0 [(1, 1, 1), (4, 4, 8), (8, 8, 0x40000), (32, 4, 1)]
def addBlock : State := blocked 0 [(0, 1, 3), (1, 1, 1), (4, 4, 8), (8, 8, 0x40000), (16, 8, 0x40100), (24, 8, 0x40200), (32, 4, 1)]
def dotBlock (n : Nat) : State := blocked n [(0, 1, 8), (1, 1, 1), (8, 8, 0x40000), (16, 8, 0x40100), (24, 8, 0x40200), (32, 4, 1), (48, 4, 0x3F800000)]
/-- What it asks of BKL. -/
def kernCmd (s : State) (G : Gang) (gr : Group) (iss : Issuer) : Bool :=
  decide (Operable [Use.r (.s 1), Use.r (.s 2), Use.r (.s 3)] iss G) && decide (Calm G) && decide (Free G 4)
    && match s.counterCheck G gr iss (iss.rds (.s 1)).toNat (iss.rds (.s 2)).toNat with
      | (.ok _, u) => match u.issueRead (bankAccessor G gr true) iss false (iss.rds (.s 1)).toNat 64 with
        | (.ok bs, v) =>
          let len := fieldAt bs 24 8
          let base := fieldAt bs 16 8
          fieldAt bs 13 3 == 0 && fieldAt bs 40 24 == 0 && decide (2 ≤ fieldAt bs 12 1) && decide (fieldAt bs 12 1 ≤ 64) && fieldAt bs 8 4 % 8 == 0
            && decide (8 ≤ fieldAt bs 8 4) && decide (fieldAt bs 8 4 ≤ 16384) && len % 128 == 0 && decide (128 ≤ len) && decide (len ≤ 2 ^ 40)
            && fieldAt bs 0 8 % 8 == 0 && base % 128 == 0 && fieldAt bs 32 8 % 128 == 0
            && match v.issueRead (bankAccessor G gr false) iss true (fieldAt bs 0 8) (fieldAt bs 8 4) with
              | (.ok _, w) => match (if fieldAt bs 32 8 = 0 then (IssueRead.ok (List.replicate 128 0), w)
                                     else w.issueRead (bankAccessor G gr false) iss false (fieldAt bs 32 8) 128) with
                | (.ok _, y) => match y.stackPages (bankAccessor G gr false) iss [] [(base, len)] with | (.ok _, _) => true | _ => false
                | _ => false
              | _ => false
        | _ => false
      | _ => false
def kernBlock (params : Nat) : State := blocked 0 [(0, 8, 0x50000), (8, 4, 8), (12, 1, 2), (16, 8, 0x40000), (24, 8, 128), (32, 8, params)]
/-- What it asks of BKIR. -/
def redCmd (s : State) (G : Gang) (gr : Group) (iss : Issuer) : Bool :=
  decide (Operable [Use.r (.s 1), Use.r (.s 2)] iss G) && decide (Calm G) && decide (Free G 4)
    && match s.counterCheck G gr iss (iss.rds (.s 1)).toNat (iss.rds (.s 2)).toNat with
      | (.ok _, u) => match u.issueRead (bankAccessor G gr true) iss false (iss.rds (.s 1)).toNat 64 with
        | (.ok bs, v) =>
          let npkt := fieldAt bs 36 4
          decide (1 ≤ npkt) && decide (npkt ≤ 4096)
            && match v.issueRead (bankAccessor G gr true) iss false (fieldAt bs 40 8) (192 * npkt) with
              | (.ok raw, w) =>
                let pk := packetsOf raw (raw.length / 192)
                let b : RedBlock := ⟨fieldAt bs 0 1, (fieldAt bs 1 1).testBit 0, fieldAt bs 4 4, fieldAt bs 8 8, fieldAt bs 16 8, fieldAt bs 24 8, fieldAt bs 32 4,
                  fieldAt bs 48 8, fieldAt bs 40 8, pk.map fun p => (p.1, p.2.2.take p.2.1)⟩
                let rows := b.packets.map fun p => (b.dst + p.1 * b.dpitch, b.rowb)
                decide ((b.fmt = 1 ∨ b.fmt = 2) ∧ fieldAt bs 1 1 < 2 ∧ fieldAt bs 2 2 = 0 ∧ fieldAt bs 56 8 = 0
                  ∧ b.rowb % 4 = 0 ∧ 4 ≤ b.rowb ∧ b.rowb ≤ 4096 ∧ b.nrows ≠ 0 ∧ b.dpitch % 4 = 0 ∧ b.rowb ≤ b.dpitch ∧ b.tpitch % 4 = 0
                  ∧ b.rowb ≤ b.tpitch ∧ b.table % 4 = 0 ∧ b.dst % 4 = 0 ∧ b.pkt % 64 = 0)
                  && ((List.range pk.length).all fun k => fieldAt raw (192 * k + 8) 56 == 0) && (pk.all fun p => decide (1 ≤ p.2.1 ∧ p.2.1 ≤ 32))
                  && (rows.all fun r =>
                    let size := match walkVa w.mem (w.ctx gr.ctx).root r.1 with | .leaf l => l.size | _ => 65536
                    r.1 / size == (r.1 + r.2 - 1) / size)
                  && match w.stackPages (bankAccessor G gr false) iss [] rows with | (.ok _, _) => true | _ => false
              | _ => false
        | _ => false
      | _ => false
/-- One bag of one index, its row the last word of a 64 KiB unit. -/
def redBlock : State := State.put (blocked 0 [(0, 1, 1), (4, 4, 4), (8, 8, 0x40000), (16, 8, 1), (24, 8, 0x4FFFC), (32, 4, 4), (36, 4, 1), (40, 8, 0x10080), (48, 8, 4)])
  0x30084 4 1
theorem witness_BankCommandsIssue : bktCode (.bktZero ⟨.s 1, .s 2, .s 3⟩) = some (0, ⟨.s 1, .s 2, .s 3⟩)
    ∧ (Meets zeroBlock fun G gr i => tileCmd zeroBlock 0 false G gr i = true) ∧ (Meets addBlock fun G gr i => tileCmd addBlock 3 false G gr i = true)
    ∧ (Meets (dotBlock 4) fun G gr i => tileCmd (dotBlock 4) 8 false G gr i = true)
    ∧ (Meets (dotBlock (2 ^ 24)) fun G gr i => tileCmd (dotBlock (2 ^ 24)) 8 true G gr i = true)
    ∧ (Meets (kernBlock 0) fun G gr i => kernCmd (kernBlock 0) G gr i = true) ∧ (Meets (kernBlock 0x40080) fun G gr i => kernCmd (kernBlock 0x40080) G gr i = true)
    ∧ (Meets redBlock fun G gr i => redCmd redBlock G gr i = true) ∧ Meets seat fun G _ _ => Calm G :=
  ⟨rfl, meets _ _ (by decide +kernel), meets _ _ (by decide +kernel), meets _ _ (by decide +kernel), meets _ _ (by decide +kernel),
    meets _ _ (by decide +kernel), meets _ _ (by decide +kernel), meets _ _ (by decide +kernel), meets _ _ (by decide +kernel)⟩

/-- A word of the matrix layout on s1, s2 and slots 0 and 1 at K = 192; K = 512 and K = 32. -/
def matWord (kq : BitVec 4) (ofmt : BitVec 2 := 0) : MatArgs := ⟨.s 1, .s 2, kq, false, 0, 1, ofmt, 0, 16, false⟩
/-- Both slots, and operands in the group's own scratchpad bytes. -/
def matSeat (slot0 slot1 : Nat) : State :=
  (s4 crewBase (crewBase + 0x4000) 0 0).updGroup 0 fun g => { g with slots := BitVec.ofNat 128 slot0 :: BitVec.ofNat 128 slot1 :: g.slots.drop 2 }
/-- MXFP4, scale pairs in the crew window. -/
def mx (va : Nat) : Nat := 6 + 2 ^ 64 * va
/-- What MatrixInstructionsIssue asks of MMA and MMAS. -/
def multiplies (s : State) (x : MatArgs) (sparse : Bool) (G : Gang) (_gr : Group) (iss : Issuer) : Bool :=
  let k := 32 * (x.kq.toNat + 1)
  let sa := iss.slot x.sa.toNat
  let sb := iss.slot x.sb.toNat
  let d := (iss.rds x.d).toNat
  let a := (iss.rds x.a).toNat
  decide (Operable [Use.r x.d, Use.r x.a] iss G) && decide (Calm G) && decide (Free G 1)
    && (if sparse then mmasCheck x iss == none else mmaCheck x iss == none)
    && match s.matCheck iss G.grp 1 (!sparse && decide (5 ≤ slotFmt sa))
        [(d, if sparse then sparseBytes k else denseBytes (slotFmt sa) k, sa), (a, denseBytes (if sparse then 3 else slotFmt sa) k, sb)] with
      | .ok _ => true
      | _ => false
def stores (s : State) (x : MatArgs) (G : Gang) (_gr : Group) (iss : Issuer) : Bool :=
  decide (Operable [Use.r x.d] iss G) && decide (Calm G) && decide (Free G 1)
    && match s.matCheck iss G.grp 2 false [((iss.rds x.d).toNat, 4096 * outWidth x.ofmt.toNat, 0)] with | .ok _ => true | _ => false
theorem witness_MatrixInstructionsIssue :
    (Meets (matSeat 2 2) fun G gr i => multiplies (matSeat 2 2) (matWord 0) false G gr i = true)
    ∧ (Meets (matSeat (mx (crewBase + 0x8000)) (mx (crewBase + 0x9000))) fun G gr i =>
        multiplies (matSeat (mx (crewBase + 0x8000)) (mx (crewBase + 0x9000))) (matWord 15) false G gr i = true)
    ∧ (Meets (matSeat (3 + 2 ^ 24) 3) fun G gr i => multiplies (matSeat (3 + 2 ^ 24) 3) (matWord 5) true G gr i = true)
    ∧ (Meets (matSeat 3 3) fun G gr i => stores (matSeat 3 3) (matWord 0) G gr i = true)
    ∧ (Meets seat fun G _ i => Operable [⟨.v 32, true, 32, 1, 1, 1⟩] i G ∧ Operable [⟨.v 32, false, 32, 1, 1, 1⟩] i G ∧ seat.holding 0 G.part = false ∧ Calm G) :=
  ⟨meets _ _ (by decide +kernel), meets _ _ (by decide +kernel), meets _ _ (by decide +kernel), meets _ _ (by decide +kernel), meets _ _ (by decide +kernel)⟩

/-- An operation at the head of the unit of partition 0, of the gang that owns or may claim the accumulator. -/
def headOp (kind kb : Nat) : MatOp := ⟨kind, 0, 0xFFFFFFFF, 0xFFFFFFFF, 0, matWord 5, kb, 0x40000, 0x44000, 0, 0, 3 + 2 ^ 24, 3, [], [], []⟩
def unitAt (o : MatOp) (owner : Option Nat) : State :=
  seat.updPart 0 fun P => { P with mq := [o], accs := [{ Acc.zero with owner := owner }, Acc.zero] }
/-- What MatrixUnitEvents asks of the unit of partition 0 with the operation `o`. -/
def ready (s : State) (o : MatOp) : Prop :=
  (s.part 0).mq = [o] ∧ (s.claim 0 o).isSome = true ∧ (s.part 0).accs.length = 2 ∧ s.gangs[o.gang]? = some (theGang s) ∧ (theGang s).stand ≠ .ended
  ∧ s.operandsUp o = true
/-- A unit whose progress is `n` clk back, and one whose first sparse line is malformed. -/
def stuck (n : Nat) : State := { unitAt (headOp 0 0) (some 0) with clock := BitVec.ofNat 64 n }
/-- An operand in the scratchpad of a group whose core is offline; a unit that has read one operand word and written one word. -/
def crewOp : MatOp := { headOp 0 0 with a := Config.scratchBase 0 }
def coreDown : State := (unitAt crewOp (some 0)).setCore 0 { (unitAt crewOp (some 0)).core 0 with offline := true }
def partRead : MatOp := { headOp 0 5 with got := [(0x10000, 7)] }
def partWritten : MatOp := { headOp 5 63 with did := [0x10FC0] }
def badLine : State := { unitAt (headOp 1 0) none with mem := memPut seat.mem 0x40000 [0x1F] }
theorem witness_MatrixUnitEvents :
    (ready (unitAt (headOp 0 5) none) (headOp 0 5) ∧ (unitAt (headOp 0 5) none).mmaStop (headOp 0 5) = none)
    ∧ (ready (unitAt (headOp 1 0) (some 0)) (headOp 1 0) ∧ (unitAt (headOp 1 0) (some 0)).mmaStop (headOp 1 0) = none)
    ∧ ready (unitAt (headOp 2 0) none) (headOp 2 0) ∧ ready (unitAt (headOp 6 0) (some 0)) (headOp 6 0) ∧ ready (unitAt (headOp 3 0) (some 0)) (headOp 3 0)
    ∧ ready (unitAt (headOp 4 0) none) (headOp 4 0) ∧ ready (unitAt (headOp 5 0) none) (headOp 5 0)
    ∧ (ready (unitAt (headOp 5 63) (some 0)) (headOp 5 63) ∧ (headOp 5 63).kb < 64)
    ∧ (ready (unitAt partRead (some 0)) partRead ∧ (unitAt partRead (some 0)).mmaStop partRead = none) ∧ ready (unitAt partWritten (some 0)) partWritten
    ∧ ((coreDown.part 0).mq = [crewOp] ∧ (coreDown.claim 0 crewOp).isSome = true ∧ coreDown.operandsUp crewOp = false)
    ∧ (((stuck (2 ^ 24)).part 0).mq ≠ [] ∧ ((stuck (2 ^ 24)).part 0).progress + 2 ^ 24 ≤ (stuck (2 ^ 24)).clock.toNat
        ∧ (∃ o ∈ ((stuck (2 ^ 24)).part 0).mq, o.gang = 0) ∧ (theGang (stuck (2 ^ 24))).stand ≠ .ended ∧ (theGang (stuck (2 ^ 24))).deferred = [])
    ∧ ((stuck (2 ^ 24 - 1)).clock.toNat < ((stuck (2 ^ 24 - 1)).part 0).progress + 2 ^ 24 ∧ (seat.part 0).mq = [])
    ∧ (ready badLine (headOp 1 0) ∧ badLine.mmaStop (headOp 1 0) = some (.badsparse, 0, badLine.crewVa 0 0x40000) ∧ (theGang badLine).deferred = []) := by
  unfold ready; decide +kernel

/-- An open tail of gang 0 from its present state. -/
def open_ : Tail := ⟨⟨(theGang seat).slices, [], 0⟩, 0, [], [], [], [], [], 0, false, false, none, []⟩
def tailed (t : Tail) : State := State.gang0 seat fun G => { G with tail := some t }
/-- One buffered store to the page at 0x30000. -/
def bufLeaf : Leaf := ⟨0x18010, 65536, 0x30000, 0, 0, 0, false, false, true, false, none⟩
def storing : State := tailed { open_ with sbuf := [⟨bufLeaf, false, [(0x30000, 7)]⟩] }
/-- A page fault held in the tail. -/
def heldTrap : HeldFault := ⟨TrapInfo.plain .pagefault 1 0xFF 0, open_.ckpt, [], [], [], [], [], [], [], []⟩
def holding : State := tailed { open_ with held := some heldTrap }
def loading : State := State.gang0 seat fun G => { G with pend := [⟨[(32, 5)], [(1, 6)]⟩] }
def asleep (u clk : Nat) : State := { State.gang0 seat fun G => { G with sleep := G.sleep.set 3 u } with clock := BitVec.ofNat 64 clk }
def opDone : AsyncOp := ⟨0, 0, 2, 0, 0, .map .mat, [], [], false⟩
def finishing : State := { seat with ops := [opDone] }
def running (n : Nat) : State := seat.updPart 0 fun P => { P with token := some 0, run := n }
theorem witness_GangEvents :
    ((theGang storing).tail = some { open_ with sbuf := [⟨bufLeaf, false, [(0x30000, 7)]⟩] } ∧ (theGang storing).pend = []
        ∧ storing.bufHeld [⟨bufLeaf, false, [(0x30000, 7)]⟩] = false ∧ open_.walks = [] ∧ bufLeaf.tier ≠ 2 ∧ bufLeaf.mapped = false ∧ leafDiscard storing.mem bufLeaf = false
        ∧ (bufBytes [⟨bufLeaf, false, [(0x30000, 7)]⟩]).all (fun b => b.1 != bufLeaf.pte + 1) = true)
    ∧ ((theGang (tailed { open_ with count := 256 })).tail = some { open_ with count := 256 }
        ∧ ∃ gr, (tailed { open_ with count := 256 }).groups[(theGang (tailed { open_ with count := 256 })).grp]? = some gr)
    ∧ (theGang (tailed { open_ with conflict := true })).tail = some { open_ with conflict := true }
    ∧ ((theGang (State.gang0 (crawl seat) fun G => { G with crawlCnt := 256 })).crawl = true ∧ 256 ≤ (theGang (State.gang0 (crawl seat) fun G => { G with crawlCnt := 256 })).crawlCnt)
    ∧ ((theGang holding).tail = some { open_ with held := some heldTrap } ∧ heldTrap.pend = [] ∧ holding.bufHeld heldTrap.sbuf = false
        ∧ heldTrap.trap.gather = [] ∧ heldTrap.trap.walks = [] ∧ (theGang holding).super = false
        ∧ ∃ gr, holding.groups[(theGang holding).grp]? = some gr ∧ VectorRuns (holding.commitTail 0 (theGang holding) heldTrap.sbuf heldTrap.xts heldTrap.walks) (theGang holding) gr)
    ∧ ((theGang loading).pend[0]? = some ⟨[(32, 5)], [(1, 6)]⟩ ∧ (theGang loading).tail = none)
    ∧ ((theGang (asleep 9 9)).sleep[3]? = some 9 ∧ (9 : Nat) ≤ (asleep 9 9).clock.toNat ∧ (asleep 9 9).clock.toNat < 9 + 2 ^ 63)
    ∧ ((theGang (asleep 9 8)).sleep[3]? = some 9 ∧ (asleep 9 8).clock.toNat < 9 ∧ 9 ≤ (asleep 9 8).clock.toNat + 2 ^ 63)
    ∧ ((finishing.ops.find? fun o => o.gang = 0 && o.cls = 2) = some opDone ∧ opDone.elems = [] ∧ opDone.busy = false ∧ finishing.gangs[0]? = some (theGang finishing))
    ∧ (((running 64).part 0).token.isSome = true ∧ 64 ≤ ((running 64).part 0).run) := by
  refine ⟨by decide +kernel, ⟨by decide +kernel, _, rfl⟩, by decide +kernel, by decide +kernel, ⟨by decide +kernel, by decide +kernel, by decide +kernel,
    by decide +kernel, by decide +kernel, by decide +kernel, (holding.groups[0]?).get (by decide +kernel), by decide +kernel, by decide +kernel⟩, by decide +kernel, by decide +kernel,
    by decide +kernel, by decide +kernel, by decide +kernel⟩

/-- The pages at 0x10000 and at 0x20000, the latter of tiles. -/
def plainLeaf : Leaf := ⟨0x18010, 65536, 0x30000, 0, 0, 0, false, false, true, false, none⟩
def tileLeaf : Leaf := ⟨0x18020, 65536, 0x40000, 0x50000, 0, 0, true, false, true, false, none⟩
def word0 : Xlat := ⟨0x10000, 0x30000, plainLeaf, false⟩
/-- A state with operation 0 of some kind, elements and pages, and one in which a bank command holds the line at 0x30000. -/
def opOf (k : OpKind) (es : List Elem) (ps : List (Nat × Leaf)) : AsyncOp := ⟨0, 0, 5, 0, 0, k, es, ps, false⟩
def doing (o : AsyncOp) : State := { seat with ops := [o] }
def banked (s : State) : State := { s with cmds := [{ bankCmd with range := [(0x30000, 0x30080)] }] }
def reds : AsyncOp := opOf (.red 0 false) [.red 0x10000 (some word0) 5, .red 0x10000 (some word0) 6, .red 0x10004 none 7] []
def merges : AsyncOp := opOf .smrg [.merge 0x10000 (some word0) 1 2 (List.replicate 32 3)] []
def copies : AsyncOp := opOf (.copy 0) [.copy 0 [(0x10000, srcWord 0x10FFC)]] [(0x10000, plainLeaf)]
theorem witness_FarAndCopyElements :
    ((doing reds).op 0 = some reds ∧ reds.elems[0]? = some (.red 0x10000 (some word0) 5) ∧ (doing reds).redBlocked reds 0 0x10000 (some word0) = false
        ∧ (doing reds).heldAny [word0] 4 = false ∧ Plain (doing reds) word0 ∧ ((List.range 4).all fun k => !(doing reds).isPoisoned ((word0.pa + k) / 4)) = true)
    ∧ (doing reds).redBlocked reds 1 0x10000 (some word0) = true ∧ (banked (doing reds)).heldAny [word0] 4 = true
    ∧ (reds.elems[2]? = some (.red 0x10004 none 7) ∧ (doing reds).redBlocked reds 2 0x10004 none = false
        ∧ (match (doing reds).farWalk reds 0x10004 with | (.ok y, u) => decide (y.pa = 0x30004 ∧ u = doing reds) | _ => false) = true)
    ∧ ((doing merges).op 0 = some merges ∧ (doing merges).held 0x30000 (128 + 4 * 32) = false ∧ Plain (doing merges) word0
        ∧ ((List.range 64).all fun k => !(doing merges).isPoisoned (word0.pa / 4 + k)) = true)
    ∧ ((doing copies).op 0 = some copies ∧ copies.elems[0]? = some (.copy 0 [(0x10000, srcWord 0x10FFC)]) ∧ pageOf copies.pages 0x10000 = some (0x10000, plainLeaf)
        ∧ ((List.range 4).all fun j => pageOf copies.pages (0x10FFC + j) == some (0x10000, plainLeaf)) = true
        ∧ (doing copies).copyHeld copies.pages [(0x10000, srcWord 0x10FFC)] = false ∧ plainLeaf.mapped = false ∧ plainLeaf.tier ≠ 2 ∧ leafDiscard (doing copies).mem plainLeaf = false
        ∧ physOf (0x10000, plainLeaf) 0x10000 % 4 = 0 ∧ isFar (physOf (0x10000, plainLeaf) 0x10000) = false
        ∧ ((List.range 4).all fun j => !isFar (0x30FFC + j) && !(doing copies).isPoisoned ((0x30FFC + j) / 4)) = true)
    ∧ (banked (doing copies)).copyHeld copies.pages [(0x10000, srcWord 0x10FFC)] = true := by decide +kernel

/-- A map command on the tile at 0x20000, whose header is `h`. -/
def mapping (m : MapCmd) (h : Hdr) : State := State.put (doing (opOf (.map m) [.tile 0x20000] [(0x20000, tileLeaf)])) 0x50000 32 h.toNat
def tile0 : Tile := tileOf tileLeaf (physOf (0x20000, tileLeaf) 0x20000)
def scaleBy (a : Word) : MapCmd := .edit a 0 0xFF800000 0x7F800000 0 0
/-- A header that is no identity: the map has the scale 2. -/
def doubled : Hdr := { Hdr.identity 1 0 with a := 0x40000000, ident := false }
def composes (h : Hdr) (a : Nat) : Option Hdr := h.compose ⟨a, 0, 0xFF800000, 0x7F800000, 0, 0⟩
/-- A filled tile whose payload has a poisoned word. -/
def filledPoison : State := { mapping .mat { doubled with filled := true } with poison := [0x40000 / 4] }
/-- A command on a tile that a bank command holds: it waits. -/
def mappingHeld : State := { mapping .mat doubled with cmds := [{ bankCmd with range := [(0x40000, 0x40080)] }] }
/-- A kv command with its elements on the descriptor at 0x10800. -/
def kvDesc (d : Desc) (es : List Elem) : State := State.put (doing (opOf .kv es [])) 0x30800 32 d.toNat
def descAt : Xlat := ⟨0x10800, 0x30800, plainLeaf, false⟩
def descSound (s : State) : Bool :=
  !s.held 0x30800 32 && !plainLeaf.mapped && !leafDiscard s.mem plainLeaf && ((List.range 32).all fun k => !s.isPoisoned ((0x30800 + k) / 4))
    && !(Desc.ofNat (memNat s.mem 0x30800 32)).malformed
def desc1 (r fill : Nat) : Desc := ⟨r, 1, 0, 0x11000, 0x11200, 0x2000 + fill, 0⟩
theorem witness_MapAndKvElements :
    (TileSound (mapping (scaleBy 0x40000000) (Hdr.identity 1 0)) tile0 ∧ (mapping (scaleBy 0x40000000) (Hdr.identity 1 0)).engineHeld tileLeaf tile0.pa 256 = false
        ∧ (composes (Hdr.ofNat ((mapping (scaleBy 0x40000000) (Hdr.identity 1 0)).tileHdr tile0)) 0x40000000).isSome = true ∧ 0 < indexWidth 1 ∧ 0 < 2 ^ indexWidth 1)
    ∧ (TileSound (mapping (scaleBy 0x7F000000) { doubled with a := 0x7F000000 }) tile0
        ∧ composes (Hdr.ofNat ((mapping (scaleBy 0x7F000000) { doubled with a := 0x7F000000 }).tileHdr tile0)) 0x7F000000 = none
        ∧ (mapping (scaleBy 0x7F000000) { doubled with a := 0x7F000000 }).payloadPoisoned tile0 = false ∧ Apart tile0)
    ∧ (TileSound (mapping .mat doubled) tile0 ∧ (Hdr.ofNat ((mapping .mat doubled).tileHdr tile0)).ident = false
        ∧ (mapping .mat doubled).payloadPoisoned tile0 = false ∧ (mapping .mat doubled).engineHeld tileLeaf tile0.pa 256 = false)
    ∧ (TileSound filledPoison tile0 ∧ (Hdr.ofNat (filledPoison.tileHdr tile0)).ident = false ∧ (Hdr.ofNat (filledPoison.tileHdr tile0)).filled = true
        ∧ filledPoison.payloadPoisoned tile0 = true)
    ∧ (TileSound (mapping .drop doubled) tile0 ∧ (Hdr.ofNat ((mapping .drop doubled).tileHdr tile0)).ident = false)
    ∧ (Hdr.ofNat ((mapping .mat (Hdr.identity 1 0)).tileHdr tile0)).ident = true
    ∧ (setHdr (memNat (mapping .mat doubled).mem tile0.hpa 32) doubled.toNat false).isSome = true ∧ tile0.leaf.tier ≠ 2 ∧ leafDiscard (mapping .mat doubled).mem tile0.leaf = false
        ∧ 0x2001C % 256 < 32
    ∧ (setHdr (memNat (mapping .mat doubled).mem tile0.hpa 32) doubled.toNat true).isSome = true
    ∧ (MapCmd.mat.ahead = false ∧ mappingHeld.engineHeld tileLeaf tile0.pa 256 = true)
    ∧ (pageOf [(0x20000, tileLeaf)] 0x20000 = some (0x20000, tileLeaf))
    ∧ ((doing (opOf .kv [.put word0 5] [])).held word0.pa 4 = false ∧ leafDiscard (doing (opOf .kv [.put word0 5] [])).mem word0.leaf = false)
    ∧ (descSound (kvDesc (desc1 65534 1) [.refInc descAt]) = true ∧ (Desc.ofNat (memNat (kvDesc (desc1 65534 1) [.refInc descAt]).mem 0x30800 32)).ref < 65535)
    ∧ (descSound (kvDesc (desc1 2 1) [.refDec descAt 0 word0]) = true ∧ laterDrop [.refDec descAt 0 word0] 0 = false
        ∧ 1 < (Desc.ofNat (memNat (kvDesc (desc1 2 1) [.refDec descAt 0 word0]).mem 0x30800 32)).ref)
    ∧ (descSound (kvDesc (desc1 1 15) [.grow descAt]) = true ∧ (Desc.ofNat (memNat (kvDesc (desc1 1 15) [.grow descAt]).mem 0x30800 32)).fill < 16)
    ∧ descSound (kvDesc (desc1 1 16) [.setPos descAt 9]) = true := by decide +kernel

/-- A ZERO of one row over two lines and its command, before its recall; with its range held and a share of two pieces that runs. -/
def tileBlk : BankBlock := ⟨0, 1, 0, 256, 0x10000, 0, 0, 1, 256, 0, 0, 0, 0, 0, 0⟩
def tileBank (held started : Bool) (prio : Nat) : BankCmd :=
  ⟨prio, 0, 0, prio, 0, 0, .tile tileBlk, [(0x10000, 256, true)], [(0x10000, plainLeaf)], [(0x30000, 0x30100)], [], [(0, [⟨0, 0, 128, 0x30000⟩])], held, started⟩
def waitingCmd : State := { tailed { open_ with reads := [0xC000] } with cmds := [tileBank false false 0], owner := [(0xC000, 1)] }
def share (st : ItemStand) (cmd : Nat) : BankItem := ⟨cmd, 0, st, [⟨0, 0, 128, 0x30000⟩, ⟨0, 128, 256, 0x30080⟩], none, 0, [], 0, [], []⟩
def queuedShare : State := { seat with cmds := [tileBank true true 0], items := [share .queued 0] }
def runningShare : State := { seat with cmds := [tileBank true true 0], items := [share .running 0] }
/-- A kernel about to start. -/
def queuedKern : State := { seat with cmds := [bankCmd], items := [⟨0, 0, .queued, [⟨0x10000, 256, 0, 0x1000⟩], none, 0, [], 0, [], []⟩] }
/-- A share runs while one of a command of PRIO 1 is ready, with `n` items set aside already. -/
def outranked (n : Nat) : State :=
  { seat with cmds := [tileBank true true 0, { tileBank true true 1 with range := [] }],
              items := share .running 0 :: share .queued 1 :: List.replicate n (share .suspended 0) }
/-- Its range is not recalled; a word of its first part has been written; its context leaves the device with its bank commands. -/
def unheldShare : State := { seat with cmds := [tileBank false true 0], items := [share .running 0] }
def halfItem : BankItem := { share .running 0 with did := [(0, 0)] }
def halfShare : State := { seat with cmds := [tileBank true true 0], items := [halfItem] }
def leavingShare : State := runningShare.updCtx 0 fun c => { c with suspend := true, bksave := 0x60000 }
theorem witness_BankEvents :
    (waitingCmd.cmd 0 = some (tileBank false false 0) ∧ waitingCmd.wantsRecall (tileBank false false 0) = true ∧ waitingCmd.mkReady (tileBank false false 0) = true
        ∧ waitingCmd.rangeHeld (tileBank false false 0) = false ∧ (theGang waitingCmd).tail = some { open_ with reads := [0xC000] }
        ∧ ∀ e ∈ (tileBank false false 0).pages, e.2.mapped = false ∧ leafDiscard waitingCmd.mem e.2 = false)
    ∧ (queuedShare.bankOffline 0 = false ∧ queuedShare.running 0 = none ∧ queuedShare.nextItem 0 = some 0 ∧ queuedShare.items[0]? = some (share .queued 0))
    ∧ (queuedKern.running 0 = none ∧ queuedKern.nextItem 0 = some 0 ∧ (queuedKern.items[0]?).map (·.kern) = some none ∧ queuedKern.cmd 0 = some bankCmd)
    ∧ (runningShare.running 0 = some 0 ∧ runningShare.items[0]? = some (share .running 0) ∧ runningShare.cmd 0 = some (tileBank true true 0)
        ∧ bankRefused tileBlk = false ∧ (share .running 0).pieces[0]? = some ⟨0, 0, 128, 0x30000⟩
        ∧ (share .running 0).pieces[0 + 1]? = some ⟨0, 128, 256, 0x30080⟩ ∧ (share .running 0).did = [] ∧ (share .running 0).prog = 0
        ∧ (tileBank true true 0).held = true ∧ (tileBank true true 0).bad = []
        ∧ runningShare.bankRow (tileBank true true 0) tileBlk 0 0 128 = .ok (List.replicate 128 0))
    ∧ (unheldShare.bankOffline 0 = false ∧ unheldShare.running 0 = some 0 ∧ unheldShare.items[0]? = some (share .running 0)
        ∧ unheldShare.cmd 0 = some (tileBank false true 0) ∧ (tileBank false true 0).held = false)
    ∧ (halfShare.running 0 = some 0 ∧ halfShare.items[0]? = some halfItem ∧ halfItem.half = true)
    ∧ (leavingShare.running 0 = some 0 ∧ leavingShare.items[0]? = some (share .running 0) ∧ (share .running 0).half = false
        ∧ leavingShare.cmd 0 = some (tileBank true true 0) ∧ leavingShare.bankLeaves 0 = true)
    ∧ ((outranked 3).running 0 = some 0 ∧ (outranked 3).suspendedAt 0 < 4
        ∧ ∃ x ∈ (outranked 3).items, x.core = 0 ∧ (outranked 3).itemReady x = true ∧ (outranked 3).itemPrio (share .running 0) < (outranked 3).itemPrio x)
    ∧ (4 ≤ (outranked 4).suspendedAt 0 ∧ ∀ d ∈ (outranked 4).cmds, (outranked 4).bankLeaves d.ctx = false)
    ∧ (∀ x ∈ runningShare.items, x.core = 0 → runningShare.itemReady x = true → runningShare.itemPrio x ≤ runningShare.itemPrio (share .running 0)) := by decide +kernel

/-- A launch record at 0x10100 with one group of one gang, submitted to context 0. -/
def submitted : State :=
  let s := [(0x08, 4, 1), (0x0C, 2, 1), (0x0E, 2, 1), (0x10, 1, 1), (0x11, 1, 1), (0x12, 2, 32), (0x18, 1, 1)].foldl
    (fun (s : State) (f : Nat × Nat × Nat) => State.put s (0x30100 + f.1) f.2.1 f.2.2) seat
  s.updCtx 0 fun c => { c with queue := [⟨0x10100, .host, 0⟩] }
def recordAt : Xlat := ⟨0x10100, 0x30100, plainLeaf, false⟩
def recordBytes : List Byte := memBytes (memPut submitted.mem (0x30100 + 0x78) (leBytes 8 0)) 0x30100 256
/-- A node whose group is still to be placed, and one whose last group has ended. -/
def placing : State := { seat with nodes := seat.nodes.map (fun n => { n with placed := [] }), groups := [], gangs := [], parts := [] }
def waiting0 : Waiting := ⟨0, true, 0, 0, 0, none⟩
def quiet (lost : Bool) : State :=
  { seat with nodes := seat.nodes.map (fun n => { n with pa := 0x30100, lost := lost }), groups := seat.groups.map fun g => { g with stand := .ended } }
/-- A group to be pre-empted: its context is suspended, its node has a save area. -/
def saving (n : Node) : Node := { n with lr := { n.lr with save := 0x60000 } }
def goes_ (b : Bool) (g : Group) : Group := { g with leaving := b }
def leaving (b : Bool) : State :=
  State.updCtx { seat with nodes := seat.nodes.map saving, groups := seat.groups.map (goes_ b) } 0 fun c => { c with suspend := true }
/-- The same in the middle of a word; a group of a lower PRIO, for which a waiting one asks, on a device of one core with no room. -/
def midway : State := State.gang0 (leaving false) fun G => { G with midway := some ⟨0, none, []⟩ }
def outbid : State :=
  let lr (n : Node) (p : Nat) : LaunchRec := { n.lr with save := 0x60000, prio := p, scratch := Config.scratchBytes }
  { seat with nodes := (seat.nodes.map fun n => { n with lr := lr n 0 }) ++ seat.nodes.map (fun n => { n with addr := 0x10200, lr := lr n 1, placed := [] }),
              groups := seat.groups.map (fun g => { g with scratch := Config.scratchBytes }), clusters := [0],
              cores := (List.range 7).map fun c => (c + 1, { seat.core (c + 1) with offline := true }) }
/-- A saved group whose block stands in a page that can be read. -/
def savedSeat : State :=
  { seat with nodes := seat.nodes.map (fun n => { n with lr := { n.lr with save := 0x10000 } }), groups := seat.groups.map (fun g => { g with stand := .saved, regs := 32 }),
              gangs := seat.gangs.map (fun G => { G with stand := .saved }), parts := [] }
def waitingSaved : Waiting := ⟨0, false, 0, 0, 0, some 0⟩
/-- A part of the block read back without a change. -/
def readsBack (g : Group) (at_ n : Nat) : Bool := match savedSeat.saveRead g (0x10000 + g.lin * saveBytes g + at_) n with | (some _, u) => decide (u = savedSeat) | _ => false
theorem readsBack_sound {g : Group} {at_ n : Nat} (h : readsBack g at_ n = true) : ∃ bs, savedSeat.saveRead g (0x10000 + g.lin * saveBytes g + at_) n = (some bs, savedSeat) := by
  unfold readsBack at h
  split at h
  · rename_i bs u e
    exact ⟨bs, by rw [e, of_decide_eq_true h]⟩
  · cases h
theorem witness_DispatchEvents_restore :
    (savedSeat.firstWaiting = some waitingSaved ∧ (∀ y ∈ [Seat.mk 7 7], y.core ∈ savedSeat.usableCores (clusterOf y.core)) ∧ MemoryTidy savedSeat
      ∧ savedSeat.l1win = [] ∧ savedSeat.l2win = []
      ∧ seatsOk (savedSeat.waitQueues waitingSaved) (savedSeat.seatings waitingSaved) [⟨7, 7⟩] (savedSeat.onCores fun _ => false) [] = true)
    ∧ ∃ g n M, savedSeat.groups[0]? = some g ∧ savedSeat.nodes[0]? = some n ∧ savedSeat.gangs[0]? = some M ∧ g.members = [0] ∧ M.stand = .saved
      ∧ savedSeat.unitOf n.lr g = [(0, g)] ∧ n.lr.save = 0x10000
      ∧ (∃ bs, savedSeat.saveRead g (n.lr.save + g.lin * saveBytes g + saveGangAt g M.idx) (128 * g.regs) = (some bs, savedSeat))
      ∧ ∃ sc, savedSeat.saveRead g (n.lr.save + g.lin * saveBytes g + saveScratchAt g) g.scratch = (some sc, savedSeat) :=
  ⟨by unfold MemoryTidy; decide +kernel, (savedSeat.groups[0]?).get (by decide +kernel), (savedSeat.nodes[0]?).get (by decide +kernel), (savedSeat.gangs[0]?).get (by decide +kernel),
    by decide +kernel, by decide +kernel, by decide +kernel, by decide +kernel, by decide +kernel, by decide +kernel, by decide +kernel,
    readsBack_sound (by decide +kernel), readsBack_sound (by decide +kernel)⟩

/-- An edge of a successor list (R354), and a node with a list of edges whose result word and join word hold `r` and `j`. -/
def edge (t mask value join : Nat) : List Byte := leBytes 8 t ++ leBytes 4 mask ++ leBytes 4 value ++ leBytes 8 join ++ leBytes 8 0
def graph (es : List (List Byte)) (r j : Nat) : State :=
  let s := { quiet false with nodes := (quiet false).nodes.map fun n => { n with lr := { n.lr with next := 0x10200, result := 0x10400 } } }
  let s := State.put (State.put (State.put s 0x30200 16 (256 + es.length)) 0x30400 4 r) 0x30500 4 j
  { s with mem := memPut s.mem 0x30210 es.flatten }
/-- The machine once STATUS is written. -/
def ended (s : State) : State := (s.updNode 0 fun n => { n with stand := .done, yard := [] }).writeNat none none (0x30100 + 0x78) 8 1
def lists (u : State) (h : Nat) (es : List (List Byte)) : Bool :=
  match u.devRead 0 0x10200 16 with
  | (.ok hd, v) => decide (v = u ∧ leNat hd = h ∧ h < 2 ^ 9 ∧ h % 2 ^ 8 ≤ 64) && match u.devRead 0 (0x10200 + 16) (32 * (h % 2 ^ 8)) with
    | (.ok body, w) => decide (w = u ∧ es = (List.range (h % 2 ^ 8)).map (fun k => (body.drop (32 * k)).take 32)
        ∧ ∀ e ∈ es, leNat (e.take 8) / 2 ^ 57 = 0 ∧ leNat (e.take 8) / 2 ^ 2 % 2 ^ 6 = 0 ∧ leNat (e.drop 24) = 0)
    | _ => false
  | _ => false
theorem lists_sound {u : State} {h : Nat} {es : List (List Byte)} (k : lists u h es = true) : ListReads u 0 0x10200 h es := by
  unfold lists at k
  split at k <;> [rename_i hd v e; cases k]
  simp only [Bool.and_eq_true, decide_eq_true_eq] at k
  obtain ⟨⟨rfl, hh, h9, h64⟩, k⟩ := k
  split at k <;> [rename_i body w e'; cases k]
  obtain ⟨rfl, hes, hr⟩ := of_decide_eq_true k
  exact ⟨by decide, by decide, h9, h64, hd, body, e, hh, e', hes, hr⟩
/-- What NODE_COMPLETE asks of the node of such a state. -/
def completes (s : State) : Bool :=
  match s.nodes[0]? with
  | some n => n.stand == .launched && (s.ctx n.ctx).active && s.nodeQuiet 0 n && !s.endingHeld n.ending && n.ctx = 0 && n.lr.next = 0x10200 && n.pa = 0x30100 && !n.lost
  | none => false
/-- Two edges, one on STATUS that relays, one on the result word; one with a join word at 0x10500. -/
def twoEdges : List (List Byte) := [edge (0x10600 + 3) 1 1 0, edge 0x10700 0xFF 5 0]
def joinEdge1 : List Byte := edge (0x10600 + 1) 1 1 0x10500
def plainAt (s : State) (va pa : Nat) : Bool :=
  match s.devXlat 0 va true with
  | (.ok x, u) => decide (u = s ∧ x.pa = pa ∧ x.leaf.crew = false ∧ x.leaf.tier ≠ 2 ∧ leafDiscard s.mem x.leaf = false)
  | _ => false
theorem witness_DispatchEvents_edges :
    (completes (graph twoEdges 5 0) = true ∧ ListReads (ended (graph twoEdges 5 0)) 0 0x10200 0x102 twoEdges ∧ (∀ e ∈ twoEdges, edgeJoin e = 0)
      ∧ twoEdges.map edgeSel = [true, false] ∧ twoEdges.map (edgeHolds 1 5) = [true, true] ∧ twoEdges.map edgeTo = [0x10600, 0x10700]
      ∧ (match (ended (graph twoEdges 5 0)).devRead 0 0x10400 4 with | (.ok bs, u) => decide (u = ended (graph twoEdges 5 0) ∧ leNat bs = 5) | _ => false) = true
      ∧ ∀ m ∈ (ended (graph twoEdges 5 0)).nodes, m.stand ≠ .launched)
    ∧ (∀ v ∈ [0, 1, 2], completes (graph [joinEdge1] 5 v) = true ∧ plainAt (ended (graph [joinEdge1] 5 v)) 0x10500 0x30500 = true
        ∧ memNat (ended (graph [joinEdge1] 5 v)).mem 0x30500 4 = v ∧ (ended (graph [joinEdge1] 5 v)).poison = [])
    ∧ ListReads (ended (graph [joinEdge1] 5 2)) 0 0x10200 0x101 [joinEdge1]
    ∧ edgeHolds 1 5 joinEdge1 = true ∧ edgeHolds 0 5 joinEdge1 = false ∧ edgeJoin joinEdge1 = 0x10500 :=
  ⟨⟨by decide +kernel, lists_sound (by decide +kernel), by decide +kernel, by decide +kernel, by decide +kernel, by decide +kernel, by decide +kernel, by decide +kernel⟩,
    by decide +kernel, lists_sound (by decide +kernel), by decide +kernel, by decide +kernel, by decide +kernel⟩
/-- The node 0 and the group 0 of a small state. -/
def node0 (s : State) : Option Node := s.nodes[0]?
theorem witness_DispatchEvents :
    ((submitted.ctx 0).active = true ∧ (submitted.ctx 0).queue = [⟨0x10100, .host, 0⟩] ∧ submitted.devHeld 0 0x10100 256 = false
        ∧ (submitted.ctx 0).waitYards = [] ∧ (∀ n ∈ submitted.nodes, n.ctx = 0 → n.addr = 0x10100 → n.stand ≠ .launched)
        ∧ (match submitted.devXlat 0 0x10100 true with | (.ok x, u) => decide (x = recordAt ∧ u = submitted) | _ => false) = true
        ∧ leafDiscard submitted.mem plainLeaf = false ∧ plainLeaf.tier ≠ 2 ∧ ((List.range 64).all fun k => !submitted.isPoisoned (0x30100 / 4 + k)) = true
        ∧ recordOk recordBytes false = true ∧ launchFits (launchOf recordBytes) (submitted.ctx 0).yardsize = true)
    ∧ (placing.firstWaiting = some waiting0 ∧ (node0 placing).isSome = true ∧ (∀ y ∈ [Seat.mk 7 7], y.core ∈ placing.usableCores (clusterOf y.core))
        ∧ placing.l1win = [] ∧ seatsOk (placing.waitQueues waiting0) (placing.seatings waiting0) [⟨7, 7⟩] (placing.onCores fun _ => false) [] = true)
    ∧ (∃ g ∈ theGroup (leaving false), g.stand = .resident ∧ g.leaving = false ∧ ((leaving false).ctx g.ctx).suspend = true
        ∧ ∃ n ∈ node0 (leaving false), n.lr.save ≠ 0 ∧ (0, g) ∈ (leaving false).unitOf n.lr g
          ∧ ∀ e ∈ (leaving false).unitOf n.lr g, ∀ m ∈ e.2.members, (leaving false).midWord m = false)
    ∧ (∃ g ∈ theGroup outbid, g.stand = .resident ∧ g.leaving = false ∧ (outbid.ctx g.ctx).suspend = false ∧ outbid.asksFor 0 = true
        ∧ ∃ n ∈ node0 outbid, n.lr.save ≠ 0 ∧ (0, g) ∈ outbid.unitOf n.lr g)
    ∧ (∃ g ∈ theGroup midway, g.stand = .resident ∧ g.leaving = false ∧ ∃ n ∈ node0 midway, (0, g) ∈ midway.unitOf n.lr g ∧ 0 ∈ g.members ∧ midway.midWord 0 = true)
    ∧ (∃ g ∈ theGroup (leaving true), g.stand = .resident ∧ g.leaving = true ∧ ∃ n ∈ node0 (leaving true), n.lr.save ≠ 0
        ∧ (0, g) ∈ (leaving true).unitOf n.lr g ∧ ∀ e ∈ (leaving true).unitOf n.lr g, e.2.stand = .resident → (leaving true).drained e.2 = true
        ∧ (leaving true).keepsScratch e.2 = true ∧ (leaving true).saveHeld e.2 n.lr.save = false)
    ∧ (∃ n ∈ node0 (quiet true), n.stand = .launched ∧ ((quiet true).ctx n.ctx).active = true ∧ (quiet true).nodeQuiet 0 n = true
        ∧ (quiet true).endingHeld n.ending = false ∧ n.lr.next = 0 ∧ n.lost = true) := by
  refine ⟨?_, ⟨?_, ?_, ?_, ?_⟩, ?_, ?_, ?_, ?_, ?_⟩
  all_goals decide +kernel

/-- A gang that waits for the unit at `unit`, with its entry in slot 3 of cluster 0. -/
def entry (unit : Nat) (esc posted : Bool) : StageEntry := ⟨0, 3, 0, unit, 1, [0], [], esc, posted⟩
def waitOn (unit : Nat) : FaultWait := ⟨TrapInfo.plain .pagefault 1 0xFF 0, [(unit, 1, 0)]⟩
def staged (x : StageEntry) : State := { State.gang0 seat fun G => { G with fwait := some (waitOn x.unit) } with stages := [x] }
/-- A pool of one frame for first touch, and a fault ring at 0x31000 with `n` entries. -/
def pooled (s : State) : State :=
  (State.put (State.put (State.put s 0x30400 4 1) 0x30408 8 0x30440) 0x30440 8 0x80000).updCtx 0 fun c => { c with framepool := 0x30401 }
/-- A bank command holds the pool. -/
def poolHeld : State := { pooled (staged (entry 0x30000 false false)) with cmds := [{ bankCmd with range := [(0x30000, 0x31000)] }] }
def ringed (s : State) (n : Nat) : State := (State.put s 0x31000 8 n).updCtx 0 fun c => { c with faultq := 0x31000 }
def invalidAt (s : State) (va : Nat) : Bool := match walkVa s.mem (s.ctx 0).root va with | .invalid _ _ => true | _ => false
def openRing (s : State) : Bool :=
  let head := memNat s.mem 0x31000 8
  !s.held 0x31000 16 && !s.held (0x31000 + 64 + 32 * (head % 8192)) 32 && decide (memNat s.mem 0x31008 8 ≤ head) && decide (head < memNat s.mem 0x31008 8 + 8192)
theorem witness_FaultStageEvents :
    ((staged (entry 0x30000 false false)).stageAt 0 3 = some (entry 0x30000 false false) ∧ invalidAt (staged (entry 0x30000 false false)) 0x30000 = true
        ∧ (staged (entry 0x30000 false false)).walkReady ((staged (entry 0x30000 false false)).ctx 0).root 0x30000 = true
        ∧ (staged (entry 0x30000 false false)).pgmapHeld 0 0x30000 = false
        ∧ (staged (entry 0x30000 false false)).pgmap 0 0x30000 = (0, staged (entry 0x30000 false false)))
    ∧ (invalidAt poolHeld 0x30000 = true ∧ poolHeld.pgmapHeld 0 0x30000 = true ∧ poolHeld.walkReady (poolHeld.ctx 0).root 0x30000 = true
        ∧ poolHeld.stageAt 0 3 = some (entry 0x30000 false false))
    ∧ ((staged (entry 0x10000 false false)).stageAt 0 3 = some (entry 0x10000 false false) ∧ invalidAt (staged (entry 0x10000 false false)) 0x10000 = false
        ∧ (staged (entry 0x10000 false false)).walkReady ((staged (entry 0x10000 false false)).ctx 0).root 0x10000 = true
        ∧ (theGang (staged (entry 0x10000 false false))).fwait = some (waitOn 0x10000) ∧ ∀ e ∈ (waitOn 0x10000).units, e.2.2 ≠ 2)
    ∧ (invalidAt (pooled (staged (entry 0x30000 false false))) 0x30000 = true ∧ (pooled (staged (entry 0x30000 false false))).pgmapHeld 0 0x30000 = false
        ∧ ((pooled (staged (entry 0x30000 false false))).pgmap 0 0x30000).1 ≠ 0)
    ∧ ((staged (entry 0x30000 true true)).stageAt (3 / 256) (3 % 256) = some (entry 0x30000 true true) ∧ (staged (entry 0x30000 true true)).unposted 0 = [])
    ∧ ((ringed (staged (entry 0x30000 true false)) 8191).stageAt 0 3 = some (entry 0x30000 true false) ∧ openRing (ringed (staged (entry 0x30000 true false)) 8191) = true
        ∧ (ringed (staged (entry 0x30000 true false)) 8191).unposted 0 = [entry 0x30000 true false])
    ∧ ((staged (entry 0x30000 true true)).gangs[0]? = some (theGang (staged (entry 0x30000 true true))) ∧ (theGang (staged (entry 0x30000 true true))).super = false
        ∧ (theGang (staged (entry 0x30000 true true))).fwait = some (waitOn 0x30000)
        ∧ ∀ gr ∈ theGroup (staged (entry 0x30000 true true)), VectorRuns (staged (entry 0x30000 true true)) (theGang (staged (entry 0x30000 true true))) gr) := by
  decide +kernel

/-- A context of some block registers; its submission queue full. -/
def ctxOf (f : Context → Context) : State := seat.updCtx 0 f
def fullQueue : State := ctxOf fun c => { c with queue := List.replicate 1024 ⟨0, .host, 0⟩ }
def almostFull : State := ctxOf fun c => { c with queue := List.replicate 1023 ⟨0, .host, 0⟩ }
/-- An inactive context whose record at 0x30000 holds zeros. -/
def inactive : State := ctxOf fun c => { c with active := false, ctxrec := 0x30000 }
/-- A torn context without a resident group. -/
def tornDown : State := { ctxOf (fun c => { c with active := false, torn := true }) with groups := [] }
def suspending : State := { ctxOf (fun c => { c with suspend := true }) with groups := [] }
/-- An inactive context with no work whose SUSPEND is set. -/
def asked : State := { ctxOf (fun c => { c with active := false, suspend := true }) with groups := [] }
def incoming (v : Option Word) : Incoming := ⟨none, 0x30004, v⟩
/-- A node of the context that is launched and not DONE; a context of a virtual function whose table lies in a stack that is not ready. -/
def relaunch : State := { seat with nodes := seat.nodes.map fun n => { n with addr := 0x10100, stand := .launched } }
def tableDown : State := { seat with vfs := 1, stacksUp := [] }
/-- A page of a peer whose link is down, in a window of a virtual function's context. -/
def peerGone : State := (State.put { seat with vfs := 1, peerDown := [0] } 0x18030 8 0x100000000805).updCtx 0 fun c => { c with ncwin := [(0, 0x30001), (1, 0x40000)] }
theorem witness_ContextEvents :
    ((almostFull.ctx 0).active = true ∧ ((almostFull.ctx 0).queue.filter (·.src != .edge)).length < 1024 ∧ 1024 ≤ ((fullQueue.ctx 0).queue.filter (·.src != .edge)).length
        ∧ ∀ n ∈ almostFull.nodes, n.ctx = 0 → n.addr = 0x10100 → n.stand ≠ .launched)
    ∧ (∃ n ∈ relaunch.nodes, n.ctx = 0 ∧ n.addr = 0x10100 ∧ n.stand = .launched)
    ∧ (tableDown.incomingWaits ⟨some 0, 0x10000, none⟩ = true ∧ seat.incomingWaits (incoming none) = false ∧ seat.incomingWaits (incoming (some 1)) = false)
    ∧ (seat.incomingXlat ⟨none, 2 ^ 60, none⟩ = none) ∧ (seat.incomingXlat ⟨some 0, 2 ^ 40, none⟩ = none ∧ seat.incomingWaits ⟨some 0, 2 ^ 40, none⟩ = false)
    ∧ (match peerGone.incomingXlat ⟨some 0, 0x30004, none⟩ with
        | some y => decide (y.leaf.mapped = false ∧ y.leaf.size ≠ 0 ∧ leafDiscard peerGone.mem y.leaf = false ∧ isFar y.pa = true
            ∧ peerGone.farReq y.pa .read = none ∧ peerGone.held y.pa 4 = false ∧ peerGone.isPoisoned (y.pa / 4) = false)
        | none => false) = true
    ∧ ((inactive.ctx 0).active = false ∧ inactive.lamgil = true ∧ inactive.held 0x30000 512 = false ∧ inactive.recReadable 0x30000 512 = true
        ∧ ctxRecOk (memBytes inactive.mem 0x30000 512) = true)
    ∧ (seat.ctx 0).active = true ∧ (seat.ctx 0).suspend = false ∧ (suspending.ctx 0).suspend = true
    ∧ ((tornDown.ctx 0).torn = true ∧ (tornDown.ctx 0).suspended = false ∧ tornDown.groups = [] ∧ tornDown.cmds = [] ∧ tornDown.ops = [])
    ∧ ((suspending.ctx 0).active = true ∧ (suspending.ctx 0).suspended = false ∧ suspending.groups = [])
    ∧ ((asked.ctx 0).active = false ∧ (asked.ctx 0).torn = false ∧ (asked.ctx 0).suspend = true ∧ (asked.ctx 0).suspended = false ∧ asked.groups = []
        ∧ asked.cmds = [] ∧ asked.ops = [])
    ∧ (seat.incomingXlat (incoming none) = some ⟨0x30004, 0x30004, Leaf.none, false⟩ ∧ seat.held 0x30004 4 = false ∧ Leaf.none.mapped = false ∧ Leaf.none.size = 0
        ∧ seat.isPoisoned (0x30004 / 4) = false) := by decide +kernel

/-- All virtual functions enabled, so that function 32 owns context 31 and the physical function context 63. -/
def virtual : State := { inactive with vfs := 0xFFFFFFFF, link := true }
theorem witness_HostRegisterWrites :
    (virtual.lamgil = true ∧ virtual.reaches 32 31 = true ∧ virtual.reaches 0 63 = true ∧ virtual.reaches 0 31 = false ∧ inactive.reaches 0 0 = true
        ∧ virtual.reaches 0 64 = false)
    ∧ ((inactive.ctx 0).active = false ∧ (seat.ctx 0).active = true ∧ (0xFFFFFFFFFFE00 : DWord).toNat % 512 = 0 ∧ (0xFFFFFFFFFFE00 : DWord).toNat < 2 ^ 52)
    ∧ leNat ((List.range 4).map fun k => stGet seat.mailbox k) ≠ 1 ∧ virtual.link = true := by decide +kernel

/-- Images signed over bodies chosen so that the point of the signature is the base point plus the key; the digests and keys were
computed outside the model. -/
def signed (body : List Byte) (qx qy r : Nat) : List Byte :=
  body ++ leBytes 4 0x00010000 ++ leBytes 4 body.length ++ beBytes 48 qx ++ beBytes 48 qy ++ beBytes 48 r ++ beBytes 48 r ++ List.replicate 56 0
def keyX : Nat := 0x8242f5ce53eab3bc2a989e2a9d5f9cccd0595c4ad89a2a0ed01535a94811e6f3612090063067243d99739f17ce3ad5d
def keyY : Nat := 0x81777bc90a40781c09a2e12499ab3b3d8e8cdd3bcd48d743c8adcbc2b6174a5b8e5b02f80ed7f70b4e15537e9f08a3a6
def configImage : List Byte := signed (1 :: List.replicate 255 0) keyX keyY
  0xc4d8eef576fbda22d003aeab4baa93ddf5961b80fb958974c5e28a3d989c525ad6ffb76983b3dbbf5c9160a83a879d3
def firmwareImage : List Byte :=
  signed (List.replicate 64 0 ++ beBytes 48 keyX ++ beBytes 48 keyY ++ List.replicate 96 0)
    0xa568c81039927a5b5ca6f2af473e1feb9d6516641a25769d79318d7a4e90a8199fe9a25df1e99cdf8d17227f7e07fab
    0x4a882b3f28da2078573183482c642940070e97708ddde90c25331b6f3b53ab0304f27ca09c898ce7eec33cc7dff2f2f8
    0x6d5a9d568e83a6d15cb945d3be29c7a20dab556235bd474d9cdbc77ee9d150b5d3dab43b0a72a8287e4af586b6d7b27
theorem test_sha384 : beNat (sha384 (1 :: List.replicate 255 0)) = 0xc4d8eef576fbda22d003aeab4baa93ddf5961b80fb958974c5e28a3d989c525ad6ffb76983b3dbbf5c9160a83a879d3 := by
  decide +kernel
/-- The images are accepted on a device with the digest of their vendor key in its ROM (a constant that the model leaves free). -/
theorem witness_images (h : Config.vendorDigest = sha384 (trailerKey (imageTrailer firmwareImage))) : imagesOk firmwareImage configImage = true := by
  have a : imageOk firmwareImage = true := by decide +kernel
  have b : imageOk configImage = true := by decide +kernel
  have c : (trailerKey (imageTrailer configImage) == ((imageBody firmwareImage).drop 0x40).take 96) = true := by decide +kernel
  simp [imagesOk, a, b, c, h]
/-- A dirty byte of a window line in an L1. -/
def dirtyCopy : State := { seat with l1win := [⟨0, 0xC00, [(3, 7)], 8, 0, 0⟩] }
def asking : State := { seat with mailbox := [(0, 1)] }
theorem witness_PlatformEvents :
    (Device.link ∉ seat.offline ∧ Device.cluster 23 ∉ seat.offline ∧ Device.channel 127 ∉ seat.offline ∧ Device.stack 1 ∉ seat.offline ∧ 1 ∉ seat.stacksUp
        ∧ Device.lamgil ∉ seat.offline ∧ imagesOk seat.firmware seat.config = false)
    ∧ Device.core 5 ∈ ({ seat with offline := [.core 5] } : State).offline
    ∧ (asking.lamgil = true ∧ leNat ((List.range 4).map fun k => stGet asking.mailbox k) = 1 ∧ leNat ((List.range 4).map fun k => stGet seat.mailbox k) ≠ 1)
    ∧ (seat.gangs[0]? = some (theGang seat) ∧ (theGang seat).stand = .resident ∧ (theGang seat).core = 0
        ∧ ∀ gr ∈ theGroup seat, seat.groups[(theGang seat).grp]? = some gr ∧ 0 ∈ gr.members)
    ∧ isFar 0x30000 = false ∧ seat.logq = [] ∧ (seat.ctx 0).active = true ∧ Device.slice 5 ∉ seat.offline
    ∧ (copyOf dirtyCopy.l1win 0 (0x60003 / 128) = some ⟨0, 0xC00, [(3, 7)], 8, 0, 0⟩ ∧ (8 : BitVec 128).getLsbD (0x60003 % 128) = true) := by decide +kernel

/-- A dirty window copy in an L1 and at its home slice. -/
def copies1 : State := { seat with l1win := [⟨0, 0x600, [(0, 7)], 1, 0, 0⟩], l2win := [⟨homeSlice (128 * 0x600) (dieOf 0), 0x600, [(1, 8)], 2, 0, 0⟩] }
theorem witness_ResetsAndLinks :
    ((virtual.vfs.getLsbD 31 = true) ∧ inactive.vfs.getLsbD (1 - 1) = false)
    ∧ (copyOf copies1.l2win (homeSlice (128 * 0x600) (dieOf 0)) 0x600 = some ⟨homeSlice (128 * 0x600) (dieOf 0), 0x600, [(1, 8)], 2, 0, 0⟩ ∧ isFar (128 * 0x600) = false)
    ∧ copyOf copies1.l1win 0 0x600 = some ⟨0, 0x600, [(0, 7)], 1, 0, 0⟩ := by decide +kernel

/-- Words that the spec writes out in its examples. -/
theorem test_spec_words : (([
    (0x6080C06506A00040, .st ⟨.v 6, .v 12, .s 3, 2, 0, 0x20⟩), (0x6101001002220080, .atom ⟨.v 8, .v 2, .xt 1, 2, 1, 0x40⟩),
    (0x655795FD70000000, .cpy ⟨.s 60, .s 63, .s 56, .zero, 0, 0, 0⟩), (0x665094450A000000, .mscl ⟨.s 4, .s 8, .s 5, .zero, 0⟩),
    (0x6ED0742580000000, .bktZero ⟨.s 3, .s 4, .sp .zero⟩), (0x6F50742580000000, .bkir ⟨.s 3, .s 4, .sp .zero⟩), (0x6F80000000000000, .bkm),
    (0x7188000000104800, .accrd ⟨.v 64, .zero, 0, true, 0, 1, 0, 2, 0, false⟩),
    (0x6AD154250A000000, .kvapp ⟨.s 10, .s 4, .s 5, .zero, 0, false, 0⟩)] : List (DWord × Instr)).all reads) = true := by decide +kernel
/-- The CMD byte of the block at s1 names the tile command of a BKT word (R323, R324). -/
def tileNamed (n : Nat) (x : Instr) : Prop :=
  Meets (blocked 0 [(0, 1, n)]) fun G gr i => (blocked 0 [(0, 1, n)]).named G gr i (.bktZero ⟨.s 1, .s 2, .s 3⟩) = x
theorem test_tile_codes : tileNamed 0 (.bktZero ⟨.s 1, .s 2, .s 3⟩) ∧ tileNamed 1 (.bktFill ⟨.s 1, .s 2, .s 3⟩) ∧ tileNamed 4 (.bktMul ⟨.s 1, .s 2, .s 3⟩)
    ∧ tileNamed 8 (.bktDot ⟨.s 1, .s 2, .s 3⟩) ∧ tileNamed 9 (.bktIdot ⟨.s 1, .s 2, .s 3⟩) :=
  ⟨meets _ _ (by decide +kernel), meets _ _ (by decide +kernel), meets _ _ (by decide +kernel), meets _ _ (by decide +kernel), meets _ _ (by decide +kernel)⟩

end Sys2Proof.Tests
end

section
/-! PROOFS. BRS (R25, R133): the sets of slices that take the branch, the lowest slice of a set, and the division of a fragment. -/
namespace Sys2Proof.Machine

/-! ### Masks of eight -/

/-- The sum of powers of two by which `maskOf` and `maskOf8` make a mask of `n` places: it fits, and its bits are the test. -/
theorem foldl_two_pow_spec (p : Nat → Bool) (n : Nat) :
    let a := (List.range n).foldl (fun a l => if p l then a + 2 ^ l else a) 0
    a < 2 ^ n ∧ ∀ k, a.testBit k = (decide (k < n) && p k) := by
  induction n with
  | zero => simp
  | succ n ih =>
    rw [List.range_succ, List.foldl_append]
    generalize (List.range n).foldl (fun a l => if p l then a + 2 ^ l else a) 0 = a at ih
    obtain ⟨hlt, hbit⟩ := ih
    have hpow : 2 ^ (n + 1) = 2 ^ n + 2 ^ n := by omega
    simp only [List.foldl_cons, List.foldl_nil]
    by_cases hp : p n = true
    · have hor : a + 2 ^ n = 2 ^ n ||| a := by simpa [Nat.add_comm] using Nat.two_pow_add_eq_or_of_lt hlt 1
      rw [if_pos hp]
      refine ⟨by omega, fun k => ?_⟩
      rw [hor, Nat.testBit_or, hbit, Nat.testBit_two_pow]
      grind
    · rw [if_neg hp]
      refine ⟨by omega, fun k => ?_⟩
      rw [hbit]
      grind

theorem getLsbD_maskOf8 (p : Nat → Bool) (k : Nat) : (maskOf8 p).getLsbD k = (decide (k < 8) && p k) := by
  unfold maskOf8
  rw [BitVec.getLsbD_ofNat, (foldl_two_pow_spec p 8).2, ← Bool.and_assoc, Bool.and_self]

/-- The lowest slice of a set: the name that R25 gives to the fragment of those slices. -/
def lowestBit (m : BitVec 8) : Nat := ((List.range 8).find? fun k => m.getLsbD k).getD 0

theorem lowestBit_lowestOf {m : BitVec 8} {k : Nat} (h : m.getLsbD k = true) :
    LowestOf (fun j => m.getLsbD j = true) (lowestBit m) := by
  unfold lowestBit
  cases hf : (List.range 8).find? fun k => m.getLsbD k with
  | none => exact absurd h (List.find?_eq_none.1 hf k (List.mem_range.2 (BitVec.lt_of_getLsbD h)))
  | some n =>
    obtain ⟨hn, -, hlow⟩ := List.find?_range_eq_some.1 hf
    exact ⟨hn, fun j hj => by simpa using hlow j hj⟩

theorem LowestOf.congr {P Q : Nat → Prop} {n : Nat} (h : LowestOf P n) (hPQ : ∀ k, P k ↔ Q k) : LowestOf Q n :=
  ⟨(hPQ n).1 h.1, fun j hj hq => h.2 j hj ((hPQ j).2 hq)⟩

/-! ### Conditions and targets -/

/-- The conditions of R132 as the model computes them. -/
theorem condHolds_eq_condition {w : Nat} (n : Nat) (c : BitVec w) : condHolds n c = condition n c := by
  have hz : c.toInt = 0 ↔ c = 0 := by rw [← BitVec.toInt_inj]; simp
  unfold condHolds condition
  split <;> simp [hz, BitVec.slt, BitVec.sle, beq_eq_decide, bne]

/-- The target of a direct branch (R131) as the model computes it. -/
theorem target_eq_branchTarget (pc : DWord) (ofs : BitVec 32) : target pc ofs = branchTarget pc ofs := by
  unfold target branchTarget
  rw [BitVec.shiftLeft_eq_mul_twoPow, BitVec.signExtend, BitVec.mul_comm, BitVec.ofInt_mul]
  rfl

/-! ### Instructions that change only their gang -/

/-- A gang with other slices and other accounts of an issue has its registers, flags and counters as before. -/
theorem Gang.still_of_slices (G : Gang) (sl : List Slice) (t : Option Tail) (n c : Nat) :
    G.Still { G with slices := sl, tail := t, lastIssue := n, crawlCnt := c } :=
  ⟨rfl, ⟨fun _ _ _ _ => rfl, fun _ _ => rfl, fun _ _ _ => rfl, fun _ _ _ => rfl, fun _ => rfl, fun _ => rfl⟩, rfl, fun _ => rfl⟩

/-- An instruction in a tail with room, whose body changes only its gang, leaves the gang as the body and the accounts
make it. -/
theorem State.speculate_onlyTo {s : State} {g : Nat} {G : Gang} {pc : DWord} {pair : Bool} {n : Need} {F : Gang → Gang}
    {P : Gang → Prop} (hG : s.gangs[g]? = some G) (hr : s.room g G n = .ok)
    (hP : ∀ G', (F (G.openTail pc)).Accounted G' → P G') :
    OnlyTo s (s.speculate g G pc pair n fun s => s.updGang g F) g P := by
  rw [State.speculate_ok hr]
  have hg : ((s.updGang g fun G => G.openTail pc).updGang g F).gangs[g]? = some (F (G.openTail pc)) := by
    simp only [State.gangs_updGang, if_true, hG, Option.map_some]
  obtain ⟨G', h', ha⟩ := State.account_gang hg pair
  exact ⟨((OnlyGang.updGang ..).trans (.updGang ..)).trans (State.account_frame ..), G', h', hP G' ha⟩

/-- A control instruction whose operands pass their checks and whose gang has room changes only the gang. -/
theorem State.steerGang_onlyTo {s : State} {g : Nat} {G : Gang} {gr : Group} {i : Issuer} {us : List Use}
    {f : Issuer → Gang → Gang} {P : Gang → Prop} (hi : s.issue = .gang g G gr i) (ho : Operable us i G) (hr : Roomy s g G [])
    (hP : ∀ G', (f i (G.openTail i.pc)).Accounted G' → P G') :
    ∃ t, s.steerGang noCheck us [] f = .next t ∧ OnlyTo s t g P := by
  obtain ⟨hG, -⟩ := State.issue_gang hi
  obtain ⟨hbad, hlocked⟩ := ho
  exact ⟨_, State.onGang_ok hi (usesCheck_none hbad) hlocked, State.speculate_onlyTo hG hr hP⟩

/-! ### BRS -/

/-- A test that holds in an active lane of slice `k`. -/
theorem any_acts_slice_iff (i : Issuer) (k : Nat) (p : Nat → Bool) :
    (i.acts.any fun l => l / 4 = k && p l) = true ↔ ∃ l, l < 32 ∧ l / 4 = k ∧ i.active.getLsbD l = true ∧ p l = true := by
  simp only [List.any_eq_true, Issuer.acts, mem_maskLanes, Bool.and_eq_true, decide_eq_true_eq]
  constructor
  · rintro ⟨l, hact, hk, hp⟩
    exact ⟨l, BitVec.lt_of_getLsbD hact, hk, hact, hp⟩
  · rintro ⟨l, -, hk, hact, hp⟩
    exact ⟨l, hact, hk, hp⟩

/-- The slices of the fragment that the model sends to the target are those that take the branch by R133. -/
theorem brsTaken_iff_takesBrs (x : Branch) (i : Issuer) (k : Nat) :
    (brsTaken x i &&& i.frag).getLsbD k = true ↔ TakesBrs x i k := by
  have hk : i.frag.getLsbD k = true → k < 8 := BitVec.lt_of_getLsbD
  unfold brsTaken TakesBrs
  rw [BitVec.getLsbD_and, Bool.and_eq_true]
  cases x.a with
  | s n =>
    simp only [condHolds_eq_condition]
    split <;> simp_all
  | _ =>
    simp only [getLsbD_maskOf8, Bool.and_eq_true, decide_eq_true_eq, any_acts_slice_iff, condHolds_eq_condition]
    tauto

/-- The slices of the fragment that the model sends on are those that do not take the branch. -/
theorem brsRest_iff_not_takesBrs (x : Branch) (i : Issuer) (k : Nat) :
    (i.frag &&& ~~~brsTaken x i).getLsbD k = true ↔ i.frag.getLsbD k = true ∧ ¬TakesBrs x i k := by
  rw [← brsTaken_iff_takesBrs, BitVec.getLsbD_and, BitVec.getLsbD_not, BitVec.getLsbD_and]
  have hk : i.frag.getLsbD k = true → k < 8 := BitVec.lt_of_getLsbD
  grind

/-- What a division of fragment `m` makes of each slice (R25). -/
theorem Gang.split_slices (G : Gang) (m taken : BitVec 8) (a : DWord) (k : Nat) :
    (G.split m taken a).slices[k]? = (G.slices[k]?).map fun sl =>
      if (taken &&& m).getLsbD k then { sl with pc := a, frag := lowestBit (taken &&& m), replay := none }
      else if (m &&& ~~~taken).getLsbD k then { sl with pc := sl.pc + 8, frag := lowestBit (m &&& ~~~taken), replay := none }
      else sl := by
  unfold Gang.split lowestBit
  simp only [List.getElem?_mapIdx, BitVec.getLsbD_and]

/-- A division of a fragment touches only the slices. -/
theorem Gang.split_still {G G' : Gang} {pc : DWord} {m taken : BitVec 8} {a : DWord}
    (h : ((G.openTail pc).split m taken a).Accounted G') :
    G.Still G' ∧ G'.slices = (G.split m taken a).slices := by
  rw [Gang.Accounted, G.openTail_eq pc] at h
  rw [h]
  exact ⟨G.still_of_slices .., rfl⟩

theorem Gang.split_slices_length (G : Gang) (m taken : BitVec 8) (a : DWord) :
    (G.split m taken a).slices.length = G.slices.length := List.length_mapIdx

/-- Settles O16: the division is that of `Gang.split_slices`, its two sets are those of R133, and the lowest slice of a set that
is not empty names the fragment. -/
theorem brsSplitsFragments : Obligations.BrsSplitsFragments := by
  intro x s g G gr i hi ho hr
  refine State.steerGang_onlyTo hi ho hr fun G' hG' => ?_
  obtain ⟨⟨hkeeps, hregs, hflags, hnest⟩, hslices⟩ := Gang.split_still hG'
  refine ⟨hkeeps, hregs, hflags, hnest, by rw [hslices, Gang.split_slices_length], fun k sl hsl => ?_⟩
  have htaken := brsTaken_iff_takesBrs x i
  have hrest := brsRest_iff_not_takesBrs x i
  refine ⟨_, by rw [hslices, Gang.split_slices, hsl, Option.map_some], fun hk => ?_, fun hk => ?_, fun hk hnot => ?_⟩
  · have hnt : (brsTaken x i &&& i.frag).getLsbD k ≠ true := fun h => by simp [((htaken k).1 h).1] at hk
    have hnr : (i.frag &&& ~~~brsTaken x i).getLsbD k ≠ true := fun h => by simp [((hrest k).1 h).1] at hk
    rw [if_neg hnt, if_neg hnr]
  · have ht := (htaken k).2 hk
    rw [if_pos ht, target_eq_branchTarget]
    exact ⟨rfl, (lowestBit_lowestOf ht).congr htaken⟩
  · have hr := (hrest k).2 ⟨hk, hnot⟩
    rw [if_neg fun h => hnot ((htaken k).1 h), if_pos hr]
    exact ⟨rfl, (lowestBit_lowestOf hr).congr hrest⟩

end Sys2Proof.Machine
end

section
/-! PROOFS. Register-only instructions with one destination (R59, R60): what they write, the room they need, their completion. -/
namespace Sys2Proof.Machine

/-! ### The result of one destination -/

/-- What an instruction writes matters only where a register is. -/
theorem Completes.congr {u t : State} {g : Nat} {G : Gang} {m : BitVec 8} {fv fv' : Nat → Nat → Option Word}
    {fs fs' : Nat → Option DWord} {fl : BitVec 5} {go : DWord → DWord} (h : Completes u t g G m fv fs fl go)
    (hv : ∀ n l, l < 32 → fv n l = fv' n l) (hs : ∀ n, fs n = fs' n) : Completes u t g G m fv' fs' fl go := by
  obtain ⟨honly, G', hG', hkeeps, hregs, hrest⟩ := h
  exact ⟨honly, G', hG', hkeeps, { hregs with
    vector := fun n l hn hl => by rw [← hv n l hl, hregs.vector n l hn hl]
    scalar := fun n hn => by rw [← hs n, hregs.scalar n hn] }, hrest⟩

/-- Why `Res.regs` names each register once. -/
theorem nodup_eraseDups {α : Type} [DecidableEq α] (l : List α) : l.eraseDups.Nodup := by
  induction hn : l.length using Nat.strong_induction_on generalizing l with
  | _ n ih =>
    cases l with
    | nil => simp
    | cons a r =>
      have hlt : (r.filter fun b => !b == a).length < n := by
        have := List.length_filter_le (fun b => !b == a) r
        simp only [List.length_cons] at hn
        omega
      rw [List.eraseDups_cons, List.nodup_cons, List.mem_eraseDups]
      exact ⟨by simp, ih _ hlt _ rfl⟩

/-- The only register that the result of `put` names is its destination. -/
theorem Issuer.regs_put_subset (i : Issuer) (d : Operand) (f : Nat → Word) (y : Unit → DWord) (fl : BitVec 5) (us : List Use) :
    ∀ r ∈ ({ i.put d f y with flags := fl } : Res).regs, r ∈ written (Use.w d :: us) := by
  intro r hr
  rw [Res.regs, List.mem_eraseDups, List.mem_append, List.mem_map, List.mem_map] at hr
  have hd : r ∈ (Use.w d).regs := by
    cases d with
    | v k =>
      rcases hr with ⟨e, he, rfl⟩ | ⟨e, he, -⟩
      · obtain ⟨l, hl, rfl⟩ := List.mem_map.1 he
        have hlt : l < 32 := BitVec.lt_of_getLsbD ((mem_maskLanes ..).1 hl)
        have hk : (32 * k.val + l) / 32 = k.val := by omega
        simp [Use.regs, Use.w, hk]
      · cases he
    | s k =>
      rcases hr with ⟨e, he, -⟩ | ⟨e, he, rfl⟩
      · cases he
      · obtain rfl := List.mem_singleton.1 he
        simp [Use.regs, Use.w]
    | _ => rcases hr with ⟨e, he, -⟩ | ⟨e, he, -⟩ <;> cases he
  exact List.mem_append_left _ hd

/-- The words that the result of `put` leaves are those of the tables. -/
theorem Issuer.lastAt_put (i : Issuer) (d : Operand) (f : Nat → Word) (y : Unit → DWord) :
    (∀ n l, l < 32 → lastAt (i.put d f y).vw (32 * n + l) = laneV i d f n l)
      ∧ ∀ n, lastAt (i.put d f y).sw n = scalD d (y ()) n := by
  cases d with
  | v k => exact ⟨fun n l hl => by simp [Issuer.put, laneV, lastAt_vec i k f n l hl, @eq_comm _ n], fun n => rfl⟩
  | s k => exact ⟨fun n l hl => rfl, fun n => by simp [Issuer.put, scalD, lastAt_cons, lastAt_nil]⟩
  | _ => exact ⟨fun n l hl => rfl, fun n => rfl⟩

theorem Issuer.put_flags (i : Issuer) (d : Operand) (f : Nat → Word) (y : Unit → DWord) :
    i.put d f y = { i.put d f y with flags := 0 } := by
  cases d <;> rfl

/-- A result with flags is the result without them, and the flags. -/
theorem Issuer.putF_eq_put (i : Issuer) (d : Operand) (f : Nat → Word × BitVec 5) (g : Unit → Word × BitVec 5) :
    i.putF d f g = { i.put d (fun l => (f l).1) (fun _ => (g ()).1.setWidth 64) with flags := (i.putF d f g).flags } := by
  cases d <;> simp [Issuer.putF, Issuer.put, Issuer.vec, Res.none]

/-! ### Completion -/

/-- A register-only instruction with one destination completes with its lane values, or with its scalar value. -/
theorem State.plain_completes {s : State} {g : Nat} {G : Gang} {gr : Group} {i : Issuer} {bank : Bool} {us : List Use}
    {body : Issuer → Res} {d : Operand} {f : Nat → Word} {y : DWord} {fl : BitVec 5}
    (hi : s.issue = .gang g G gr i) (ho : Operable (Use.w d :: us) i G) (hr : Roomy s g G (Use.w d :: us))
    (hbody : body i = { i.put d f (fun _ => y) with flags := fl }) :
    ∃ t, s.plain bank noCheck (Use.w d :: us) body = .next t
      ∧ Completes s t g G i.frag (laneV i d f) (scalD d y) fl next8 := by
  obtain ⟨hG, -⟩ := State.issue_gang hi
  obtain ⟨hvec, hscal⟩ := i.lastAt_put d f fun _ => y
  have hroom := State.room_mono hr (i.regs_put_subset d f (fun _ => y) fl us) (nodup_eraseDups _)
  refine ⟨_, State.plain_ok hi rfl ho, ?_⟩
  rw [hbody]
  exact (State.finish_completes hG hroom).congr hvec hscal

/-! ### Where the result of the tables stands -/

theorem laneV_v (i : Issuer) (d : Fin 640) (f : Nat → Word) (n l : Nat) :
    laneV i (.v d) f n l = if n = d.val ∧ i.active.getLsbD l = true then some (f l) else none := by
  simp [laneV, @eq_comm _ n]

theorem scalD_s (d : Fin 64) (x : DWord) (n : Nat) : scalD (.s d) x n = if n = d.val then some x else none := by
  simp [scalD, @eq_comm _ n]

end Sys2Proof.Machine
end

section
/-! PROOFS. Shifts and rotates bit by bit (R101), comparisons on integers and floating-point values (R102). -/
namespace Sys2Proof.Machine

/-! ### Shifts (R101) -/

/-- The shift or rotate that an instruction makes of a word and a count. -/
def shiftWord (i : Instr) {w : Nat} (a : BitVec w) (n : Nat) : BitVec w :=
  match i with
  | .shl _ => a <<< n
  | .shr _ => a >>> n
  | .sra _ => a.sshiftRight n
  | _ => a.rotateLeft n

theorem shiftArgs_cases {i : Instr} {x : Arith} (h : shiftArgs i = some x) :
    i = .shl x ∨ i = .shr x ∨ i = .sra x ∨ i = .rol x := by
  unfold shiftArgs at h
  split at h <;> simp_all

theorem exec_shift {i : Instr} {x : Arith} (h : shiftArgs i = some x) (s : State) :
    exec i s = s.plain true noCheck [Use.w x.d, Use.r x.a, Use.r x.b] fun j =>
      j.int x.d fun _ rd => shiftWord i (rd x.a) (shiftCount (rd x.b)) := by
  rcases shiftArgs_cases h with rfl | rfl | rfl | rfl <;> rfl

/-- The bits of a shifted word are those that R101 states. -/
theorem getLsbD_shiftWord {i : Instr} {x : Arith} (h : shiftArgs i = some x) {w : Nat} (a : BitVec w) {n k : Nat} (hn : n < w)
    (hk : k < w) : (shiftWord i a n).getLsbD k = shiftBit i a n k := by
  rcases shiftArgs_cases h with rfl | rfl | rfl | rfl
  case inl =>
    rw [shiftWord, shiftBit, BitVec.getLsbD_shiftLeft]
    simp [hk, ← decide_not]
  case inr.inl =>
    rw [shiftWord, shiftBit, BitVec.getLsbD_ushiftRight, Nat.add_comm]
    by_cases hin : k + n < w
    · simp [hin]
    · simp [hin, BitVec.getLsbD_of_ge a _ (Nat.not_lt.1 hin)]
  case inr.inr.inl =>
    rw [shiftWord, shiftBit, BitVec.getLsbD_sshiftRight, Nat.add_comm, BitVec.msb_eq_getLsbD_last]
    simp [Nat.not_le.2 hk]
  case inr.inr.inr =>
    have hout : w - n + k = k + w - n := by omega
    simp only [shiftWord, shiftBit, BitVec.getLsbD_rotateLeft, Nat.mod_eq_of_lt hn, hout, hk, decide_true, Bool.true_and,
      Bool.cond_eq_ite, decide_eq_true_eq]
    by_cases hin : n ≤ k
    · rw [if_neg (Nat.not_lt.2 hin), if_pos hin]
    · rw [if_pos (Nat.lt_of_not_le hin), if_neg hin]

theorem exec_shift_completes {i : Instr} {x : Arith} {s : State} {g : Nat} {G : Gang} {gr : Group} {j : Issuer}
    (hx : shiftArgs i = some x) (hj : s.issue = .gang g G gr j) (ho : Operable [Use.w x.d, Use.r x.a, Use.r x.b] j G)
    (hr : Roomy s g G [Use.w x.d, Use.r x.a, Use.r x.b]) :
    ∃ t, exec i s = .next t ∧ Completes s t g G j.frag
      (laneV j x.d fun l => shiftWord i (j.rd x.a l) (shiftCount (j.rd x.b l)))
      (scalD x.d (shiftWord i (j.rds x.a) (shiftCount (j.rds x.b)))) 0 next8 := by
  rw [exec_shift hx]
  exact State.plain_completes hj ho hr (Issuer.put_flags ..)

/-- Settles O13: the word that the model writes is `shiftWord`, whose bits are those of R101. -/
theorem shiftsBySpec : Obligations.ShiftsBySpec := by
  intro i x s g G gr iss hx _ hi ho hr
  obtain ⟨t, ht, hc⟩ := exec_shift_completes hx hi ho hr
  refine ⟨t, _, _, ht, hc, fun d hd => ?_, fun d hd => ?_⟩
  · rw [hd]
    refine ⟨fun n => rfl, fun n l _ => ?_⟩
    rw [laneV_v]
    split
    · exact ⟨_, rfl, fun k hk => getLsbD_shiftWord hx _ (Nat.mod_lt _ (by decide)) hk⟩
    · rfl
  · rw [hd]
    refine ⟨fun n l => rfl, fun n => ?_⟩
    rw [scalD_s]
    split
    · exact ⟨_, rfl, fun k hk => getLsbD_shiftWord hx _ (Nat.mod_lt _ (by decide)) hk⟩
    · rfl

/-! ### Comparisons (R102) -/

theorem ratOf_not (n : Bool) (m : Nat) (e : Int) : ratOf (!n) m e = -ratOf n m e := by
  cases n <;> simp [ratOf]

/-- A magnitude in units of a smaller exponent. -/
theorem ratOf_shiftLeft (n : Bool) (m : Nat) {e e0 : Int} (h : e0 ≤ e) :
    ratOf n m e = ((if n then -((m <<< (e - e0).toNat : Nat) : Int) else ((m <<< (e - e0).toNat : Nat) : Int) : Int) : ℚ) * 2 ^ e0 := by
  have he : (2 : ℚ) ^ e = 2 ^ (e - e0).toNat * 2 ^ e0 := by
    rw [← zpow_natCast, ← zpow_add₀ (by norm_num), Int.toNat_of_nonneg (by omega), Int.sub_add_cancel]
  rw [ratOf, he, Nat.shiftLeft_eq]
  cases n <;> simp [mul_assoc]

/-- The sum of `addExact` is exact. -/
theorem addExact_eq_ratOf (n1 : Bool) (m1 : Nat) (e1 : Int) (n2 : Bool) (m2 : Nat) (e2 : Int) :
    ((addExact n1 m1 e1 n2 m2 e2).1 : ℚ) * 2 ^ (addExact n1 m1 e1 n2 m2 e2).2 = ratOf n1 m1 e1 + ratOf n2 m2 e2 := by
  unfold addExact
  extract_lets e a b
  have h1 : e ≤ e1 := by simp only [e]; split <;> omega
  have h2 : e ≤ e2 := by simp only [e]; split <;> omega
  rw [ratOf_shiftLeft n1 m1 h1, ratOf_shiftLeft n2 m2 h2, ← add_mul, ← Int.cast_add]

theorem addExact_lt_zero_iff (n1 : Bool) (m1 : Nat) (e1 : Int) (n2 : Bool) (m2 : Nat) (e2 : Int) :
    (addExact n1 m1 e1 (!n2) m2 e2).1 < 0 ↔ ratOf n1 m1 e1 < ratOf n2 m2 e2 := by
  have hsum := addExact_eq_ratOf n1 m1 e1 (!n2) m2 e2
  rw [ratOf_not, ← sub_eq_add_neg] at hsum
  have hpos : (0 : ℚ) < 2 ^ (addExact n1 m1 e1 (!n2) m2 e2).2 := by positivity
  rw [← sub_neg (a := ratOf n1 m1 e1), ← hsum, ← Int.cast_lt_zero (R := ℚ), ← mul_lt_mul_iff_left₀ hpos, zero_mul]

/-- The order of the model is that of R102. -/
theorem FVal.lt_iff_less (x y : FVal) : x.lt false y = true ↔ Less x y := by
  cases x with
  | nan _ => simp [FVal.lt, Less]
  | inf a => cases y <;> simp [FVal.lt, Less]
  | fin n m e =>
    cases y with
    | nan _ => simp [FVal.lt, Less]
    | inf b => simp [FVal.lt, Less]
    | fin k p d =>
      simp only [FVal.lt, Less]
      by_cases hz : m = 0 ∧ p = 0
      · simp [hz, ratOf]
      · simp [hz, addExact_lt_zero_iff]

theorem not_eq_true_iff_of_iff {b : Bool} {P : Prop} (h : b = true ↔ P) : (!b) = true ↔ ¬P := by
  rw [← h, Bool.not_eq_true', Bool.not_eq_true]

/-- The conditions of R102 on floating-point values as the model decides them. -/
theorem fcompare_iff_fpCompares (cc : Nat) (x y : FVal) : (fcompare cc x y).1 = true ↔ FpCompares cc x y := by
  have heq : (!(x.isNan || y.isNan) && !x.lt false y && !y.lt false x) = true
      ↔ ¬(x.isNan = true ∨ y.isNan = true) ∧ ¬Less x y ∧ ¬Less y x := by
    simp only [Bool.and_eq_true, Bool.not_eq_true', ← Bool.not_eq_true, Bool.or_eq_true, FVal.lt_iff_less, and_assoc]
  match cc with
  | 0 => exact heq
  | 1 => exact not_eq_true_iff_of_iff heq
  | 2 => exact FVal.lt_iff_less x y
  | 3 => exact (Bool.or_eq_true_iff ..).trans (or_congr (FVal.lt_iff_less x y) heq)
  | 4 => exact FVal.lt_iff_less y x
  | 5 => exact (Bool.or_eq_true_iff ..).trans (or_congr (FVal.lt_iff_less y x) heq)
  | 6 => exact Bool.or_eq_true_iff ..
  | _ + 7 => exact not_eq_true_iff_of_iff (Bool.or_eq_true_iff ..)

/-- The conditions of R102 on integers as the model decides them. -/
theorem icompare_eq_compares {w : Nat} (cc : Nat) (a b : BitVec w) : icompare cc a b = compares cc a b := by
  match cc with
  | 0 | 1 | 2 | 3 | 4 | 5 | 6 => rfl
  | _ + 7 => rfl

/-- Instruction `i` is the comparison `c`: it passes the checks of `c`, and writes 1 where it finds the condition of `c` to hold and
0 elsewhere. -/
def Decides (i : Instr) (c : Comparison) : Prop :=
  ∃ us, c.uses = Use.w c.d :: us ∧ ∃ (bank : Bool) (body : Issuer → Res), (∀ s, exec i s = s.plain bank noCheck c.uses body)
    ∧ ∀ j, ∃ (p : Nat → Bool) (q : Bool) (fl : BitVec 5), (∀ l, p l = true ↔ c.lane j l) ∧ (q = true ↔ c.scal j)
      ∧ body j = { j.put c.d (fun l => BitVec.ofNat 32 (boolNat (p l))) (fun _ => BitVec.ofNat 64 (boolNat q)) with flags := fl }

theorem icmp_decides (x : Arith) {c : Comparison} (h : comparison (.icmp x) = some c) : Decides (.icmp x) c := by
  obtain rfl := Option.some.inj h
  exact ⟨_, rfl, true, _, fun _ => rfl, fun j => ⟨fun l => icompare x.sub.toNat (j.rd x.a l) (j.rd x.b l),
    icompare x.sub.toNat (j.rds x.a) (j.rds x.b), 0, fun l => by simp only [icompare_eq_compares],
    by rw [icompare_eq_compares], j.put_flags ..⟩⟩

theorem icmpi_decides (x : IForm) {c : Comparison} (h : comparison (.icmpi x) = some c) : Decides (.icmpi x) c := by
  obtain rfl := Option.some.inj h
  exact ⟨_, rfl, true, _, fun _ => rfl, fun j => ⟨fun l => icompare x.sub.toNat (j.rd x.a l) (x.imm.signExtend 32),
    icompare x.sub.toNat (j.rds x.a) (x.imm.signExtend 64), 0,
    fun l => by simp only [icompare_eq_compares, BitVec.signExtend_eq], by rw [icompare_eq_compares], j.put_flags ..⟩⟩

/-- The word that a comparison writes on the scalar pipe is zero-extended (R102). -/
theorem setWidth_boolNat (b : Bool) : (BitVec.ofNat 32 (boolNat b)).setWidth 64 = BitVec.ofNat 64 (boolNat b) := by
  cases b <;> rfl

/-- The result of a floating-point comparison: the numbers of its decisions, and flags. -/
theorem Issuer.putF_cmpCode (i : Issuer) (d : Operand) (f : Nat → Bool × BitVec 5) (y : Bool × BitVec 5) :
    ∃ fl, i.putF d (fun l => w32 (cmpCode (f l))) (fun _ => w32 (cmpCode y))
      = { i.put d (fun l => BitVec.ofNat 32 (boolNat (f l).1)) (fun _ => BitVec.ofNat 64 (boolNat y.1)) with flags := fl } := by
  rw [i.putF_eq_put]
  simp only [w32, cmpCode, setWidth_boolNat]
  exact ⟨_, rfl⟩

theorem fcmp_decides (x : Arith) {c : Comparison} (h : comparison (.fcmp x) = some c) : Decides (.fcmp x) c := by
  obtain rfl := Option.some.inj h
  refine ⟨_, rfl, false, _, fun _ => rfl, fun j => ?_⟩
  obtain ⟨fl, hres⟩ := j.putF_cmpCode x.d
    (fun l => fcompare x.sub.toNat (fpArg x fp32 j 2 (j.rd x.a l).toNat) (fpArg x fp32 j 1 (j.rd x.b l).toNat))
    (fcompare x.sub.toNat (fpArg x fp32 j 2 ((j.rds x.a).toNat % 2 ^ 32)) (fpArg x fp32 j 1 ((j.rds x.b).toNat % 2 ^ 32)))
  exact ⟨_, _, fl, fun l => fcompare_iff_fpCompares .., fcompare_iff_fpCompares .., hres⟩

theorem dcmp_decides (x : Arith) {c : Comparison} (h : comparison (.dcmp x) = some c) : Decides (.dcmp x) c := by
  obtain rfl := Option.some.inj h
  refine ⟨_, rfl, false, _, fun _ => rfl, fun j => ?_⟩
  obtain ⟨fl, hres⟩ := j.putF_cmpCode x.d
    (fun l => fcompare x.sub.toNat (fpArg x fp64 j 2 (j.rdq x.a l).toNat) (fpArg x fp64 j 1 (j.rdq x.b l).toNat))
    (fcompare x.sub.toNat (fpArg x fp64 j 2 (j.rds x.a).toNat) (fpArg x fp64 j 1 (j.rds x.b).toNat))
  exact ⟨_, _, fl, fun l => fcompare_iff_fpCompares .., fcompare_iff_fpCompares .., hres⟩

theorem decides_of_comparison {i : Instr} {c : Comparison} (h : comparison i = some c) : Decides i c := by
  unfold comparison at h
  split at h
  · exact icmp_decides _ h
  · exact icmpi_decides _ h
  · exact fcmp_decides _ h
  · exact dcmp_decides _ h
  · cases h

/-- What R102 writes: 1 where the condition holds, 0 where it does not. -/
theorem ofNat_boolNat {w : Nat} {b : Bool} {P : Prop} (h : b = true ↔ P) :
    (P → some (BitVec.ofNat w (boolNat b)) = some 1) ∧ (¬P → some (BitVec.ofNat w (boolNat b)) = some 0) := by
  rw [← h]
  cases b <;> simp [boolNat]

/-- Settles O14: each comparing instruction decides the condition of R102 and writes its number. -/
theorem comparisons : Obligations.Comparisons := by
  intro i c s g G gr iss hc _ hi ho hr
  obtain ⟨us, hus, bank, body, hexec, hbody⟩ := decides_of_comparison hc
  obtain ⟨p, q, fl, hp, hq, hres⟩ := hbody iss
  rw [hexec]
  rw [hus] at ho hr ⊢
  obtain ⟨t, ht, hcompl⟩ := State.plain_completes hi ho hr hres
  refine ⟨t, _, _, fl, ht, hcompl, fun d hd => ?_, fun d hd => ?_⟩
  · rw [hd]
    refine ⟨fun n => rfl, fun n l _ => ?_⟩
    rw [laneV_v]
    split
    · exact ofNat_boolNat (hp l)
    · rfl
  · rw [hd]
    refine ⟨fun n l => rfl, fun n => ?_⟩
    rw [scalD_s]
    split
    · exact ofNat_boolNat hq
    · rfl

end Sys2Proof.Machine
end

section
/-! PROOFS. What an address translation leaves of the machine (R174, R378), trap entry in user mode as the last act of an
irrevocable instruction (R155, R212), and the queue instructions that trap (R147). -/
namespace Sys2Proof.Machine

/-! ### Looking at memory -/

theorem Looked.refl (s : State) : Looked s s := ⟨rfl, fun _ => ⟨rfl, rfl, rfl⟩, fun _ => rfl⟩

theorem Looked.trans {a b c : State} (h : Looked a b) (k : Looked b c) : Looked a c where
  rest := by rw [k.rest, h.rest]
  counters i := by
    obtain ⟨hoff, hsel, hctx⟩ := h.counters i
    obtain ⟨koff, ksel, kctx⟩ := k.counters i
    exact ⟨koff.trans hoff, ksel.trans hsel, kctx.trans hctx⟩
  selectors i := (k.selectors i).trans (h.selectors i)

theorem Looked.count (s : State) (p c src n : Nat) : Looked s (s.count p c src n) where
  rest := by
    conv_lhs => rw [State.count_eq]
    rw [State.count_eq]
  counters k := State.count_core s p c src n k
  selectors i := by rw [State.count_eq]; rfl

theorem Looked.drawNat (s : State) : Looked s s.drawNat.2 := ⟨rfl, fun _ => ⟨rfl, rfl, rfl⟩, fun _ => rfl⟩

theorem Looked.tlb (s : State) (t : List TlbEntry) : Looked s { s with tlb := t } :=
  ⟨rfl, fun _ => ⟨rfl, rfl, rfl⟩, fun _ => rfl⟩

theorem Looked.blocked (s : State) (b : Bool) : Looked s { s with blocked := b } :=
  ⟨rfl, fun _ => ⟨rfl, rfl, rfl⟩, fun _ => rfl⟩

theorem State.walk_looked (s : State) (ctx va : Nat) : Looked s (s.walk ctx va).2 := by
  unfold State.walk
  dsimp only
  split
  · exact .refl s
  · exact .blocked s true

/-- A translation only looks at memory, whether it takes an entry of the TLB or walks and fills it (R174). -/
theorem State.translate_looked (s : State) (p ctx va : Nat) : Looked s (s.translate p ctx va).2 := by
  unfold State.translate
  have hwalk := s.walk_looked ctx va
  split
  next fresh w hw =>
  rw [hw] at hwalk
  extract_lets fill
  have hfill (u : State) : Looked u (fill u) := by
    cases fresh with
    | leaf l => exact .tlb ..
    | _ => exact .refl u
  split
  · exact (hwalk.trans (.count ..)).trans (hfill _)
  · extract_lets olds
    split
    · exact .refl s
    · -- entries differ from a walk: the draw picks one of them, or the walk, which fills the TLB if it is not there yet
      split
      next n u hdrawn =>
      have hdraw : Looked s u := by
        have hn := Looked.drawNat s
        rwa [hdrawn] at hn
      split
      · exact hdraw
      · dsimp only
        split
        · exact hdraw
        · exact ((hdraw.trans (.blocked ..)).trans (.count ..)).trans (hfill _)

/-- The checks of an address only look at memory (R225). -/
theorem State.resolve_looked (s : State) (p ctx grp va : Nat) (write exec coherent : Bool) :
    Looked s (s.resolve p ctx grp va write exec coherent).2 := by
  have htr := s.translate_looked p ctx va
  unfold State.resolve
  split
  · exact .refl s
  split
  · split <;> exact .refl s
  · generalize s.translate p ctx va = r at htr ⊢
    obtain ⟨walk, u⟩ := r
    cases walk <;> exact htr

/-- A TRAPVEC that runs leaves only what the look at its page leaves (R160). -/
theorem State.vecFault_looked {s : State} {p ctx grp va : Nat} (h : (s.vecFault p ctx grp va).1 = none) :
    Looked s (s.vecFault p ctx grp va).2 := by
  have hres := s.resolve_looked p ctx grp va false true false
  unfold State.vecFault at h ⊢
  split
  · exact .refl s
  split
  · exact .refl s
  · next hcheck halign =>
    rw [if_neg hcheck, if_neg halign] at h
    generalize s.resolve p ctx grp va false true false = r at hres h ⊢
    obtain ⟨_ | _, u⟩ := r
    · cases h
    · exact hres

/-! ### Trap entry at the end of an irrevocable instruction -/

/-- What `Gang.Entered` says of the gang after trap entry does not depend on the accounts of the issue. -/
theorem Gang.Entered.accounted {G G1 G2 : Gang} {cause addr mask vec : DWord} {frag : BitVec 8}
    (h : G.Entered G1 cause addr mask vec frag) (ha : G1.Accounted G2) : G.Entered G2 cause addr mask vec frag := by
  rw [Gang.Accounted] at ha
  rw [ha]
  exact ⟨h.epcs, h.aside, h.cause, h.addr, h.mask, h.mode, h.nest, h.frag, h.keeps⟩

/-- It does not depend on the end of a crawl and the mark of an irrevocable operation either (R212, R215). -/
theorem Gang.Entered.endCrawl {G G1 : Gang} {cause addr mask vec : DWord} {frag : BitVec 8}
    (h : G.Entered G1 cause addr mask vec frag) (n : Nat) :
    G.Entered { G1.endCrawl with irr := n } cause addr mask vec frag := by
  unfold Gang.endCrawl
  split <;> exact ⟨h.epcs, h.aside, h.cause, h.addr, h.mask, h.mode, h.nest, h.frag, h.keeps⟩

/-- An irrevocable instruction of a calm gang in user mode that takes a trap enters the handler with its report, and leaves
the other gangs, memory and the queues as they are (R155, R212). -/
theorem State.irrevocable_traps {s : State} {g : Nat} {G : Gang} {gr : Group} (t : TrapInfo) (hg : s.gangs[g]? = some G)
    (hgr : s.groups[G.grp]? = some gr) (hc : Calm G) (hu : G.super = false) (hv : VectorRuns s G gr) :
    let u := s.irrevocable g G fun s => some (s.takeTrap g t)
    Traps s u g G (s.ctx gr.ctx).trapvec t.causeWord t.addr t.lanes t.retry t.frag ∧ u.queues = s.queues := by
  intro u
  have hlook := State.vecFault_looked hv
  set w := (s.vecFault G.part gr.ctx G.grp (s.ctx gr.ctx).trapvec.toNat).2
  set e := w.updGang g fun G => G.enterTrap t (s.ctx gr.ctx).trapvec
  have hue : u = ((e.account g false).updGang g fun G => { G.endCrawl with irr := e.stamp + 1 }) :=
    State.irrevocable_calm hc (congrArg some (State.takeTrap_user t hg hgr hu hv))
  have honly : OnlyGang w u g := by
    rw [hue]
    exact ((OnlyGang.updGang ..).trans (State.account_frame ..)).trans (.updGang ..)
  have hwg : w.gangs = s.gangs := by rw [hlook.rest]
  have heg : e.gangs[g]? = some (G.enterTrap t (s.ctx gr.ctx).trapvec) := by
    rw [State.gangs_updGang, if_pos rfl, hwg, hg, Option.map_some]
  obtain ⟨G1, hG1, hacc⟩ := State.account_gang heg false
  have hug : u.gangs[g]? = some { G1.endCrawl with irr := e.stamp + 1 } := by
    rw [hue, State.gangs_updGang, if_pos rfl, hG1, Option.map_some]
  refine ⟨⟨⟨_, hug, ((G.enterTrap_entered t _).accounted hacc).endCrawl _⟩, fun k hk => ?_, fun a => ?_⟩, ?_⟩
  · rw [honly.others k hk, hwg]
  · rw [honly.rest, hlook.rest]
  · rw [honly.rest, hlook.rest]

/-! ### Queue instructions without their queue -/

/-- The fault of R145 and R147 has no lanes to gather and no malformed entries to record, so it is its trap (R155). -/
theorem State.fault_fragTrap (s : State) (g : Nat) (i : Issuer) (c : Cause) :
    s.fault g (fragTrap i c) = s.takeTrap g (fragTrap i c) := by
  unfold State.fault State.recordWalks
  cases s.gangs[g]? <;> rfl

/-- A queue operation in one of the cases of R147 is the trap alone, whatever it would do to an instance. -/
theorem State.queueOp_refused {s : State} {x : Sync} {push : Bool} {g : Nat} {G : Gang} {gr : Group} {i : Issuer}
    {serve : Queue → Option (Queue × Res)}
    (h : ∀ d, s.qdecl gr x.id.toNat = some d → d.scope ≠ x.scope.toNat ∨ gr.stage ≠ if push then d.pstage else d.cstage) :
    s.queueOp x push g G gr i serve = s.irrevocable g G fun s => some (s.takeTrap g (fragTrap i .qfullscope)) := by
  simp only [← State.fault_fragTrap]
  unfold State.queueOp
  cases hd : s.qdecl gr x.id.toNat with
  | none => rfl
  | some d =>
    have hno : (decide (d.scope = x.scope.toNat) && decide (gr.stage = if push then d.pstage else d.cstage)) = false := by
      rcases h d hd with hscope | hstage
      · rw [decide_eq_false hscope, Bool.false_and]
      · rw [decide_eq_false hstage, Bool.and_false]
    exact if_pos (congrArg Bool.not hno)

/-- A queue operation in one of the cases of R147 raises QFULLSCOPE with the lanes of the issuing fragment, and no queue changes. -/
theorem State.queueOp_traps {s : State} {x : Sync} {push : Bool} {g : Nat} {G : Gang} {gr : Group} {i : Issuer}
    {serve : Queue → Option (Queue × Res)} (hi : s.issue = .gang g G gr i) (hc : Calm G) (hu : G.super = false)
    (hv : VectorRuns s G gr)
    (h : ∀ d, s.qdecl gr x.id.toNat = some d → d.scope ≠ x.scope.toNat ∨ gr.stage ≠ if push then d.pstage else d.cstage) :
    let t := s.queueOp x push g G gr i serve
    Traps s t g G (s.ctx gr.ctx).trapvec (causeWord 0 0 0x0A) i.pc i.lanes 0 i.frag ∧ t.queues = s.queues := by
  obtain ⟨hG, -, hgr, -⟩ := State.issue_gang hi
  rw [State.queueOp_refused h]
  exact State.irrevocable_traps (fragTrap i .qfullscope) hG hgr hc hu hv

/-- Settles O30: both instructions run `State.queueOp`, a push for stage PSTAGE and a pop for stage CSTAGE. -/
theorem queueScopeTraps : Obligations.QueueScopeTraps := by
  intro x s g G gr i hi hc hu hv
  refine ⟨fun ⟨hbad, hlocked⟩ h => ?_, fun ⟨hbad, hlocked⟩ h => ?_⟩
  · exact ⟨_, State.onGang_ok hi (usesCheck_none hbad) hlocked, State.queueOp_traps hi hc hu hv h⟩
  · exact ⟨_, State.onGang_ok hi (usesCheck_none hbad) hlocked, State.queueOp_traps hi hc hu hv h⟩

end Sys2Proof.Machine
end
